-- ==== Sys2Proof/Word.lean ====
section
/-! DEFINITION. The word types of the 3620's link port and sensor link. -/

namespace Sys2Proof

/-- One byte of a link frame or of a sensor link frame (R143, R165). -/
abbrev Byte := BitVec 8

/-- A 16-bit number as the frames carry it, high byte first (Table 11-1 and below it). -/
abbrev Word16 := BitVec 16

/-- An odometer value or a mark: millimetres modulo 2^32 (R20, R137). -/
abbrev Word32 := BitVec 32

end Sys2Proof
end

