-- ==== Sys2Proof/Syntax.lean ====
section
/-! DEFINITION. The commands of the 3620: one constructor for each row of spec/opcode_table.json, with the operands
the row's event or request carries. -/

namespace Sys2Proof

/-- The three brush units: left arm brush, right arm brush, main broom (Table 1-4). -/
inductive BrushUnit where
  | l | r | m
deriving DecidableEq, Repr

/-- The five pulse input channels (Table 1-3 and the note below it). -/
inductive PulseChannel where
  | wl | wr | bl | br | bm
deriving DecidableEq, Repr

/-- The ten end switch pins (Table 1-3, Table 5-2). -/
inductive EndSwitch where
  | sli | slo | slu | sld | sri | sro | sru | srd | smu | smd
deriving DecidableEq, Repr

/-- The commands. The events come first, in the table's order; then the requests. A request's operands are its frame's
TAG and its BODY, byte for byte as Table 11-4 lays it out, so that a body of a wrong length can be sent too. -/
inductive Instr where
  /-- HARDWARE_RESET (R3): the RESET pin or power-on. -/
  | hardwareReset
  /-- WAKE_ACTIVE (R4): the WAKE line goes to its active level. -/
  | wakeActive
  /-- SETTLE_TIMER_EXPIRY (R5). -/
  | settleTimerExpiry
  /-- PARK_STOP_TIMER_EXPIRY (R9). -/
  | parkStopTimerExpiry
  /-- PULSE_EDGE (R16): an edge on a wheel channel's A line or on a brush channel's line; whether it rises; and, for a
  wheel channel, whether the B line is high at the edge. -/
  | pulseEdge (ch : PulseChannel) (rising bHigh : Bool)
  /-- WHEEL_GATE_CLOSE (R18): the wheel gate timer expires. -/
  | wheelGateClose
  /-- BRUSH_GATE_CLOSE (R23): the brush gate timer expires. -/
  | brushGateClose
  /-- REQUEST_TIMER_EXPIRY (R29). -/
  | requestTimerExpiry
  /-- DRIVE_PERIOD_EXPIRY (R30). -/
  | drivePeriodExpiry
  /-- DWELL_TIMER_EXPIRY (R35). -/
  | dwellTimerExpiry
  /-- BRUSH_RAMP_TIMER_EXPIRY (R58) of one unit. -/
  | brushRampTimerExpiry (u : BrushUnit)
  /-- STALL_TIMER_EXPIRY (R64) of one unit. -/
  | stallTimerExpiry (u : BrushUnit)
  /-- LAG_TIMER_EXPIRY (R65) of one unit. -/
  | lagTimerExpiry (u : BrushUnit)
  /-- END_SWITCH_CHANGE (R70): one end switch pin takes a level. -/
  | endSwitchChange (sw : EndSwitch) (active : Bool)
  /-- SPACING_TIMER_EXPIRY (R82). -/
  | spacingTimerExpiry
  /-- CYLINDER_TIMEOUT_EXPIRY (R84): the timeout of the cylinder action in progress. -/
  | cylinderTimeoutExpiry
  /-- SPIN_DOWN_TIMER_EXPIRY (R87) of one unit. -/
  | spinDownTimerExpiry (u : BrushUnit)
  /-- RELEASE_TIMER_EXPIRY (R74) of one arm. -/
  | releaseTimerExpiry (u : BrushUnit)
  /-- WATER_RAMP_TIMER_EXPIRY (R98). -/
  | waterRampTimerExpiry
  /-- VALVE_LEAD_TIMER_EXPIRY (R100). -/
  | valveLeadTimerExpiry
  /-- VALVE_LAG_TIMER_EXPIRY (R102). -/
  | valveLagTimerExpiry
  /-- SUPPLY_HOLD_TIMER_EXPIRY (R113). -/
  | supplyHoldTimerExpiry
  /-- ARBITER_PERIOD_EXPIRY (R117). -/
  | arbiterPeriodExpiry
  /-- ROUND_PERIOD_TIMER_EXPIRY (R146). -/
  | roundPeriodTimerExpiry
  /-- MASTER_FRAME_SENT (R143): the last stop bit of a master frame ends. -/
  | masterFrameSent
  /-- SENSOR_REPLY_COMPLETE (R143): the five bytes received in the reply window, in order. -/
  | sensorReplyComplete (address code high low check : Byte)
  /-- REPLY_WINDOW_CLOSE (R143): the window closes with fewer than five bytes. -/
  | replyWindowClose
  /-- TURNAROUND_EXPIRY (R143): the 50 µs line turnaround ends. -/
  | turnaroundExpiry
  /-- FRAME_RECEIVED (R166): a link frame is received to its last byte; its LEN is the length of the body. -/
  | frameReceived (kind tag : Byte) (body : List Byte) (crc : Word16)
  /-- INTER_BYTE_GAP_TIMEOUT (R166): more than 5 ms pass within a frame; the byte that ends the gap. -/
  | interByteGapTimeout (next : Byte)
  /-- FRAME_TRANSMIT_END (R170): the transmitter finishes the frame it is sending. -/
  | frameTransmitEnd
  /-- UNKNOWN_KIND (R167): a request with a KIND outside 01h to 18h is taken. -/
  | unknownKind (kind tag : Byte) (body : List Byte)
  /-- STATUS, KIND 01h (R173). -/
  | status (tag : Byte) (body : List Byte)
  /-- SET_MODE, KIND 02h (R6). -/
  | setMode (tag : Byte) (body : List Byte)
  /-- TRAVEL, KIND 03h (R28). -/
  | travel (tag : Byte) (body : List Byte)
  /-- SUPPLY, KIND 04h (R112). -/
  | supply (tag : Byte) (body : List Byte)
  /-- SETUP_WRITE, KIND 05h (R172). -/
  | setupWrite (tag : Byte) (body : List Byte)
  /-- SETUP_READ, KIND 06h (R172). -/
  | setupRead (tag : Byte) (body : List Byte)
  /-- RECIPE_WRITE, KIND 07h (R128). -/
  | recipeWrite (tag : Byte) (body : List Byte)
  /-- RECIPE_READ, KIND 08h (R129). -/
  | recipeRead (tag : Byte) (body : List Byte)
  /-- RECIPE_COPY, KIND 09h (R130). -/
  | recipeCopy (tag : Byte) (body : List Byte)
  /-- RECIPE_ERASE, KIND 0Ah (R131). -/
  | recipeErase (tag : Byte) (body : List Byte)
  /-- REFRESH, KIND 0Bh (R135). -/
  | refresh (tag : Byte) (body : List Byte)
  /-- PACE_WRITE, KIND 0Ch (R50). -/
  | paceWrite (tag : Byte) (body : List Byte)
  /-- PACE_READ, KIND 0Dh (R51). -/
  | paceRead (tag : Byte) (body : List Byte)
  /-- ZONE_ADD, KIND 0Eh (R138). -/
  | zoneAdd (tag : Byte) (body : List Byte)
  /-- ZONE_CLEAR, KIND 0Fh (R139). -/
  | zoneClear (tag : Byte) (body : List Byte)
  /-- ZONE_LIST, KIND 10h (R139). -/
  | zoneList (tag : Byte) (body : List Byte)
  /-- PUSH, KIND 11h (R133). -/
  | push (tag : Byte) (body : List Byte)
  /-- POP, KIND 12h (R134). -/
  | pop (tag : Byte) (body : List Byte)
  /-- SET_LIFT: UNIT, KIND 13h, operation 0 (R77). -/
  | setLift (tag : Byte) (body : List Byte)
  /-- RELEASE_LIFT: UNIT, KIND 13h, operation 1 (R77). -/
  | releaseLift (tag : Byte) (body : List Byte)
  /-- RELEASE_SENSED: UNIT, KIND 13h, operation 2 (R77). -/
  | releaseSensed (tag : Byte) (body : List Byte)
  /-- RELEASE_KNOCK: UNIT, KIND 13h, operation 3 (R77). -/
  | releaseKnock (tag : Byte) (body : List Byte)
  /-- SPRAY, KIND 14h (R95). -/
  | spray (tag : Byte) (body : List Byte)
  /-- CLEAR, KIND 15h (R161). -/
  | clear (tag : Byte) (body : List Byte)
  /-- SET_ODOMETER, KIND 16h (R25). -/
  | setOdometer (tag : Byte) (body : List Byte)
  /-- SENSOR_READ, KIND 17h (R153). -/
  | sensorRead (tag : Byte) (body : List Byte)
  /-- RESTART, KIND 18h (R13). -/
  | restart (tag : Byte) (body : List Byte)
  /-- WAKE_INACTIVE (R4): the WAKE line goes to its inactive level. -/
  | wakeInactive
  /-- LEN_ABOVE_56_DISCARD (R166): the LEN byte that arrived after a SYNC. -/
  | lenAbove56Discard (len : Byte)
deriving DecidableEq, Repr

end Sys2Proof
end

