-- ==== Sys2Proof/Config.lean ====
section
/-! DEFINITION. The values the manual leaves open: constants without a body, so that nothing can be proved of what
they are. -/

namespace Sys2Proof

/-- The result of a RECIPE_READ whose place type is neither 0 (slot) nor 1 (stack position), as its place in Table 11-2:
Table 11-4 gives no meaning to such a type and no result for it (assumption log 4). Applied to the model's own counter. -/
opaque Config.unstatedResult : Nat → Fin 17

/-- What stands behind the result code in the reply of such a RECIPE_READ when that result is OK, CLAMPED or REPLACED
(assumption log 4). Applied to the model's own counter. -/
opaque Config.unstatedReply : Nat → List Byte

/-- The two bytes by which STATUS carries a wheel speed that lies outside the signed 16-bit range: R18 bounds the
speed sample and not the wheel speeds, and Table 11-6 gives each of them two bytes (assumption log 5). -/
opaque Config.wideWheelSpeed : Int → Word16

end Sys2Proof
end

