-- ==== Sys2Proof/Machine/State.lean ====
section
/-! DEFINITION. The state of the 3620, block by block (Table 1-1), its value after a hardware reset, and the reasons a
step can stop. Everything here is plain data. -/

namespace Sys2Proof.Machine

/-! ## Collections with a fixed number of named members -/

/-- One value for each brush unit L, R, M. -/
structure PerUnit (α : Type) where
  l : α
  r : α
  m : α
deriving DecidableEq, Repr

/-- One value for each sensor role, in the order of Table 9-2. -/
structure PerRole (α : Type) where
  drivePA : α
  drivePB : α
  auxP : α
  oilT : α
  tank : α
  dust : α
  curbL : α
  curbR : α
deriving DecidableEq, Repr

/-- One value for each power consumer, in the rank order of Table 7-2. -/
structure PerConsumer (α : Type) where
  arms : α
  drive : α
  broomM : α
  brushL : α
  brushR : α
  water : α
deriving DecidableEq, Repr

/-- One value for each cylinder kind, in the order of Table 5-8. -/
structure PerKind (α : Type) where
  swingOut : α
  swingIn : α
  lift : α
  lower : α
deriving DecidableEq, Repr

/-! ## Time -/

/-- A timer: stopped, or running and due at a time in microseconds. -/
abbrev Timer := Option Nat

/-! ## Mode Control (Chapter 1) -/

/-- The seven vehicle modes (Table 1-8). -/
inductive Mode where
  | standby | settle | park | transport | work | stowing | parking
deriving DecidableEq, Repr

/-- The Mode Control record (R1). -/
structure ModeControl where
  mode : Mode
  target : Mode
  settleTimer : Timer
  parkStopTimer : Timer
deriving DecidableEq, Repr

/-! ## Pulse Capture Unit (Chapter 2) -/

/-- The direction shown by a speed sample (Table 2-1). -/
inductive Direction where
  | forward | reverse | still
deriving DecidableEq, Repr

/-- What the Pulse Capture Unit holds for one wheel (Table 2-1). -/
structure Wheel where
  count : Int
  speed : Int
  included : Bool
  faultRun : Nat
  readmitRun : Nat
deriving DecidableEq, Repr

/-- The Pulse Capture Unit record (Table 2-1) and its two gate timers (R17). -/
structure PulseCapture where
  wl : Wheel
  wr : Wheel
  brushCount : PerUnit Nat
  sample : Int
  direction : Direction
  odometer : Word32
  remainder : Int
  brushRpm : PerUnit Int
  wheelGateTimer : Timer
  brushGateTimer : Timer
deriving DecidableEq, Repr

/-! ## Drive Regulator (Chapter 3) -/

/-- A travel direction: the held direction is one of these or absent (NONE), and a dwell runs toward one. -/
inductive Heading where
  | forward | reverse
deriving DecidableEq, Repr

/-- The direction-change dwell while it is RUNNING: its direction and the time its timer is due (Table 3-1). -/
structure Dwell where
  toward : Heading
  due : Nat
deriving DecidableEq, Repr

/-- The Drive Regulator record (Table 3-1), the drive period timer (R30) and the brake output (R43). -/
structure Drive where
  requested : Int
  requestTimer : Timer
  stale : Bool
  target : Int
  held : Option Heading
  dwell : Option Dwell
  ramped : Int
  correction : Int
  clampFlag : Bool
  dispCmd : Int
  demand : Int
  overrun : Bool
  dispOut : Int
  overspeed : Bool
  speedCap : Int
  accelStep : Int
  decelStep : Int
  periodTimer : Timer
  brk : Bool
deriving DecidableEq, Repr

/-! ## Brush Speed Unit (Chapter 4) -/

/-- The spin component of a posture (Table 5-1). -/
inductive Spin where
  | off | spinningUp | on | spinningDown
deriving DecidableEq, Repr

/-- The two directions of a brush ramp (Table 4-3). -/
inductive RampDir where
  | up | down
deriving DecidableEq, Repr

/-- A running brush ramp timer: its direction and the time it is due. -/
structure RampTimer where
  dir : RampDir
  due : Nat
deriving DecidableEq, Repr

/-- The per-unit record of the Brush Speed Unit (Table 4-3). -/
structure BrushRec where
  table : Fin 4
  index : Nat
  reselect : Bool
  spin : Spin
  heightDown : Bool
  t : Int
  c : Int
  rampTimer : Option RampTimer
  demand : Int
  out : Int
  output : Int
  stallTimer : Timer
  lagTimer : Timer
  starved : Bool
  stalled : Bool
  lagging : Bool
deriving DecidableEq, Repr

/-- The Brush Speed Unit: its three records, and the part of its recipe copy that is not per unit (R52). -/
structure Brushes where
  units : PerUnit BrushRec
  step : Int
  upRate : Int
  downRate : Int
deriving DecidableEq, Repr

/-! ## Arm Sequencer (Chapter 5) -/

/-- The reach component (Table 5-1); the main broom has none (Table 11-7). -/
inductive Reach where
  | isIn | out | unknown | absent
deriving DecidableEq, Repr

/-- The height component (Table 5-1). -/
inductive Height where
  | up | down | unknown
deriving DecidableEq, Repr

/-- The hold sources (R73). -/
inductive Hold where
  | sensed | knock | lift | stall
deriving DecidableEq, Repr

/-- The four kinds of cylinder action (Table 5-6). -/
inductive CylKind where
  | swingOut | swingIn | lift | lower
deriving DecidableEq, Repr

/-- A unit's activity (Table 5-4). -/
inductive Activity where
  | idle | waiting | moving (k : CylKind) | spinningUp | spinningDown | fault
deriving DecidableEq, Repr

/-- The goal of a unit: reach OUT or IN, height DOWN or UP, spin ON or OFF (R73). -/
structure Goal where
  out : Bool
  down : Bool
  on : Bool
deriving DecidableEq, Repr

/-- What the Arm Sequencer holds for one unit: posture (R69), base goal (true for WORKING, R72), goal and hold set
(R73), activity (R78), spin-down timer (R87) and release timer (R74). -/
structure ArmUnit where
  reach : Reach
  height : Height
  spin : Spin
  baseWorking : Bool
  holds : List Hold
  goal : Goal
  activity : Activity
  spinDownTimer : Timer
  releaseTimer : Timer
deriving DecidableEq, Repr

/-- One waiting entry of the manifold queue (R81). -/
structure QueueEntry where
  unit : BrushUnit
  kind : CylKind
deriving DecidableEq, Repr

/-- The cylinder action in progress: its valve is on; the time its timeout is due (R83, R84). -/
structure CylAction where
  unit : BrushUnit
  kind : CylKind
  due : Nat
deriving DecidableEq, Repr

/-- The Arm Sequencer: units, manifold queue and action (R81, R82), last end time per kind (absent for "long past",
R92), spacing timer, posted ARMS demand and whether an allocation has read it as it now stands (R82, R85), and the
copied units mask (R72). -/
structure Arms where
  units : PerUnit ArmUnit
  queue : List QueueEntry
  action : Option CylAction
  lastEnd : PerKind (Option Nat)
  spacingTimer : Timer
  demand : Int
  demandRead : Bool
  unitsMask : PerUnit Bool
deriving DecidableEq, Repr

/-! ## Spray Controller (Chapter 6) -/

/-- A set of nozzle groups, or the states of their four valves (open is true). -/
structure Nozzles where
  nl : Bool
  nr : Bool
  nm : Bool
  nf : Bool
deriving DecidableEq, Repr

/-- The four states of the valve sequence (Section 6.5). -/
inductive SpraySeq where
  | dry | lead | flowing | lag
deriving DecidableEq, Repr

/-- The Spray Controller record (Table 6-1). The factors ct_up and ct_dn are held as their codes (Section 11.7). -/
structure Spray where
  enable : Bool
  brushOn : PerUnit Bool
  wanted : Nozzles
  q : Int
  command : Int
  rampTimer : Timer
  seq : SpraySeq
  leadTimer : Timer
  lagTimer : Timer
  valves : Nozzles
  demand : Int
  pumpFlow : Int
  wpump : Int
  low : Bool
  empty : Bool
  dose : Int
  doseMax : Int
  dustBase : Int
  ctUp : Int
  ctDn : Int
  idleFlow : Int
  waterStep : Int
  mask : Nozzles
deriving DecidableEq, Repr

/-! ## Load Share Arbiter (Chapter 7) -/

/-- The six power consumers, in rank order (Table 7-2). -/
inductive Consumer where
  | arms | drive | broomM | brushL | brushR | water
deriving DecidableEq, Repr

/-- One consumer record (Table 7-2). -/
structure ConsumerRec where
  level : Nat
  demandRead : Int
  grant : Int
  share : Int
deriving DecidableEq, Repr

/-- The Load Share Arbiter record (Table 7-1) with its six consumer records. -/
structure Arbiter where
  supply : Int
  stale : Bool
  holdTimer : Timer
  derate : Bool
  stop : Bool
  budget : Int
  periodTimer : Timer
  consumers : PerConsumer ConsumerRec
deriving DecidableEq, Repr

/-! ## Recipe Unit (Chapter 8, Section 4.1) -/

/-- The 23 recipe fields, by field number (Table 8-1), the coded ones as their codes (Section 11.7). -/
abbrev RecipeFields := Vector Int 23

/-- One slot of the recipe table (R127). -/
structure Slot where
  valid : Bool
  fields : RecipeFields
  dirty : Vector Bool 23
deriving DecidableEq, Repr

/-- One entry of the recipe stack; its kind is BASE at the bottom and OVERRIDE above it (R132). -/
structure StackEntry where
  source : Fin 32
  fields : RecipeFields
deriving DecidableEq, Repr

/-- One entry of the zone queue (R137). -/
structure ZoneEntry where
  mark : Word32
  slot : Fin 32
  tag : Byte
deriving DecidableEq, Repr

/-- One pace table (Table 4-1). -/
structure PaceTable where
  count : Nat
  boundary : Vector Int 6
  rpm : Vector Int 6
  hysteresis : Int
deriving DecidableEq, Repr

/-- The Recipe Unit: recipe table, pace tables, recipe stack (the base, and the overrides from the bottom up), zone
queue (head first) and reference odometer. -/
structure Recipes where
  slots : Vector Slot 32
  pace : Vector PaceTable 4
  base : StackEntry
  overrides : List StackEntry
  zones : List ZoneEntry
  reference : Word32
deriving DecidableEq, Repr

/-! ## Sensor Link Master (Chapter 9) -/

/-- The eight sensor roles (Table 9-2). -/
inductive Role where
  | drivePA | drivePB | auxP | oilT | tank | dust | curbL | curbR
deriving DecidableEq, Repr

/-- The five channel states (R145). -/
inductive ChannelState where
  | unassigned | unknown | ok | suspect | lost
deriving DecidableEq, Repr

/-- The kinds of failure behind LOST (Table 9-3). -/
inductive Cause where
  | timeout | check | badCode | nodeFault | mismatch
deriving DecidableEq, Repr

/-- One channel record (Table 9-3). -/
structure Channel where
  state : ChannelState
  identified : Bool
  failures : Nat
  goodRun : Nat
  raw : Int
  f : Int
  filtered : Int
  cause : Option Cause
deriving DecidableEq, Repr

/-- The three commands of Table 9-1. -/
inductive NodeCommand where
  | identify | state | read
deriving DecidableEq, Repr

/-- A transaction: the role polled, the command and the address sent, and whether its round holds WARMING values (R152).
Its outcome may have to be discarded (an address write or a RESTART met it), and its round may have ended under it
(RESTART, or a waking before its end). -/
structure Transaction where
  role : Role
  command : NodeCommand
  address : Byte
  holdWarming : Bool
  discard : Bool
  orphan : Bool
deriving DecidableEq, Repr

/-- The sensor link line (R143): idle; sending the four bytes of a master frame; a reply window open; or a line
turnaround. Each timed phase holds the time it is due to end. -/
inductive Line where
  | idle
  | sending (tx : Transaction) (frame : List Byte) (due : Nat)
  | window (tx : Transaction) (due : Nat)
  | turnaround (due : Nat)
deriving DecidableEq, Repr

/-- The poll settings of a role that a round takes over at its start (R152). -/
structure PollSettings where
  queryFirst : Bool
  holdWarming : Bool
deriving DecidableEq, Repr

/-- A round in progress: the due roles not yet polled, the role whose READ follows its STATE in the same poll, the
settings the round uses, and whether the round ends with the transaction in progress, since STANDBY was announced under it
(R146, R147). -/
structure Round where
  due : List Role
  follow : Option Role
  settings : PerRole PollSettings
  closing : Bool
deriving DecidableEq, Repr

/-- The Sensor Link Master (R145, R146): channels, round counter, round period timer, round and line, and the dust_base
of the recipe last announced to it (R151). -/
structure SensorMaster where
  channels : PerRole Channel
  counter : Nat
  roundTimer : Timer
  round : Option Round
  line : Line
  dustBase : Int
deriving DecidableEq, Repr

/-! ## Condition Monitor (Chapter 10) -/

/-- The 32 condition kinds (Table 10-1). -/
inductive CondKind where
  | oilHigh | oilOver | loopOver | tankLow | tankEmpty
  | brushStall (u : BrushUnit) | brushLag (u : BrushUnit) | brushStarved (u : BrushUnit)
  | armTimeout (u : BrushUnit) | switch (u : BrushUnit)
  | sensorLost (r : Role)
  | wheelPickup | supplyStale | requestStale | overspeed
deriving DecidableEq, Repr

/-- The state of a condition record (R155). -/
inductive CondState where
  | clear | present | latched
deriving DecidableEq, Repr

/-- The condition table (R155). -/
structure CondTable where
  oilHigh : CondState
  oilOver : CondState
  loopOver : CondState
  tankLow : CondState
  tankEmpty : CondState
  brushStall : PerUnit CondState
  brushLag : PerUnit CondState
  brushStarved : PerUnit CondState
  armTimeout : PerUnit CondState
  switch : PerUnit CondState
  sensorLost : PerRole CondState
  wheelPickup : CondState
  supplyStale : CondState
  requestStale : CondState
  overspeed : CondState
deriving DecidableEq, Repr

/-! ## Link Port (Chapter 11) -/

/-- The outcomes of a zone mark (Table 11-8). -/
inductive ZoneOutcome where
  | entered | skipped | dropped
deriving DecidableEq, Repr

/-- The causes of a UNIT report (R89). -/
inductive UnitCause where
  | goal | fault | holdTaken (h : Hold) | holdReleased (h : Hold)
deriving DecidableEq, Repr

/-- The causes of a RECIPE report (R136). -/
inductive RecipeCause where
  | push | pop | refresh | zone
deriving DecidableEq, Repr

/-- The five reports, with the values Table 11-8 lays out. -/
inductive Report where
  | mode (mode target : Mode)
  | condition (kind : CondKind) (before after : CondState) (present latched : Nat)
  | zone (tag : Byte) (slot : Fin 32) (mark : Word32) (outcome : ZoneOutcome)
  | unit (unit : BrushUnit) (cause : UnitCause) (reach : Reach) (height : Height) (spin : Spin)
      (activity : Activity) (holds : List Hold)
  | recipe (depth : Nat) (top : Fin 32) (cause : RecipeCause)
deriving DecidableEq, Repr

/-- A place of the receive buffer: the request that occupies it, and the body of its reply once that is formed (R167). -/
structure Place where
  kind : Byte
  tag : Byte
  body : List Byte
  reply : Option (List Byte)
deriving DecidableEq, Repr

/-- The frame in transmission: whether it is a reply, and its bytes from SYNC to CRC (R165, R170). -/
structure Transmission where
  isReply : Bool
  bytes : List Byte
deriving DecidableEq, Repr

/-- What the link receiver waits for between the events it is told of (R166). -/
inductive Receiver where
  | waitSync | inFrame
deriving DecidableEq, Repr

/-- The Link Port (R165 to R174): baud rate, receiver, receive buffer (oldest first), report queue (head first),
report-lost flag, link error count and transmitter. -/
structure LinkPort where
  baud : Nat
  receiver : Receiver
  rx : List Place
  reports : List Report
  lost : Bool
  errors : Nat
  tx : Option Transmission
deriving DecidableEq, Repr

/-! ## Setup and pins -/

/-- The stored setup values by group and parameter number (Table 11-5). SENSOR numbers 24 and 36 are not listed there:
their places hold 0 and nothing reads them. -/
structure Setup where
  drive : Vector Int 7
  brush : Vector Int 16
  water : Vector Int 7
  power : Vector Int 5
  sensor : Vector Int 49
  limits : Vector Int 8
  arms : Vector Int 24
deriving DecidableEq, Repr

/-- The levels of one unit's end switch pins (Table 5-2); M has no reach pair. -/
structure Switches where
  isIn : Bool
  out : Bool
  up : Bool
  down : Bool
deriving DecidableEq, Repr

/-- The input pins whose level the part reads: WAKE, the SETTLE and BAUD straps and the end switches (Table 1-3). -/
structure Pins where
  wake : Bool
  settleStrap : Bool
  baud1 : Bool
  baud0 : Bool
  switches : PerUnit Switches
deriving DecidableEq, Repr

/-! ## The whole state -/

/-- The state of the part: the blocks of Table 1-1, the setup and the pins; the present time (R82) in microseconds; the
model's counter for free values; and the queue of the commands that wait. -/
structure State where
  pins : Pins
  setup : Setup
  mc : ModeControl
  pcu : PulseCapture
  drive : Drive
  brush : Brushes
  arms : Arms
  spray : Spray
  arb : Arbiter
  recipes : Recipes
  sensors : SensorMaster
  cond : CondTable
  link : LinkPort
  clock : Nat
  free : Nat
  pending : List Instr
deriving DecidableEq, Repr

/-- The reasons a step can stop with a fault: none. The manual gives every command an effect, so this type has no
constructor, and no meaning raises a fault. -/
inductive Fault where
deriving DecidableEq, Repr

/-- The reasons a command can be refused. -/
inductive Refusal where
  /-- Raised by exec for a row that has no meaning yet (none at present). Safe: the model stops where the part goes on. -/
  | notModelled (mnemonic : String)
deriving DecidableEq, Repr

/-! ## Values after a hardware reset -/

/-- The same value for every unit. -/
def PerUnit.const {α : Type} (a : α) : PerUnit α := ⟨a, a, a⟩

/-- The same value for every role. -/
def PerRole.const {α : Type} (a : α) : PerRole α := ⟨a, a, a, a, a, a, a, a⟩

/-- The defaults of the setup parameters (Tables 3-5, 4-6, 5-7, 5-8, 6-4, 7-5, 9-2, 10-4, R24). -/
def Setup.defaults : Setup where
  drive := #v[6000, 20, 150, 120, 300, 300, 100]
  brush := #v[40, 40, 40, 20, 20, 20, 150, 150, 250, 400, 400, 600, 2000, 20, 5000, 6]
  water := #v[500, 8, 200, 500, 400, 50, 30]
  power := #v[2000, 150, 20, 70, 10]
  sensor := #v[10,
    1, 1, 0, 1, 1, 4200,
    2, 1, 0, 1, 1, 4200,
    3, 1, 0, 1, 1, 2000,
    4, 0, 0, 3, 5, 0,
    5, 0, 0, 4, 10, 0,
    6, 0, 0, 3, 2, 0,
    7, 0, 0, 0, 1, 2000,
    8, 0, 0, 0, 1, 2000]
  limits := #v[11000, 5000, 1500, 85, 100, 5, 4000, 200]
  arms := #v[150, 100, 500, 4000, 3000, 3000, 1500, 40,
    300, 300, 200, 200,
    300, 300, 200, 200,
    250, 250, 150, 400,
    250, 250, 400, 150]

/-- The defaults of the recipe fields (Table 8-1), coded as Section 11.7 gives the codes. -/
def RecipeFields.defaults : RecipeFields :=
  #v[2500, 5, 10, 0, 0, 0, 10, 1, 1, 5, 30, 80, 500, 2, 1, 20, 20, 13, 1, 2, 2, 2, 1]

/-- No dirty mark set. -/
def noDirty : Vector Bool 23 := Vector.replicate 23 false

/-- An invalid slot: default fields and no dirty marks (R127). -/
def Slot.invalid : Slot := ⟨false, RecipeFields.defaults, noDirty⟩

/-- The pace table contents after a hardware reset (Table 4-2). -/
def PaceTable.defaults : PaceTable where
  count := 5
  boundary := #v[0, 500, 1000, 2000, 3000, 0]
  rpm := #v[40, 60, 80, 100, 120, 0]
  hysteresis := 150

/-- A wheel after a hardware reset (R26). -/
def Wheel.cleared : Wheel := ⟨0, 0, true, 0, 0⟩

/-- The Pulse Capture Unit after a hardware reset (R26). -/
def PulseCapture.reset : PulseCapture where
  wl := Wheel.cleared
  wr := Wheel.cleared
  brushCount := PerUnit.const 0
  sample := 0
  direction := .still
  odometer := 0
  remainder := 0
  brushRpm := PerUnit.const 0
  wheelGateTimer := none
  brushGateTimer := none

/-- The Drive Regulator after a hardware reset (R48, Table 3-6). -/
def Drive.reset : Drive where
  requested := 0
  requestTimer := none
  stale := false
  target := 0
  held := none
  dwell := none
  ramped := 0
  correction := 0
  clampFlag := false
  dispCmd := 0
  demand := 0
  overrun := false
  dispOut := 0
  overspeed := false
  speedCap := 2500
  accelStep := 5
  decelStep := 10
  periodTimer := none
  brk := false

/-- One brush record after a hardware reset (Table 4-7). -/
def BrushRec.reset : BrushRec where
  table := 0
  index := 0
  reselect := false
  spin := .off
  heightDown := false
  t := 0
  c := 0
  rampTimer := none
  demand := 0
  out := 0
  output := 0
  stallTimer := none
  lagTimer := none
  starved := false
  stalled := false
  lagging := false

/-- The STOWED goal (R69, R72). -/
def Goal.stowed : Goal := ⟨false, false, false⟩

/-- One unit of the Arm Sequencer after a hardware reset (Table 5-9). -/
def ArmUnit.reset (r : Reach) : ArmUnit where
  reach := r
  height := .unknown
  spin := .off
  baseWorking := false
  holds := []
  goal := Goal.stowed
  activity := .idle
  spinDownTimer := none
  releaseTimer := none

/-- The Arm Sequencer after a hardware reset (R92, Table 5-9). -/
def Arms.reset : Arms where
  units := ⟨ArmUnit.reset .unknown, ArmUnit.reset .unknown, ArmUnit.reset .absent⟩
  queue := []
  action := none
  lastEnd := ⟨none, none, none, none⟩
  spacingTimer := none
  demand := 0
  demandRead := true
  unitsMask := ⟨true, false, true⟩

/-- No nozzle group. -/
def Nozzles.none : Nozzles := ⟨false, false, false, false⟩

/-- The Spray Controller after a hardware reset (Table 6-5). -/
def Spray.reset : Spray where
  enable := false
  brushOn := PerUnit.const false
  wanted := Nozzles.none
  q := 0
  command := 0
  rampTimer := Option.none
  seq := .dry
  leadTimer := Option.none
  lagTimer := Option.none
  valves := Nozzles.none
  demand := 0
  pumpFlow := 0
  wpump := 0
  low := false
  empty := false
  dose := 30
  doseMax := 80
  dustBase := 500
  ctUp := 2
  ctDn := 1
  idleFlow := 20
  waterStep := 20
  mask := ⟨true, false, true, true⟩

/-- A consumer record after a hardware reset, at its level (R124). The demand read, to which neither R124 nor Table 7-6
gives a value, is 0: the model's choice (assumption log 40). -/
def ConsumerRec.reset (level : Nat) : ConsumerRec := ⟨level, 0, 0, 1000⟩

/-- The Load Share Arbiter after a hardware reset (R124). -/
def Arbiter.reset : Arbiter where
  supply := 0
  stale := true
  holdTimer := none
  derate := false
  stop := false
  budget := 0
  periodTimer := none
  consumers := ⟨.reset 3, .reset 1, .reset 2, .reset 2, .reset 2, .reset 1⟩

/-- The recipe table after a hardware reset: slot 0 valid, slots 1 to 31 invalid (R127). -/
def resetSlots : Vector Slot 32 := (Vector.replicate 32 Slot.invalid).set 0 ⟨true, RecipeFields.defaults, noDirty⟩

/-- The Recipe Unit after a hardware reset (R142). -/
def Recipes.reset : Recipes where
  slots := resetSlots
  pace := Vector.replicate 4 PaceTable.defaults
  base := ⟨0, RecipeFields.defaults⟩
  overrides := []
  zones := []
  reference := 0

/-- A channel with no outcome yet, in a given state (Table 9-6). -/
def Channel.fresh (st : ChannelState) : Channel := ⟨st, false, 0, 0, 0, 0, 0, none⟩

/-- The Sensor Link Master after a hardware reset: with the default addresses every channel is UNKNOWN (R154). -/
def SensorMaster.reset : SensorMaster where
  channels := PerRole.const (Channel.fresh .unknown)
  counter := 0
  roundTimer := none
  round := none
  line := .idle
  dustBase := 500

/-- Every condition record CLEAR. -/
def CondTable.clear : CondTable where
  oilHigh := .clear
  oilOver := .clear
  loopOver := .clear
  tankLow := .clear
  tankEmpty := .clear
  brushStall := PerUnit.const .clear
  brushLag := PerUnit.const .clear
  brushStarved := PerUnit.const .clear
  armTimeout := PerUnit.const .clear
  switch := PerUnit.const .clear
  sensorLost := PerRole.const .clear
  wheelPickup := .clear
  supplyStale := .clear
  requestStale := .clear
  overspeed := .clear

/-- The condition table after a hardware reset: all CLEAR, then SUPPLY_STALE PRESENT (R164). -/
def CondTable.reset : CondTable := { CondTable.clear with supplyStale := .present }

/-- The Link Port after a hardware reset that read the straps low, low (R165, R174). -/
def LinkPort.reset : LinkPort where
  baud := 57600
  receiver := .waitSync
  rx := []
  reports := []
  lost := false
  errors := 0
  tx := none

/-- The levels at the input pins in the reset state: all inactive, straps low. The pins are the board's, not the
manual's (assumption log 2). -/
def Pins.reset : Pins where
  wake := false
  settleStrap := false
  baud1 := false
  baud0 := false
  switches := PerUnit.const ⟨false, false, false, false⟩

/-- The machine right after a hardware reset that found WAKE inactive (R3 and the reset rule of every chapter). -/
def State.reset : State where
  pins := Pins.reset
  setup := Setup.defaults
  mc := ⟨.standby, .standby, none, none⟩
  pcu := PulseCapture.reset
  drive := Drive.reset
  brush := ⟨PerUnit.const BrushRec.reset, 10, 1, 1⟩
  arms := Arms.reset
  spray := Spray.reset
  arb := Arbiter.reset
  recipes := Recipes.reset
  sensors := SensorMaster.reset
  cond := CondTable.reset
  link := LinkPort.reset
  clock := 0
  free := 0
  pending := []

end Sys2Proof.Machine
end

