-- ==== Sys2Proof/Machine/Ops.lean ====
section
/-! DEFINITION. The named operations over bytes, collections, timers and the link port's queues. -/

namespace Sys2Proof.Machine

/-! ## Collections -/

def PerUnit.get {α : Type} (p : PerUnit α) : BrushUnit → α
  | .l => p.l
  | .r => p.r
  | .m => p.m

def PerUnit.set {α : Type} (p : PerUnit α) (u : BrushUnit) (a : α) : PerUnit α :=
  match u with
  | .l => { p with l := a }
  | .r => { p with r := a }
  | .m => { p with m := a }

def PerUnit.map {α β : Type} (f : α → β) (p : PerUnit α) : PerUnit β := ⟨f p.l, f p.r, f p.m⟩

def PerRole.get {α : Type} (p : PerRole α) : Role → α
  | .drivePA => p.drivePA
  | .drivePB => p.drivePB
  | .auxP => p.auxP
  | .oilT => p.oilT
  | .tank => p.tank
  | .dust => p.dust
  | .curbL => p.curbL
  | .curbR => p.curbR

def PerRole.set {α : Type} (p : PerRole α) (r : Role) (a : α) : PerRole α :=
  match r with
  | .drivePA => { p with drivePA := a }
  | .drivePB => { p with drivePB := a }
  | .auxP => { p with auxP := a }
  | .oilT => { p with oilT := a }
  | .tank => { p with tank := a }
  | .dust => { p with dust := a }
  | .curbL => { p with curbL := a }
  | .curbR => { p with curbR := a }

def PerConsumer.get {α : Type} (p : PerConsumer α) : Consumer → α
  | .arms => p.arms
  | .drive => p.drive
  | .broomM => p.broomM
  | .brushL => p.brushL
  | .brushR => p.brushR
  | .water => p.water

def PerConsumer.set {α : Type} (p : PerConsumer α) (c : Consumer) (a : α) : PerConsumer α :=
  match c with
  | .arms => { p with arms := a }
  | .drive => { p with drive := a }
  | .broomM => { p with broomM := a }
  | .brushL => { p with brushL := a }
  | .brushR => { p with brushR := a }
  | .water => { p with water := a }

def PerConsumer.map {α β : Type} (f : α → β) (p : PerConsumer α) : PerConsumer β :=
  ⟨f p.arms, f p.drive, f p.broomM, f p.brushL, f p.brushR, f p.water⟩

def PerKind.get {α : Type} (p : PerKind α) : CylKind → α
  | .swingOut => p.swingOut
  | .swingIn => p.swingIn
  | .lift => p.lift
  | .lower => p.lower

def PerKind.set {α : Type} (p : PerKind α) (k : CylKind) (a : α) : PerKind α :=
  match k with
  | .swingOut => { p with swingOut := a }
  | .swingIn => { p with swingIn := a }
  | .lift => { p with lift := a }
  | .lower => { p with lower := a }

/-- A step made for each unit in the order L, R, M (R79). -/
def forUnits (f : BrushUnit → State → State) (s : State) : State := f .m (f .r (f .l s))

/-- The roles in role order (R146). -/
def allRoles : List Role := [.drivePA, .drivePB, .auxP, .oilT, .tank, .dust, .curbL, .curbR]

/-- The role's number (Table 9-2). -/
def Role.number : Role → Nat
  | .drivePA => 0
  | .drivePB => 1
  | .auxP => 2
  | .oilT => 3
  | .tank => 4
  | .dust => 5
  | .curbL => 6
  | .curbR => 7

/-- The role of a number (Table 9-2). -/
def roleOf? (n : Nat) : Option Role := allRoles[n]?

/-- The unit of a number in a UNIT request (Table 11-4). -/
def unitOf? (n : Nat) : Option BrushUnit := [BrushUnit.l, .r, .m][n]?

/-- The number of a unit (Table 11-4). -/
def unitNumber : BrushUnit → Nat
  | .l => 0
  | .r => 1
  | .m => 2

/-! ## Arithmetic (Section 1.4.2) -/

/-- Clamping to [lo, hi]. -/
def clamp (lo hi x : Int) : Int := if x < lo then lo else if hi < x then hi else x

/-- Division rounding toward zero, the rule of every formula that states no other. -/
def divZ (a b : Int) : Int := Int.tdiv a b

/-- The magnitude of a number. -/
def mag (x : Int) : Int := x.natAbs

/-- The smaller of two numbers. -/
def least (a b : Int) : Int := if a ≤ b then a else b

/-- The larger of two numbers. -/
def most (a b : Int) : Int := if a ≤ b then b else a

/-! ## Bytes (Section 11.1: high byte first) -/

/-- Two bytes as an unsigned number. -/
def u16 (hi lo : Byte) : Int := (hi.toNat * 256 + lo.toNat : Nat)

/-- Two bytes as a signed number in two's complement. -/
def i16 (hi lo : Byte) : Int := (hi ++ lo : Word16).toInt

/-- Four bytes as an odometer value or a mark. -/
def u32 (a b c d : Byte) : Word32 := a ++ b ++ c ++ d

/-- A 16-bit word as two bytes. -/
def wordBytes (w : Word16) : List Byte := [w.extractLsb' 8 8, w.extractLsb' 0 8]

/-- A number as two bytes, in two's complement. -/
def bytes16 (x : Int) : List Byte := wordBytes (BitVec.ofInt 16 x)

/-- An odometer value or a mark as four bytes. -/
def bytes32 (w : Word32) : List Byte :=
  [w.extractLsb' 24 8, w.extractLsb' 16 8, w.extractLsb' 8 8, w.extractLsb' 0 8]

/-- A small number as one byte. -/
def byte (n : Nat) : Byte := BitVec.ofNat 8 n

/-- One bit of a check sum whose register's top bit is `top`. -/
def crcShift {w : Nat} (poly crc : BitVec w) : BitVec w :=
  if crc.msb then crc.shiftLeft 1 ^^^ poly else crc.shiftLeft 1

/-- Eight bits of a check sum. -/
def crcShift8 {w : Nat} (poly crc : BitVec w) : BitVec w :=
  (List.range 8).foldl (fun c _ => crcShift poly c) crc

/-- The link port's CRC-16: polynomial x^16 + x^12 + x^5 + 1, initial value FFFFh, no final inversion (R165). -/
def crc16 (bytes : List Byte) : Word16 :=
  bytes.foldl (fun crc b => crcShift8 0x1021 (crc ^^^ (b ++ (0 : Byte) : Word16))) 0xFFFF

/-- The sensor link's CRC-8: polynomial x^8 + x^2 + x + 1, initial value 0, no final inversion (R143). -/
def crc8 (bytes : List Byte) : Byte := bytes.foldl (fun crc b => crcShift8 0x07 (crc ^^^ b)) 0

/-! ## Timers -/

/-- The due time of a timer started now with a duration in microseconds. -/
def State.after (s : State) (us : Nat) : Nat := s.clock + us

/-- A timer started now with a duration in milliseconds. -/
def State.startMs (s : State) (ms : Int) : Timer := some (s.after (ms.toNat * 1000))

/-- The expiry of a timer that is due at `due`: the present time is then at least `due` (assumption log 7). -/
def State.atTime (s : State) (due : Nat) : State := { s with clock := Nat.max s.clock due }

/-- The step a timer's expiry makes. The expiry of a stopped timer does not occur: it changes nothing
(assumption log 8). -/
def onExpiry (timer : Timer) (f : State → State) (s : State) : State :=
  match timer with
  | none => s
  | some due => f (s.atTime due)

/-- One step of the link error count: it runs to 65535 and stays there (R166). -/
def countError (l : LinkPort) : LinkPort := { l with errors := Nat.min 65535 (l.errors + 1) }

/-! ## Posting a report (R169) -/

/-- A report joins the queue behind those waiting, or is dropped with the report-lost flag set when sixteen wait. -/
def LinkPort.post (l : LinkPort) (r : Report) : LinkPort :=
  if l.reports.length < 16 then { l with reports := l.reports ++ [r] } else { l with lost := true }

/-- Posting a report to the Link Port. -/
def State.post (s : State) (r : Report) : State := { s with link := s.link.post r }

/-- ATTN is active while the report queue holds at least one report (R169). -/
def State.attn (s : State) : Bool := !s.link.reports.isEmpty

end Sys2Proof.Machine
end

