-- ==== Sys2Proof/Machine/Operands.lean ====
section
/-! DEFINITION. How settings, recipe fields, sensor values and switches are read by name and by number: Tables 3-5, 4-6,
5-7, 5-8, 6-4, 7-5, 8-1, 9-2, 10-4 and 11-5. -/

namespace Sys2Proof.Machine

/-! ## Setup parameters by name (Table 11-5) -/

def Setup.vFull (x : Setup) : Int := x.drive[0]
def Setup.ki (x : Setup) : Int := x.drive[1]
def Setup.corrMax (x : Setup) : Int := x.drive[2]
def Setup.kd (x : Setup) : Int := x.drive[3]
def Setup.dwell (x : Setup) : Int := x.drive[4]
def Setup.requestTimeout (x : Setup) : Int := x.drive[5]
def Setup.ppm (x : Setup) : Int := x.drive[6]

def Setup.startRpm (x : Setup) : BrushUnit → Int
  | .l => x.brush[0]
  | .r => x.brush[1]
  | .m => x.brush[2]
def Setup.stopRpm (x : Setup) : BrushUnit → Int
  | .l => x.brush[3]
  | .r => x.brush[4]
  | .m => x.brush[5]
def Setup.rpmFull (x : Setup) : BrushUnit → Int
  | .l => x.brush[6]
  | .r => x.brush[7]
  | .m => x.brush[8]
def Setup.vm (x : Setup) : BrushUnit → Int
  | .l => x.brush[9]
  | .r => x.brush[10]
  | .m => x.brush[11]
def Setup.stallTime (x : Setup) : Int := x.brush[12]
def Setup.lagMargin (x : Setup) : Int := x.brush[13]
def Setup.lagTime (x : Setup) : Int := x.brush[14]
def Setup.ppr (x : Setup) : Int := x.brush[15]

def Setup.flowFull (x : Setup) : Int := x.water[0]
def Setup.kw (x : Setup) : Int := x.water[1]
def Setup.valveLead (x : Setup) : Int := x.water[2]
def Setup.valveLag (x : Setup) : Int := x.water[3]
def Setup.tankLow (x : Setup) : Int := x.water[4]
def Setup.tankEmpty (x : Setup) : Int := x.water[5]
def Setup.tankHyst (x : Setup) : Int := x.water[6]

def Setup.supplyHold (x : Setup) : Int := x.power[0]
def Setup.fallbackSupply (x : Setup) : Int := x.power[1]
def Setup.reserve (x : Setup) : Int := x.power[2]
def Setup.derate (x : Setup) : Int := x.power[3]
def Setup.grantRise (x : Setup) : Int := x.power[4]

def Setup.roundPeriod (x : Setup) : Int := x.sensor[0]

/-- Parameter `1 + 6 × role + j` of the SENSOR group. -/
def Setup.roleParam (x : Setup) (j : Nat) (h : j < 6) : Role → Int
  | .drivePA => x.sensor[1 + j]
  | .drivePB => x.sensor[7 + j]
  | .auxP => x.sensor[13 + j]
  | .oilT => x.sensor[19 + j]
  | .tank => x.sensor[25 + j]
  | .dust => x.sensor[31 + j]
  | .curbL => x.sensor[37 + j]
  | .curbR => x.sensor[43 + j]

def Setup.address (x : Setup) (r : Role) : Int := x.roleParam 0 (by decide) r
def Setup.queryFirst (x : Setup) (r : Role) : Bool := x.roleParam 1 (by decide) r != 0
def Setup.holdWarming (x : Setup) (r : Role) : Bool := x.roleParam 2 (by decide) r != 0
def Setup.filterK (x : Setup) (r : Role) : Nat := (x.roleParam 3 (by decide) r).toNat
def Setup.divisor (x : Setup) (r : Role) : Nat := (x.roleParam 4 (by decide) r).toNat
def Setup.storedSubstitute (x : Setup) (r : Role) : Int := x.roleParam 5 (by decide) r

def Setup.transportMax (x : Setup) : Int := x.limits[0]
def Setup.workMax (x : Setup) : Int := x.limits[1]
def Setup.reverseCap (x : Setup) : Int := x.limits[2]
def Setup.oilHigh (x : Setup) : Int := x.limits[3]
def Setup.oilOver (x : Setup) : Int := x.limits[4]
def Setup.oilHyst (x : Setup) : Int := x.limits[5]
def Setup.loopOver (x : Setup) : Int := x.limits[6]
def Setup.loopHyst (x : Setup) : Int := x.limits[7]

def Setup.obstacle (x : Setup) : Int := x.arms[0]
def Setup.releaseMm (x : Setup) : Int := x.arms[1]
def Setup.releaseMs (x : Setup) : Int := x.arms[2]
def Setup.swingTimeout (x : Setup) : Int := x.arms[3]
def Setup.liftTimeout (x : Setup) : Int := x.arms[4]
def Setup.lowerTimeout (x : Setup) : Int := x.arms[5]
def Setup.spinDownMs (x : Setup) : Int := x.arms[6]
def Setup.armReserve (x : Setup) : Int := x.arms[7]

/-- spacing[X][K]: parameter `8 + 4 × X + K` of the ARMS group (Tables 5-8, 11-5). -/
def Setup.spacing (x : Setup) : CylKind → CylKind → Int
  | .swingOut, .swingOut => x.arms[8]
  | .swingOut, .swingIn => x.arms[9]
  | .swingOut, .lift => x.arms[10]
  | .swingOut, .lower => x.arms[11]
  | .swingIn, .swingOut => x.arms[12]
  | .swingIn, .swingIn => x.arms[13]
  | .swingIn, .lift => x.arms[14]
  | .swingIn, .lower => x.arms[15]
  | .lift, .swingOut => x.arms[16]
  | .lift, .swingIn => x.arms[17]
  | .lift, .lift => x.arms[18]
  | .lift, .lower => x.arms[19]
  | .lower, .swingOut => x.arms[20]
  | .lower, .swingIn => x.arms[21]
  | .lower, .lift => x.arms[22]
  | .lower, .lower => x.arms[23]

/-- The timeout of a cylinder action (R84). -/
def Setup.cylTimeout (x : Setup) : CylKind → Int
  | .swingOut => x.swingTimeout
  | .swingIn => x.swingTimeout
  | .lift => x.liftTimeout
  | .lower => x.lowerTimeout

/-! ## Recipe fields by name (Table 8-1) -/

def fieldSpeedCap (f : RecipeFields) : Int := f[0]
def fieldAccelStep (f : RecipeFields) : Int := f[1]
def fieldDecelStep (f : RecipeFields) : Int := f[2]

/-- A number as the number of a pace table, 0 to 3. -/
def tableOf (x : Int) : Fin 4 := Fin.ofNat 4 x.toNat

def fieldTable (f : RecipeFields) : BrushUnit → Fin 4
  | .l => tableOf f[3]
  | .r => tableOf f[4]
  | .m => tableOf f[5]
def fieldStep (f : RecipeFields) : Int := f[6]
def fieldUpRate (f : RecipeFields) : Int := f[7]
def fieldDownRate (f : RecipeFields) : Int := f[8]

/-- One bit of a mask code. -/
def maskBit (x : Int) (i : Nat) : Bool := x.toNat.testBit i

/-- The units mask: bit 0 L, bit 1 R, bit 2 M. -/
def fieldUnitsMask (f : RecipeFields) : PerUnit Bool := ⟨maskBit f[9] 0, maskBit f[9] 1, maskBit f[9] 2⟩
def fieldDose (f : RecipeFields) : Int := f[10]
def fieldDoseMax (f : RecipeFields) : Int := f[11]
def fieldDustBase (f : RecipeFields) : Int := f[12]
def fieldCtUp (f : RecipeFields) : Int := f[13]
def fieldCtDn (f : RecipeFields) : Int := f[14]
def fieldIdleFlow (f : RecipeFields) : Int := f[15]
def fieldWaterStep (f : RecipeFields) : Int := f[16]

/-- The nozzle mask: bit 0 NL, bit 1 NR, bit 2 NM, bit 3 NF. -/
def fieldNozzleMask (f : RecipeFields) : Nozzles :=
  ⟨maskBit f[17] 0, maskBit f[17] 1, maskBit f[17] 2, maskBit f[17] 3⟩
def fieldLevelDrive (f : RecipeFields) : Nat := f[18].toNat
def fieldLevelBroomM (f : RecipeFields) : Nat := f[19].toNat
def fieldLevelBrushL (f : RecipeFields) : Nat := f[20].toNat
def fieldLevelBrushR (f : RecipeFields) : Nat := f[21].toNat
def fieldLevelWater (f : RecipeFields) : Nat := f[22].toNat

/-- How a recipe field is limited: a range of numbers or codes, or a mask of so many members. -/
inductive FieldLimit where
  | range (lo hi : Int)
  | mask (width : Nat)
deriving DecidableEq, Repr

/-- The limits of the 23 fields, by field number (Table 8-1; codes in Section 11.7). -/
def fieldLimits : List FieldLimit :=
  [.range 300 6000, .range 1 200, .range 1 200, .range 0 3, .range 0 3, .range 0 3, .range 1 50, .range 0 4,
   .range 0 4, .mask 3, .range 0 100, .range 0 200, .range 0 1000, .range 0 4, .range 0 4, .range 0 200,
   .range 1 100, .mask 4, .range 0 3, .range 0 3, .range 0 3, .range 0 3, .range 0 3]

/-- The value a field takes from the value written (R128): the nearer end of the range, the nearest code, or the mask
without the members beyond its set. -/
def FieldLimit.apply (limit : FieldLimit) (x : Int) : Int :=
  match limit with
  | .range lo hi => clamp lo hi x
  | .mask width => ((BitVec.ofInt 16 x).toNat % 2 ^ width : Nat)

/-- The refresh group of a field number: 0 TRAVEL, 1 BRUSH, 2 UNITS, 3 WATER, 4 LEVELS (Table 8-1, Section 11.7). -/
def fieldGroup (n : Nat) : Nat :=
  if n ≤ 2 then 0 else if n ≤ 8 then 1 else if n ≤ 9 then 2 else if n ≤ 17 then 3 else 4

/-! ## Setup parameters by number (Table 11-5) -/

/-- The range of a role's measured value (Table 9-2). -/
def roleRange : Role → Int × Int
  | .drivePA => (0, 5000)
  | .drivePB => (0, 5000)
  | .auxP => (0, 5000)
  | .oilT => (-40, 150)
  | .tank => (0, 4000)
  | .dust => (0, 1000)
  | .curbL => (0, 2000)
  | .curbR => (0, 2000)

/-- The ranges of the six SENSOR parameters of a role; the last is absent for OIL_T and DUST (R152). -/
def roleParamRanges (r : Role) : List (Option (Int × Int)) :=
  [some (0, 15), some (0, 1), some (0, 1), some (0, 4), some (1, 16),
   if r = .oilT ∨ r = .dust then none else some (roleRange r)]

/-- The ranges of a group's parameters in number order; `none` marks a number Table 11-5 does not list. -/
def setupRanges (group : Nat) : List (Option (Int × Int)) :=
  match group with
  | 0 => [some (1000, 11000), some (0, 100), some (0, 500), some (1, 500), some (0, 2000), some (100, 2000),
      some (10, 2000)]
  | 1 => [some (1, 300), some (1, 300), some (1, 300), some (0, 299), some (0, 299), some (0, 299),
      some (50, 300), some (50, 300), some (50, 300), some (50, 2000), some (50, 2000), some (50, 2000),
      some (500, 10000), some (0, 300), some (500, 30000), some (1, 64)]
  | 2 => [some (50, 600), some (1, 50), some (0, 2000), some (0, 5000), some (0, 4000), some (0, 4000),
      some (0, 500)]
  | 3 => [some (200, 10000), some (0, 2000), some (0, 500), some (10, 100), some (1, 100)]
  | 4 => some (10, 100) :: allRoles.flatMap roleParamRanges
  | 5 => [some (1000, 11000), some (300, 6000), some (0, 3000), some (-40, 150), some (-40, 150), some (0, 20),
      some (0, 5000), some (0, 1000)]
  | 6 => [some (0, 2000), some (0, 1000), some (0, 10000), some (500, 20000), some (500, 20000),
      some (500, 20000), some (100, 10000), some (0, 2000)] ++ List.replicate 16 (some (0, 5000))
  | _ => []

/-- The range of one parameter, if Table 11-5 lists it. -/
def setupRange (group number : Nat) : Option (Int × Int) := (setupRanges group)[number]?.join

/-- The stored values of a group. -/
def Setup.group (x : Setup) (group : Nat) : List Int :=
  match group with
  | 0 => x.drive.toList
  | 1 => x.brush.toList
  | 2 => x.water.toList
  | 3 => x.power.toList
  | 4 => x.sensor.toList
  | 5 => x.limits.toList
  | 6 => x.arms.toList
  | _ => []

/-- One stored value replaced. -/
def Setup.put (x : Setup) (group number : Nat) (v : Int) : Setup :=
  match group with
  | 0 => { x with drive := x.drive.setIfInBounds number v }
  | 1 => { x with brush := x.brush.setIfInBounds number v }
  | 2 => { x with water := x.water.setIfInBounds number v }
  | 3 => { x with power := x.power.setIfInBounds number v }
  | 4 => { x with sensor := x.sensor.setIfInBounds number v }
  | 5 => { x with limits := x.limits.setIfInBounds number v }
  | 6 => { x with arms := x.arms.setIfInBounds number v }
  | _ => x

/-! ## Sensor values for use (R151) -/

/-- The usable states of a channel. -/
def ChannelState.usable : ChannelState → Bool
  | .ok => true
  | .suspect => true
  | _ => false

/-- Whether a role's channel is usable. -/
def State.usable (s : State) (r : Role) : Bool := (s.sensors.channels.get r).state.usable

/-- A role's substitute: a setup value, oil_high for OIL_T, and the announced dust_base for DUST (R151). -/
def State.substitute (s : State) : Role → Int
  | .oilT => s.setup.oilHigh
  | .dust => s.sensors.dustBase
  | r => s.setup.storedSubstitute r

/-- The value of a role for use: filtered while the channel is usable, the substitute otherwise. -/
def State.sensor (s : State) (r : Role) : Int :=
  if s.usable r then (s.sensors.channels.get r).filtered else s.substitute r

/-! ## The active recipe, the travel cap, the stopped test -/

/-- The top entry of the recipe stack: the active recipe (R132). -/
def Recipes.top (x : Recipes) : StackEntry := x.overrides.getLast?.getD x.base

/-- The depth of the recipe stack (R132). -/
def Recipes.depth (x : Recipes) : Nat := x.overrides.length + 1

/-- The stopped test: the magnitude of the latest speed sample is below 50 mm/s (R18). -/
def State.stopped (s : State) : Bool := mag s.pcu.sample < 50

/-- The forward cap of the mode in force (Table 3-2); 0 in the modes without one. -/
def State.cap (s : State) : Int :=
  match s.mc.mode with
  | .transport => s.setup.transportMax
  | .work => least s.drive.speedCap s.setup.workMax
  | .stowing => least s.drive.speedCap s.setup.workMax
  | _ => 0

/-- The reverse limit of the mode in force (Table 3-2); 0 in the modes without one. -/
def State.reverseLimit (s : State) : Int :=
  match s.mc.mode with
  | .transport => s.setup.reverseCap
  | .work => s.setup.reverseCap
  | .stowing => s.setup.reverseCap
  | _ => 0

/-! ## End switches (Table 5-2) -/

/-- The unit an end switch belongs to. -/
def switchUnit : EndSwitch → BrushUnit
  | .sli => .l
  | .slo => .l
  | .slu => .l
  | .sld => .l
  | .sri => .r
  | .sro => .r
  | .sru => .r
  | .srd => .r
  | .smu => .m
  | .smd => .m

/-- The cylinder kind an end switch completes (Table 5-6). -/
def switchKind : EndSwitch → CylKind
  | .sli => .swingIn
  | .sri => .swingIn
  | .slo => .swingOut
  | .sro => .swingOut
  | .slu => .lift
  | .sru => .lift
  | .smu => .lift
  | .sld => .lower
  | .srd => .lower
  | .smd => .lower

/-- The level of the switch that completes a cylinder kind. -/
def Switches.level (w : Switches) : CylKind → Bool
  | .swingOut => w.out
  | .swingIn => w.isIn
  | .lift => w.up
  | .lower => w.down

/-- One switch level replaced. -/
def Switches.put (w : Switches) (k : CylKind) (v : Bool) : Switches :=
  match k with
  | .swingOut => { w with out := v }
  | .swingIn => { w with isIn := v }
  | .lift => { w with up := v }
  | .lower => { w with down := v }

/-- The kind whose switch is the other one of the same pair. -/
def CylKind.other : CylKind → CylKind
  | .swingOut => .swingIn
  | .swingIn => .swingOut
  | .lift => .lower
  | .lower => .lift

/-- Whether a kind moves the height component; the others move the reach. -/
def CylKind.movesHeight : CylKind → Bool
  | .lift => true
  | .lower => true
  | _ => false

/-- Both switches of the reach pair, or of the height pair, active together (R71). -/
def Switches.bothReach (w : Switches) : Bool := w.isIn && w.out
def Switches.bothHeight (w : Switches) : Bool := w.up && w.down

/-- The reach read from the switches: one active switch gives its value, none or both give UNKNOWN (R91); M has none. -/
def Switches.reach (w : Switches) (u : BrushUnit) : Reach :=
  match u with
  | .m => .absent
  | _ => if w.isIn && !w.out then .isIn else if w.out && !w.isIn then .out else .unknown

/-- The height read from the switches (R91). -/
def Switches.height (w : Switches) : Height :=
  if w.up && !w.down then .up else if w.down && !w.up then .down else .unknown

/-! ## Postures (R69, R7) -/

/-- The STOWED posture of a unit. -/
def ArmUnit.stowed (u : BrushUnit) (a : ArmUnit) : Bool :=
  (u == .m || a.reach == .isIn) && a.height == .up && a.spin == .off

/-- Every unit's posture is STOWED. -/
def State.allStowed (s : State) : Bool :=
  s.arms.units.l.stowed .l && s.arms.units.r.stowed .r && s.arms.units.m.stowed .m

end Sys2Proof.Machine
end

