-- ==== Sys2Proof/Machine/Flags.lean ====
section
/-! DEFINITION. The condition records, their changes and the reaction notices to the Load Share Arbiter (Chapter 10). -/

namespace Sys2Proof.Machine

/-! ## The kinds of Table 10-1 -/

/-- The 32 kinds in number order. -/
def allKinds : List CondKind :=
  [.oilHigh, .oilOver, .loopOver, .tankLow, .tankEmpty,
   .brushStall .l, .brushStall .r, .brushStall .m, .brushLag .l, .brushLag .r, .brushLag .m,
   .brushStarved .l, .brushStarved .r, .brushStarved .m, .armTimeout .l, .armTimeout .r, .armTimeout .m,
   .switch .l, .switch .r, .switch .m,
   .sensorLost .drivePA, .sensorLost .drivePB, .sensorLost .auxP, .sensorLost .oilT, .sensorLost .tank,
   .sensorLost .dust, .sensorLost .curbL, .sensorLost .curbR,
   .wheelPickup, .supplyStale, .requestStale, .overspeed]

/-- The kind of a number. -/
def kindOf? (n : Nat) : Option CondKind := allKinds[n]?

/-- The number of a kind. -/
def CondKind.number : CondKind → Nat
  | .oilHigh => 0
  | .oilOver => 1
  | .loopOver => 2
  | .tankLow => 3
  | .tankEmpty => 4
  | .brushStall u => 5 + unitNumber u
  | .brushLag u => 8 + unitNumber u
  | .brushStarved u => 11 + unitNumber u
  | .armTimeout u => 14 + unitNumber u
  | .switch u => 17 + unitNumber u
  | .sensorLost r => 20 + r.number
  | .wheelPickup => 28
  | .supplyStale => 29
  | .requestStale => 30
  | .overspeed => 31

/-- The latching kinds. -/
def CondKind.latching : CondKind → Bool
  | .oilOver => true
  | .brushStall _ => true
  | .armTimeout _ => true
  | .switch _ => true
  | _ => false

/-- The reaction classes. -/
inductive ReactionClass where
  | note | derate | stop | unit | tank
deriving DecidableEq, Repr

/-- The reaction class of a kind. -/
def CondKind.reaction : CondKind → ReactionClass
  | .oilHigh => .derate
  | .oilOver => .stop
  | .loopOver => .derate
  | .tankLow => .tank
  | .tankEmpty => .tank
  | .brushStall _ => .unit
  | .armTimeout _ => .unit
  | .switch _ => .unit
  | _ => .note

/-! ## Reading and writing the table -/

def CondTable.get (t : CondTable) : CondKind → CondState
  | .oilHigh => t.oilHigh
  | .oilOver => t.oilOver
  | .loopOver => t.loopOver
  | .tankLow => t.tankLow
  | .tankEmpty => t.tankEmpty
  | .brushStall u => t.brushStall.get u
  | .brushLag u => t.brushLag.get u
  | .brushStarved u => t.brushStarved.get u
  | .armTimeout u => t.armTimeout.get u
  | .switch u => t.switch.get u
  | .sensorLost r => t.sensorLost.get r
  | .wheelPickup => t.wheelPickup
  | .supplyStale => t.supplyStale
  | .requestStale => t.requestStale
  | .overspeed => t.overspeed

def CondTable.set (t : CondTable) (k : CondKind) (v : CondState) : CondTable :=
  match k with
  | .oilHigh => { t with oilHigh := v }
  | .oilOver => { t with oilOver := v }
  | .loopOver => { t with loopOver := v }
  | .tankLow => { t with tankLow := v }
  | .tankEmpty => { t with tankEmpty := v }
  | .brushStall u => { t with brushStall := t.brushStall.set u v }
  | .brushLag u => { t with brushLag := t.brushLag.set u v }
  | .brushStarved u => { t with brushStarved := t.brushStarved.set u v }
  | .armTimeout u => { t with armTimeout := t.armTimeout.set u v }
  | .switch u => { t with switch := t.switch.set u v }
  | .sensorLost r => { t with sensorLost := t.sensorLost.set r v }
  | .wheelPickup => { t with wheelPickup := v }
  | .supplyStale => { t with supplyStale := v }
  | .requestStale => { t with requestStale := v }
  | .overspeed => { t with overspeed := v }

/-- How many of the kinds satisfying `p` stand in state `v`. -/
def CondTable.countOf (t : CondTable) (p : CondKind → Bool) (v : CondState) : Nat :=
  (allKinds.filter fun k => p k && t.get k == v).length

/-- The present count and the latched count (R155): always the numbers of records in PRESENT and in LATCHED. -/
def CondTable.presentCount (t : CondTable) : Nat := t.countOf (fun _ => true) .present
def CondTable.latchedCount (t : CondTable) : Nat := t.countOf (fun _ => true) .latched

/-- How many kinds of a reaction class are PRESENT (R159). -/
def CondTable.inForce (t : CondTable) (c : ReactionClass) : Nat :=
  t.countOf (fun k => k.reaction == c) .present

/-- Some STOP-class kind stands PRESENT or LATCHED: the check of R7. -/
def CondTable.stopRecorded (t : CondTable) : Bool :=
  allKinds.any fun k => k.reaction == .stop && t.get k != .clear

/-! ## State changes (R156, R159, R162) -/

/-- The Arbiter's flag after the number of kinds of a class in force goes from `before` to `after` (R159): the notices
are given from 0 to 1 and from 1 to 0. -/
def classFlag (before after : Nat) (flag : Bool) : Bool :=
  if before = 0 ∧ after = 1 then true else if before = 1 ∧ after = 0 then false else flag

/-- A record takes a new state: the counts follow, one CONDITION report is posted, and the DERATE and STOP notices
reach the Arbiter. A record that keeps its state posts nothing. R156 lets a receiver act on its reaction notice before or after
the report reaches the queue: that the report always joins the queue first, ahead of the receivers' own MODE and UNIT reports,
is the model's choice (assumption log 49). -/
def changeRecord (k : CondKind) (after : CondState) (s : State) : State :=
  let before := s.cond.get k
  if before = after then s
  else
    let table := s.cond.set k after
    { s with
      cond := table
      link := s.link.post (.condition k before after table.presentCount table.latchedCount)
      arb := { s.arb with
        derate := classFlag (s.cond.inForce .derate) (table.inForce .derate) s.arb.derate
        stop := classFlag (s.cond.inForce .stop) (table.inForce .stop) s.arb.stop } }

/-- The state a record takes at a notice (Table 10-2). -/
def CondState.noticed (k : CondKind) (present : Bool) (st : CondState) : CondState :=
  if present then .present
  else if st = .present then (if k.latching then .latched else .clear)
  else st

/-- A raiser's notice that a kind is present or no longer present (R156). -/
def notice (k : CondKind) (present : Bool) (s : State) : State :=
  changeRecord k ((s.cond.get k).noticed k present) s

end Sys2Proof.Machine
end

