-- ==== Sys2Proof/Machine/Link.lean ====
section
/-! DEFINITION. The Link Port (Chapter 11): codes and layouts, the receive buffer, judging a request, the transmitter. -/

namespace Sys2Proof.Machine

/-! ## Codes -/

/-- The mode numbers (Table 1-8). -/
def Mode.number : Mode → Nat
  | .standby => 0
  | .settle => 1
  | .park => 2
  | .transport => 3
  | .work => 4
  | .stowing => 5
  | .parking => 6

/-- The result codes (Table 11-2). -/
inductive Result where
  | ok | clamped | replaced | busy | refusedMode | refusedCond | notStowed | full | empty | late | badSlot | badTable
  | badUnit | notValid | stillPresent | badLength | unknownKind
deriving DecidableEq, Repr

/-- The results of Table 11-2, in its order. -/
def allResults : Vector Result 17 :=
  #v[.ok, .clamped, .replaced, .busy, .refusedMode, .refusedCond, .notStowed, .full, .empty, .late, .badSlot, .badTable,
    .badUnit, .notValid, .stillPresent, .badLength, .unknownKind]

/-- The code of a result (Table 11-2). -/
def Result.code : Result → Byte
  | .ok => 0x00
  | .clamped => 0x01
  | .replaced => 0x02
  | .busy => 0x10
  | .refusedMode => 0x11
  | .refusedCond => 0x12
  | .notStowed => 0x13
  | .full => 0x14
  | .empty => 0x15
  | .late => 0x16
  | .badSlot => 0x17
  | .badTable => 0x18
  | .badUnit => 0x19
  | .notValid => 0x1A
  | .stillPresent => 0x1B
  | .badLength => 0x1E
  | .unknownKind => 0x1F

/-- The condition state codes (Table 11-4, CLEAR). -/
def CondState.code : CondState → Byte
  | .clear => 0
  | .present => 1
  | .latched => 2

/-- The activity codes (Table 11-7). -/
def Activity.code : Activity → Byte
  | .idle => 0
  | .waiting => 1
  | .moving .swingOut => 2
  | .moving .swingIn => 3
  | .moving .lift => 4
  | .moving .lower => 5
  | .spinningUp => 6
  | .spinningDown => 7
  | .fault => 8

def Reach.code : Reach → Nat
  | .isIn => 0
  | .out => 1
  | .unknown => 2
  | .absent => 3

def Height.code : Height → Nat
  | .up => 0
  | .down => 1
  | .unknown => 2

def Spin.code : Spin → Nat
  | .off => 0
  | .spinningUp => 1
  | .on => 2
  | .spinningDown => 3

/-- The posture byte (Table 11-7): reach in bits 7 to 6, height in bits 5 to 4, spin in bits 1 to 0. -/
def postureByte (r : Reach) (h : Height) (sp : Spin) : Byte := byte (r.code * 64 + h.code * 16 + sp.code)

def Hold.code : Hold → Byte
  | .sensed => 0
  | .knock => 1
  | .lift => 2
  | .stall => 3

def UnitCause.code : UnitCause → Byte
  | .goal => 0
  | .fault => 1
  | .holdTaken _ => 2
  | .holdReleased _ => 3

/-- The source byte of a UNIT report: the hold, or FFh for the causes without one (Table 11-8). -/
def UnitCause.source : UnitCause → Byte
  | .goal => 0xFF
  | .fault => 0xFF
  | .holdTaken h => h.code
  | .holdReleased h => h.code

def RecipeCause.code : RecipeCause → Byte
  | .push => 0
  | .pop => 1
  | .refresh => 2
  | .zone => 3

def ZoneOutcome.code : ZoneOutcome → Byte
  | .entered => 0
  | .skipped => 1
  | .dropped => 2

/-! ## Report bodies (Table 11-8) -/

/-- The KIND of a report. -/
def Report.kind : Report → Byte
  | .mode .. => 0x40
  | .condition .. => 0x41
  | .zone .. => 0x42
  | .unit .. => 0x43
  | .recipe .. => 0x44

/-- The four hold places of a UNIT report: the holds in arrival order, FFh for unused places. -/
def holdPlaces (holds : List Hold) : List Byte := (holds.map Hold.code ++ List.replicate 4 0xFF).take 4

/-- The body of a report (Table 11-8), behind a flags byte that carries the report-lost flag in bit 0 (R169). That bits 1 to 7
of the flags byte are 0 is the model's choice (assumption log 46). -/
def Report.body (lost : Bool) (r : Report) : List Byte :=
  (if lost then (1 : Byte) else 0) ::
    match r with
    | .mode m t => [byte m.number, byte t.number]
    | .condition k a b p l => [byte k.number, a.code, b.code, byte p, byte l]
    | .zone tag slot mark o => [tag, byte slot] ++ bytes32 mark ++ [o.code]
    | .unit u c r h sp act holds =>
      [byte (unitNumber u), c.code, c.source, postureByte r h sp, act.code, byte holds.length] ++ holdPlaces holds
    | .recipe d top c => [byte d, byte top, c.code]

/-! ## Frames (R165) -/

/-- A link frame: SYNC, LEN, KIND, TAG, body, and the CRC over LEN, KIND, TAG and body, high byte first. -/
def frameBytes (kind tag : Byte) (body : List Byte) : List Byte :=
  let checked := byte body.length :: kind :: tag :: body
  0xC3 :: checked ++ wordBytes (crc16 checked)

/-! ## The receive buffer (R167) -/

/-- The oldest request not yet taken. -/
def LinkPort.untaken (l : LinkPort) : Option Place := l.rx.find? (·.reply.isNone)

/-- The reply is attached to the oldest request not yet taken. -/
def attachReply (reply : List Byte) : List Place → List Place
  | [] => []
  | p :: rest => if p.reply.isNone then { p with reply := some reply } :: rest else p :: attachReply reply rest

/-- A complete request ends its frame, so that the receiver waits for a SYNC again (R166); it takes a place, or is
discarded with the error count raised when both places are occupied. -/
def LinkPort.place (l : LinkPort) (kind tag : Byte) (body : List Byte) : LinkPort :=
  let l := { l with receiver := .waitSync }
  if l.rx.length < 2 then { l with rx := l.rx ++ [⟨kind, tag, body, none⟩] } else countError l

/-- The request whose turn it is: the oldest one not yet taken, when it is this one. -/
def LinkPort.inTurn (l : LinkPort) (kind tag : Byte) (body : List Byte) : Bool :=
  l.untaken == some ⟨kind, tag, body, none⟩

/-- A request is judged: its action answers the state after it and the body of its reply, which is attached to the oldest
request not yet taken. -/
def judge (act : State → State × List Byte) (s : State) : State :=
  let r := act s
  { r.1 with link := { r.1.link with rx := attachReply r.2 r.1.link.rx } }

/-! ## Judging a request (R5, R167, R168, R171) -/

/-- A refusal or an acceptance that carries the result code alone. -/
def answer (r : Result) (s : State) : State × List Byte := (s, [r.code])

/-- The checks every request other than STATUS passes first: a wrong body length is answered BAD_LENGTH in every mode,
then any request in SETTLE is answered BUSY. -/
def guarded (lengthOk : Bool) (act : State → State × List Byte) (s : State) : State × List Byte :=
  if !lengthOk then answer .badLength s
  else if s.mc.mode = .settle then answer .busy s
  else act s

/-- The further check of SET_MODE, TRAVEL, SUPPLY, SET_ODOMETER and RESTART: REFUSED_MODE in STANDBY (Table 11-3). -/
def notInStandby (act : State → State × List Byte) (s : State) : State × List Byte :=
  if s.mc.mode = .standby then answer .refusedMode s else act s

/-! ## The transmitter (R169, R170) -/

/-- The oldest pending reply: the request it answers and its body. -/
def LinkPort.pendingReply (l : LinkPort) : Option (Place × List Byte) :=
  l.rx.findSome? fun p => p.reply.map fun b => (p, b)

/-- When the transmitter is free it begins the oldest pending reply, or else the report at the head of the queue, which
carries the report-lost flag and clears it (R169, R170). The KIND of a reply is its request's + 80h (R168); for a KIND of
80h or above the sum does not fit a byte and is taken modulo 256: the model's choice (assumption log 45). -/
def LinkPort.transmit (l : LinkPort) : LinkPort :=
  match l.tx with
  | some _ => l
  | none =>
    match l.pendingReply with
    | some (p, body) => { l with tx := some ⟨true, frameBytes (p.kind + 0x80) p.tag body⟩ }
    | none =>
      match l.reports with
      | [] => l
      | r :: rest => { l with tx := some ⟨false, frameBytes r.kind 0 (r.body l.lost)⟩, reports := rest, lost := false }

/-- The place of the reply that has been sent is freed: the oldest request that has a reply. -/
def freePlace : List Place → List Place
  | [] => []
  | p :: rest => if p.reply.isSome then rest else p :: freePlace rest

/-- The frame in transmission ends (R167, R170). -/
def LinkPort.endFrame (l : LinkPort) : LinkPort :=
  match l.tx with
  | none => l
  | some t => { l with tx := none, rx := if t.isReply then freePlace l.rx else l.rx }

/-- The end of every step: the transmitter, if it is free, begins its next frame. -/
def finish (s : State) : Host.Outcome State Fault Refusal := .next { s with link := s.link.transmit }

end Sys2Proof.Machine
end

