-- ==== Sys2Proof/Machine/Travel.lean ====
section
/-! DEFINITION. The Drive Regulator (Chapter 3): TRAVEL, the drive period and its stages, overspeed, mode entries, and
the commands REQUEST_TIMER_EXPIRY, DRIVE_PERIOD_EXPIRY and DWELL_TIMER_EXPIRY. -/

namespace Sys2Proof.Machine

/-! ## Direction (R33 to R35) -/

/-- The heading of a nonzero speed. -/
def headingOf (x : Int) : Option Heading :=
  if 0 < x then some .forward else if x < 0 then some .reverse else none

/-- The heading of a sample's direction. -/
def Direction.heading : Direction → Option Heading
  | .forward => some .forward
  | .reverse => some .reverse
  | .still => none

/-- The travel direction D (R33): the sample's direction while the vehicle moves, the held direction while it stands. -/
def travelDirection (s : State) : Option Heading :=
  if s.stopped then s.drive.held else s.pcu.direction.heading

/-- The capped request (R32). -/
def cappedRequest (s : State) : Int := clamp (-s.reverseLimit) s.cap s.drive.requested

/-- A reversal (R33): the capped request is nonzero, D is a direction, and the two are opposite. -/
def isReversal (d : Option Heading) (capped : Int) : Bool :=
  match d, headingOf capped with
  | some a, some b => a != b
  | _, _ => false

/-- The direction stage (R33, R34): target T, held direction and dwell. -/
def directionStage (s : State) (d : Drive) : Drive :=
  let capped := cappedRequest s
  if isReversal (travelDirection s) capped then
    if s.stopped then
      match d.dwell with
      | some _ => { d with target := 0 }
      | none =>
        if d.ramped = 0 then
          match headingOf capped with
          | none => { d with target := 0 }
          | some h =>
            if s.setup.dwell = 0 then { d with target := capped, held := some h }
            else { d with target := 0, dwell := some ⟨h, s.after (s.setup.dwell.toNat * 1000)⟩ }
        else { d with target := 0 }
    else { d with target := 0, dwell := none }
  else { d with target := capped, dwell := if capped = 0 ∧ s.stopped then d.dwell else none }

/-! ## Ramp, command, demand, output (R36 to R41) -/

/-- The new R (Table 3-3). -/
def rampStep (r t accel decel : Int) : Int :=
  if t = r then r
  else if r = 0 then (if mag t ≤ accel then t else if 0 < t then accel else -accel)
  else if 0 < r then
    if r < t then least t (r + accel) else most (most t 0) (r - decel)
  else
    if t < r then most t (r - accel) else least (least t 0) (r + decel)

/-- The ramp stage (R36): R moves toward T, and a nonzero R sets the held direction. -/
def rampStage (d : Drive) : Drive :=
  let r := rampStep d.ramped d.target d.accelStep d.decelStep
  { d with ramped := r, held := if r = 0 then d.held else headingOf r }

/-- The feed-forward displacement (R37). -/
def feedForward (s : State) (d : Drive) : Int := divZ (d.ramped * 1000) s.setup.vFull

/-- The DRIVE share in force (R31). -/
def driveShare (s : State) : Int := s.arb.consumers.drive.share

/-- The correction stage (R38): reset, freeze, or update. -/
def correctionStage (s : State) (d : Drive) : Drive :=
  if d.ramped = 0 ∧ s.stopped then { d with correction := 0 }
  else if driveShare s < 1000 ∨ d.clampFlag then d
  else
    let c := d.correction + divZ ((d.ramped - s.pcu.sample) * s.setup.ki) 1000
    { d with correction := clamp (-s.setup.corrMax) s.setup.corrMax c }

/-- The command stage (R39): the sum limited by the sign of R, and the clamp flag. -/
def commandStage (s : State) (d : Drive) : Drive :=
  let sum := feedForward s d + d.correction
  let cmd := if 0 < d.ramped then clamp 0 1000 sum else if d.ramped < 0 then clamp (-1000) 0 sum else 0
  { d with dispCmd := cmd, clampFlag := cmd != sum }

/-- The demand stage (R40): the power cost of disp_cmd, or 0 for a zero command and in overrun. -/
def demandStage (s : State) (d : Drive) : Drive :=
  if d.dispCmd = 0 then { d with demand := 0, overrun := false }
  else
    let working := if 0 < d.dispCmd then s.sensor .drivePA else s.sensor .drivePB
    let other := if 0 < d.dispCmd then s.sensor .drivePB else s.sensor .drivePA
    if working < other then { d with demand := 0, overrun := true }
    else { d with demand := least 2000 (divZ (working * mag d.dispCmd * s.setup.kd) 600000), overrun := false }

/-- The output stage (R41): the command scaled by the share. -/
def outputStage (s : State) (d : Drive) : Drive := { d with dispOut := divZ (d.dispCmd * driveShare s) 1000 }

/-- The stages of one drive period in a travel mode, in order (R30). -/
def driveStages (s : State) (d : Drive) : Drive :=
  outputStage s (demandStage s (commandStage s (correctionStage s (rampStage (directionStage s d)))))

/-- T, R, C, the command, demand and output set to 0, the clamp and overrun flags to no (R30, R46). -/
def Drive.zeroed (d : Drive) : Drive :=
  { d with target := 0, ramped := 0, correction := 0, dispCmd := 0, demand := 0, dispOut := 0,
           clampFlag := false, overrun := false }

/-- The travel modes, in which the brake is released (R43). -/
def Mode.travels : Mode → Bool
  | .transport => true
  | .work => true
  | .stowing => true
  | .parking => true
  | _ => false

/-- The drive period in force (R30): the stages in the travel modes, zero in SETTLE and PARK; the timer is restarted. -/
def drivePeriod (s : State) : State :=
  let d := if s.mc.mode.travels then driveStages s s.drive else s.drive.zeroed
  { s with drive := { d with periodTimer := s.startMs 10 } }

/-- PFWD and PREV (R41): the displacement output by its sign. -/
def State.pfwd (s : State) : Int := most s.drive.dispOut 0
def State.prev (s : State) : Int := most (-s.drive.dispOut) 0

/-! ## Overspeed (R42) -/

/-- The overspeed flag changes, with its notice. -/
def setOverspeed (flag : Bool) (s : State) : State :=
  notice .overspeed flag { s with drive := { s.drive with overspeed := flag } }

/-- The overspeed test at a speed sample in TRANSPORT, WORK and STOWING. The cap in force is that of the mode and the
recipe copy as they stand at the sample, before the drive period that first uses them: the model's choice (assumption
log 41). -/
def overspeedTest (s : State) : State :=
  match s.mc.mode with
  | .transport | .work | .stowing =>
    let x := s.pcu.sample
    let cap := s.cap
    let rev := s.reverseLimit
    if s.drive.overspeed then (if -rev ≤ x ∧ x ≤ cap then setOverspeed false s else s)
    else if x > cap + divZ cap 10 ∨ x < -(rev + divZ rev 10) then setOverspeed true s
    else s
  | _ => s

/-- An overspeed flag that is yes is cleared at a mode entry (R42). -/
def clearOverspeed (s : State) : State := if s.drive.overspeed then setOverspeed false s else s

/-! ## Mode announcements (R29, R43, R46) -/

/-- Entry to TRANSPORT, WORK, STOWING or PARKING. -/
def driveEnterTravel (s : State) : State :=
  let s := { s with drive := { s.drive with brk := true } }
  if s.mc.mode = .parking then clearOverspeed s else s

/-- What entry to SETTLE, PARK and STANDBY have in common: everything to 0 and the brake applied. -/
def Drive.atRest (d : Drive) : Drive := { d.zeroed with dwell := none, brk := false }

/-- Entry to PARK; from SETTLE the requested speed is 0 and the request timer starts (R29). -/
def driveEnterPark (fromSettle : Bool) (s : State) : State :=
  let d := s.drive.atRest
  let d := if fromSettle then { d with requested := 0, requestTimer := s.startMs s.setup.requestTimeout } else d
  clearOverspeed { s with drive := d }

/-- Entry to STANDBY: the request and drive period timers stop. -/
def driveEnterStandby (s : State) : State :=
  clearOverspeed { s with
    drive := { s.drive.atRest with requested := 0, requestTimer := none, periodTimer := none } }

/-- Waking: the drive period timer starts and the held direction is NONE. -/
def driveWake (s : State) : State :=
  clearOverspeed { s with
    drive := { s.drive.atRest with
      requested := 0, requestTimer := none, held := none, periodTimer := s.startMs 10 } }

/-- An accepted RESTART (R48): as entry to SETTLE, with the held direction NONE and both flags no without notices. -/
def driveRestart (s : State) : State :=
  { s with drive := { s.drive.atRest with
      requested := 0, requestTimer := none, held := none, stale := false, overspeed := false } }

/-- The recipe copy (R45). -/
def driveRecipe (f : RecipeFields) (s : State) : State :=
  { s with drive := { s.drive with
      speedCap := fieldSpeedCap f, accelStep := fieldAccelStep f, decelStep := fieldDecelStep f } }

/-! ## The requested speed (R28, R29) -/

/-- The stale flag changes, with its notice. -/
def setRequestStale (flag : Bool) (s : State) : State :=
  notice .requestStale flag { s with drive := { s.drive with stale := flag } }

/-- TRAVEL taken with a speed (R28). -/
def takeTravel (v : Int) (s : State) : State × List Byte :=
  let stored := clamp (-3000) 11000 v
  let s := { s with drive := { s.drive with
      requested := stored, requestTimer := s.startMs s.setup.requestTimeout } }
  let s := if s.drive.stale then setRequestStale false s else s
  answer (if stored = v then .ok else .clamped) s

/-- The request timer expires (R29). -/
def requestExpired (s : State) : State :=
  let s := { s with drive := { s.drive with requested := 0, requestTimer := none } }
  if s.drive.stale then s else setRequestStale true s

/-- The dwell timer expires (R35): the held direction takes the direction of the dwell. -/
def dwellExpired (toward : Heading) (s : State) : State :=
  { s with drive := { s.drive with held := some toward, dwell := none } }

/-! ## Commands -/

/-- REQUEST_TIMER_EXPIRY (R29). -/
def execRequestTimerExpiry (s : State) : Host.Outcome State Fault Refusal :=
  finish (onExpiry s.drive.requestTimer requestExpired s)

/-- DRIVE_PERIOD_EXPIRY (R30). -/
def execDrivePeriodExpiry (s : State) : Host.Outcome State Fault Refusal :=
  finish (onExpiry s.drive.periodTimer drivePeriod s)

/-- DWELL_TIMER_EXPIRY (R35). -/
def execDwellTimerExpiry (s : State) : Host.Outcome State Fault Refusal :=
  finish (match s.drive.dwell with
    | none => s
    | some w => dwellExpired w.toward (s.atTime w.due))

end Sys2Proof.Machine
end

