-- ==== Sys2Proof/Machine/Water.lean ====
section
/-! DEFINITION. The Spray Controller (Chapter 6): wanted set, flow target, water command, valve sequence, pump, tank, and
the commands WATER_RAMP_TIMER_EXPIRY, VALVE_LEAD_TIMER_EXPIRY and VALVE_LAG_TIMER_EXPIRY. -/

namespace Sys2Proof.Machine

/-! ## The wanted set (R94) -/

/-- Some nozzle group belongs to the set. -/
def Nozzles.any (n : Nozzles) : Bool := n.nl || n.nr || n.nm || n.nf

/-- The wanted set formed from spray enable, mode, nozzle mask, brush flags and the empty flag. -/
def wantedSet (s : State) : Nozzles :=
  let p := s.spray
  let allowed := p.enable && (s.mc.mode == .work || s.mc.mode == .stowing) && !p.empty
  { nl := allowed && p.mask.nl && p.brushOn.l
    nr := allowed && p.mask.nr && p.brushOn.r
    nm := allowed && p.mask.nm && p.brushOn.m
    nf := allowed && p.mask.nf && (p.brushOn.l || p.brushOn.r || p.brushOn.m) }

/-! ## The flow target (R96, R97) -/

/-- The eighths of a factor code: 0, 1/8, 1/4, 1/2, 1. -/
def factorEighths (code : Int) : Int :=
  if code = 0 then 0 else if code = 1 then 1 else if code = 2 then 2 else if code = 3 then 4 else 8

/-- The adjusted dose (R97): trimmed by the dust index, clamped to [0, dose_max], halved while the low flag is yes. -/
def adjustedDose (s : State) : Int :=
  let p := s.spray
  let dust := s.sensor .dust
  let n := factorEighths (if p.dustBase < dust then p.ctUp else p.ctDn)
  let dose := clamp 0 p.doseMax (divZ (p.dose * 80 + (dust - p.dustBase) * n) 80)
  if p.low then divZ dose 2 else dose

/-- The flow target q: nothing wanted, standstill, or travel (R96). -/
def flowTarget (s : State) : Int :=
  if !s.spray.wanted.any then 0
  else if mag s.pcu.sample < 100 then least s.spray.idleFlow s.setup.flowFull
  else least s.setup.flowFull (divZ (mag s.pcu.sample * adjustedDose s) 1000)

/-! ## Pump, command and valve sequence (R98 to R103) -/

/-- The pump flow and WPUMP (R103): the command scaled by the WATER share in FLOWING, 0 in every other state. -/
def pumpUpdate (s : State) (p : Spray) : Spray :=
  let flow := if p.seq = .flowing then divZ (p.command * s.arb.consumers.water.share) 1000 else 0
  { p with pumpFlow := flow, wpump := least 1000 (divZ (flow * 1000) s.setup.flowFull) }

/-- The WATER demand (R99). -/
def waterDemand (s : State) (command : Int) : Int := divZ (command * s.setup.kw) 100

/-- The command leaves 0 (R100): LEAD with the wanted valves open, or FLOWING at once with a valve_lead of 0. -/
def enterLead (s : State) (p : Spray) : Spray :=
  let p := { p with lagTimer := none, valves := p.wanted }
  if s.setup.valveLead = 0 then pumpUpdate s { p with seq := .flowing, leadTimer := none }
  else pumpUpdate s { p with seq := .lead, leadTimer := s.startMs s.setup.valveLead }

/-- Every valve closes and the sequence is DRY (R102). -/
def enterDry (p : Spray) : Spray :=
  { p with seq := .dry, valves := Nozzles.none, lagTimer := none, leadTimer := none }

/-- The command reaches 0 (R102): the pump stops at once, the open valves stay open for valve_lag. -/
def enterLag (s : State) (p : Spray) : Spray :=
  let p := { p with leadTimer := none, pumpFlow := 0, wpump := 0 }
  if s.setup.valveLag = 0 then enterDry p
  else { p with seq := .lag, lagTimer := s.startMs s.setup.valveLag }

/-- The command takes a value; demand, valve sequence and pump flow follow (R98, R99). -/
def setCommand (s : State) (c : Int) (p : Spray) : Spray :=
  if c = p.command then p
  else
    let p' := { p with command := c, demand := waterDemand s c }
    if c = 0 then enterLag s p'
    else if p.command = 0 then enterLead s p'
    else pumpUpdate s p'

/-- The command follows a change of q (R98). A q that keeps its value changes nothing. -/
def followTarget (s : State) (q : Int) (p : Spray) : Spray :=
  if q = p.q then p
  else
    let p := { p with q := q }
    if q = 0 then { setCommand s 0 p with rampTimer := none }
    else if p.command = 0 then
      let c := least q p.waterStep
      { setCommand s c p with rampTimer := if c < q then s.startMs 100 else none }
    else if q = p.command then { p with rampTimer := none }
    else if p.rampTimer.isNone then { p with rampTimer := s.startMs 100 }
    else p

/-- The evaluation of q (R96). -/
def evaluateFlow (s : State) : State := { s with spray := followTarget s (flowTarget s) s.spray }

/-- In LEAD and FLOWING the valves follow the wanted set while a group remains in it: those of the groups that joined open
and those of the groups that left close at once. With no group left they stay as they are, for the lag (R101). -/
def valvesFollow (p : Spray) : Spray :=
  match p.seq with
  | .lead | .flowing => if p.wanted.any then { p with valves := p.wanted } else p
  | .dry | .lag => p

/-- The forming of the wanted set, which the valves follow in the sequence's state as it stands, and the evaluation of q
(R94, R101, assumption log 34). -/
def formWanted (s : State) : State :=
  evaluateFlow { s with spray := valvesFollow { s.spray with wanted := wantedSet s } }

/-- One ramp step of the command toward q (R98). -/
def waterRampExpired (s : State) : State :=
  let p := s.spray
  let c := if p.command < p.q then least p.q (p.command + p.waterStep)
    else if p.q < p.command then most p.q (p.command - p.waterStep) else p.command
  let p := setCommand s c p
  { s with spray := { p with rampTimer := if c = p.q then none else s.startMs 100 } }

/-- The lead ends (R100): with the command above 0, FLOWING and the pump driven. -/
def leadExpired (s : State) : State :=
  let p := { s.spray with leadTimer := none }
  { s with spray := if 0 < p.command then pumpUpdate s { p with seq := .flowing } else p }

/-- The lag ends (R102). -/
def lagExpired (s : State) : State := { s with spray := enterDry s.spray }

/-! ## Notices and publications -/

/-- A brush output notice (R63, R94): the named unit's flag is copied, or all flags are zero when the notice states all
brushes at rest; the wanted set is formed again. -/
def brushNotice (u : BrushUnit) (nonzero allAtRest : Bool) (s : State) : State :=
  formWanted { s with spray := { s.spray with
      brushOn := if allAtRest then PerUnit.const false else s.spray.brushOn.set u nonzero } }

/-- The WATER share is published (R103). -/
def waterShare (s : State) : State :=
  { s with spray := if s.spray.seq = .flowing then pumpUpdate s s.spray else s.spray }

/-! ## The tank (R104) -/

/-- A flag with its threshold and hysteresis: yes at the threshold or below, no above the threshold plus hysteresis. -/
def tankFlag (flag : Bool) (level threshold hyst : Int) : Bool :=
  if flag then !(decide (threshold + hyst < level)) else decide (level ≤ threshold)

/-- The low flag takes a value; a change gives its notice and evaluates q. -/
def setLow (flag : Bool) (s : State) : State :=
  if flag = s.spray.low then s
  else evaluateFlow (notice .tankLow flag { s with spray := { s.spray with low := flag } })

/-- The empty flag takes a value; a change gives its notice and forms the wanted set again. -/
def setEmpty (flag : Bool) (s : State) : State :=
  if flag = s.spray.empty then s
  else formWanted (notice .tankEmpty flag { s with spray := { s.spray with empty := flag } })

/-- The tank test: TANK_LOW is changed and reported before TANK_EMPTY. -/
def tankTest (s : State) : State :=
  let level := s.sensor .tank
  let low := tankFlag s.spray.low level s.setup.tankLow s.setup.tankHyst
  let empty := tankFlag s.spray.empty level s.setup.tankEmpty s.setup.tankHyst
  setEmpty empty (setLow low s)

/-! ## Recipe, modes and RESTART (R105, R107) -/

/-- The recipe copy, and the wanted set formed again. -/
def sprayRecipe (f : RecipeFields) (s : State) : State :=
  formWanted { s with spray := { s.spray with
      dose := fieldDose f, doseMax := fieldDoseMax f, dustBase := fieldDustBase f, ctUp := fieldCtUp f,
      ctDn := fieldCtDn f, idleFlow := fieldIdleFlow f, waterStep := fieldWaterStep f, mask := fieldNozzleMask f } }

/-- The water at rest at once: q, command, demand and pump 0, valves closed, timers stopped, DRY, nothing wanted. -/
def Spray.atRest (p : Spray) : Spray :=
  { p with wanted := Nozzles.none, q := 0, command := 0, demand := 0, pumpFlow := 0, wpump := 0, seq := .dry,
           valves := Nozzles.none, rampTimer := none, leadTimer := none, lagTimer := none }

/-- Entry to STANDBY (R107). -/
def sprayStandby (s : State) : State := { s with spray := s.spray.atRest }

/-- An accepted RESTART, before its tank test (R107): spray enable off, both flags no without notices. -/
def sprayRestart (s : State) : State :=
  { s with spray := { s.spray.atRest with
      enable := false, low := false, empty := false, brushOn := PerUnit.const false } }

/-! ## Commands -/

/-- WATER_RAMP_TIMER_EXPIRY (R98). -/
def execWaterRampTimerExpiry (s : State) : Host.Outcome State Fault Refusal :=
  finish (onExpiry s.spray.rampTimer waterRampExpired s)

/-- VALVE_LEAD_TIMER_EXPIRY (R100). -/
def execValveLeadTimerExpiry (s : State) : Host.Outcome State Fault Refusal :=
  finish (onExpiry s.spray.leadTimer leadExpired s)

/-- VALVE_LAG_TIMER_EXPIRY (R102). -/
def execValveLagTimerExpiry (s : State) : Host.Outcome State Fault Refusal :=
  finish (onExpiry s.spray.lagTimer lagExpired s)

/-- SPRAY taken with a value (R95). -/
def takeSpray (v : Byte) (s : State) : State × List Byte :=
  answer (if v.toNat ≤ 1 then .ok else .clamped)
    (formWanted { s with spray := { s.spray with enable := v != 0 } })

end Sys2Proof.Machine
end

