-- ==== Sys2Proof/Machine/BrushSpeed.lean ====
section
/-! DEFINITION. The Brush Speed Unit (Chapter 4): segment selection, target, ramp, demand, output, stall and lag, and the
commands BRUSH_RAMP_TIMER_EXPIRY and LAG_TIMER_EXPIRY; how PACE_WRITE and PACE_READ are judged. -/

namespace Sys2Proof.Machine

/-! ## Records -/

/-- One unit's record. -/
def State.brushOf (s : State) (u : BrushUnit) : BrushRec := s.brush.units.get u

/-- One unit's record replaced. -/
def State.putBrush (s : State) (u : BrushUnit) (b : BrushRec) : State :=
  { s with brush := { s.brush with units := s.brush.units.set u b } }

/-- The consumer of a unit (R52). -/
def unitConsumer : BrushUnit → Consumer
  | .l => .brushL
  | .r => .brushR
  | .m => .broomM

/-- The share last published for a unit's consumer. -/
def brushShare (s : State) (u : BrushUnit) : Int := (s.arb.consumers.get (unitConsumer u)).share

/-! ## Demand and output (R61 to R63) -/

/-- The demand of a command c (R61). -/
def brushDemand (s : State) (u : BrushUnit) (c : Int) : Int :=
  least 2000 (divZ (s.sensor .auxP * c * s.setup.vm u) 600000)

/-- Every brush output is 0. -/
def brushesAtRest (s : State) : Bool :=
  s.brush.units.l.out == 0 && s.brush.units.r.out == 0 && s.brush.units.m.out == 0

/-- A change of `out` between 0 and a nonzero value gives the Spray Controller its notice (R63). -/
def outputNotice (u : BrushUnit) (before after : Int) (s : State) : State :=
  if (before == 0) == (after == 0) then s
  else brushNotice u (after != 0) (after == 0 && brushesAtRest s) s

/-- The starved flag takes a value; a change gives its notice (R62). -/
def setStarved (u : BrushUnit) (flag : Bool) (s : State) : State :=
  if flag = (s.brushOf u).starved then s
  else notice (.brushStarved u) flag (s.putBrush u { s.brushOf u with starved := flag })

/-- `out` and the value driven take their values; an `out` below start_rpm stops the stall timer (R62, R64). -/
def driveOutput (u : BrushUnit) (out : Int) (s : State) : State :=
  let b := s.brushOf u
  let s' := s.putBrush u { b with
    out := out
    output := least 1000 (divZ (out * 1000) (s.setup.rpmFull u))
    stallTimer := if out < s.setup.startRpm u then none else b.stallTimer }
  outputNotice u b.out out s'

/-- The output update (R62): scaling, starvation, output value. -/
def updateOutput (u : BrushUnit) (s : State) : State :=
  let b := s.brushOf u
  let scaled := divZ (b.c * brushShare s u) 1000
  let starving := decide (0 < scaled ∧ scaled < s.setup.stopRpm u)
  let starved := if starving then true else if b.c = 0 then false else if scaled = 0 then b.starved else false
  driveOutput u (if starving then 0 else scaled) (setStarved u starved s)

/-- The command c takes a value; a change updates the demand and the output (R56, R58). -/
def setBrushCommand (u : BrushUnit) (c : Int) (s : State) : State :=
  if c = (s.brushOf u).c then s
  else updateOutput u (s.putBrush u { s.brushOf u with c := c, demand := brushDemand s u c })

/-! ## The ramp (R57 to R60) -/

/-- A rate's interval in ms by its code (Table 4-4); none for DIRECT. -/
def rateInterval (code : Int) : Option Int :=
  if code = 0 then some 500 else if code = 1 then some 200 else if code = 2 then some 100
  else if code = 3 then some 50 else none

/-- The unit is settled (R57). -/
def settled (s : State) (u : BrushUnit) : Bool :=
  let b := s.brushOf u
  b.c == b.t || (b.c == 0 && decide (b.t < s.setup.startRpm u))

/-- The needed direction of an unsettled unit (R57). -/
def neededDir (b : BrushRec) : RampDir := if b.c < b.t then .up else .down

/-- The interval of a direction's rate in the recipe copy. -/
def dirInterval (s : State) : RampDir → Option Int
  | .up => rateInterval s.brush.upRate
  | .down => rateInterval s.brush.downRate

/-- The unit's ramp timer takes a value. -/
def setRampTimer (u : BrushUnit) (r : Option RampTimer) (s : State) : State :=
  s.putBrush u { s.brushOf u with rampTimer := r }

/-- The ramp timer is started afresh with the interval of the needed direction, or DIRECT is applied (R57, R59). -/
def startRamp (u : BrushUnit) (s : State) : State :=
  let b := s.brushOf u
  match dirInterval s (neededDir b) with
  | some ms => setRampTimer u (some ⟨neededDir b, s.after (ms.toNat * 1000)⟩) s
  | none =>
    let c := match neededDir b with
      | .up => if b.c = 0 ∧ b.t < s.setup.startRpm u then 0 else b.t
      | .down => if b.t < s.setup.stopRpm u then 0 else b.t
    setBrushCommand u c (setRampTimer u none s)

/-- A timed ramp of the unit runs in the needed direction (R57). -/
def rampRuns (s : State) (u : BrushUnit) : Bool :=
  (s.brushOf u).rampTimer.any (·.dir == neededDir (s.brushOf u)) && (dirInterval s (neededDir (s.brushOf u))).isSome

/-- The unit examines its timer, at a change of t and at a change of c that is no ramp step (R57): stopped when settled,
kept when it runs in the needed direction, otherwise started afresh; DIRECT applies in place of any timer (R59). -/
def examineRamp (u : BrushUnit) (s : State) : State :=
  if settled s u then setRampTimer u none s
  else if rampRuns s u then s
  else startRamp u s

/-- The value of c after one ramp step (R58): kick, step up, step down with the stop cut. -/
def rampedCommand (s : State) (u : BrushUnit) : Int :=
  let b := s.brushOf u
  if b.c < b.t then
    if b.c = 0 then (if s.setup.startRpm u ≤ b.t then s.setup.startRpm u else 0)
    else least b.t (b.c + s.brush.step)
  else if b.t < b.c then
    let c := most b.t (b.c - s.brush.step)
    if c < s.setup.stopRpm u then 0 else c
  else b.c

/-- The ramp timer expires (R58): one step; the timer is restarted while the unit is not settled. -/
def rampExpired (u : BrushUnit) (s : State) : State :=
  let s := setBrushCommand u (rampedCommand s u) (setRampTimer u none s)
  if settled s u then s else startRamp u s

/-! ## Segment selection and target (R53 to R55) -/

/-- The pace table of a unit. -/
def paceTable (s : State) (u : BrushUnit) : PaceTable := s.recipes.pace[(s.brushOf u).table]

/-- An entry of a table's segments. -/
def PaceTable.bound (p : PaceTable) (i : Nat) : Int := p.boundary[i]?.getD 0
def PaceTable.rate (p : PaceTable) (i : Nat) : Int := p.rpm[i]?.getD 0

/-- The rise test repeated, at most `n` times. -/
def riseIndex (p : PaceTable) (v : Int) : Nat → Nat → Nat
  | 0, i => i
  | n + 1, i => if i + 1 < p.count ∧ p.bound (i + 1) ≤ v then riseIndex p v n (i + 1) else i

/-- The fall test repeated. -/
def fallIndex (p : PaceTable) (v : Int) : Nat → Nat
  | 0 => 0
  | i + 1 => if v < p.bound (i + 1) - p.hysteresis then fallIndex p v i else i + 1

/-- The selection of R53: the two tests never pull against each other, so all rises come first and then all falls. -/
def selectIndex (p : PaceTable) (v : Int) (i : Nat) : Nat := fallIndex p v (riseIndex p v 6 i)

/-- The plain lookup of R54: the largest segment whose boundary the speed has reached. -/
def lookupIndex (p : PaceTable) (v : Int) : Nat :=
  ((List.range p.count).filter fun i => decide (p.bound i ≤ v)).getLast?.getD 0

/-- The unit's t takes a value; a change re-examines the ramp (R55). -/
def setTarget (u : BrushUnit) (t : Int) (s : State) : State :=
  if t = (s.brushOf u).t then s else examineRamp u (s.putBrush u { s.brushOf u with t := t })

/-- The table rpm of a unit's segment, limited to rpm_full (R55). -/
def tableTarget (s : State) (u : BrushUnit) : Int :=
  least ((paceTable s u).rate (s.brushOf u).index) (s.setup.rpmFull u)

/-- The spin states that give the table rpm. -/
def Spin.turns : Spin → Bool
  | .spinningUp => true
  | .on => true
  | _ => false

/-- The forming of t (R55). -/
def formTarget (u : BrushUnit) (s : State) : State :=
  setTarget u (if (s.brushOf u).spin.turns then tableTarget s u else 0) s

/-- A speed sample reaches one unit (R53, R54): selection, or the pending lookup, and then t. -/
def brushSpeedSample (u : BrushUnit) (s : State) : State :=
  let b := s.brushOf u
  let p := paceTable s u
  let v := mag s.pcu.sample
  let index := if b.reselect then lookupIndex p v else selectIndex p v b.index
  formTarget u (s.putBrush u { b with index := index, reselect := false })

/-! ## Notices from the Arm Sequencer (R56) -/

/-- c is set to 0 at once and the ramp timer stops. -/
def cutCommand (u : BrushUnit) (s : State) : State := setBrushCommand u 0 (setRampTimer u none s)

/-- A change of the unit's spin. -/
def spinNotice (u : BrushUnit) (sp : Spin) (s : State) : State :=
  let s := s.putBrush u { s.brushOf u with spin := sp }
  match sp with
  | .off => cutCommand u (s.putBrush u { s.brushOf u with t := 0 })
  | .spinningDown => setTarget u 0 s
  | _ => if (s.brushOf u).reselect then s else formTarget u s

/-- A change of the unit's height between DOWN and any other value. -/
def heightNotice (u : BrushUnit) (down : Bool) (s : State) : State :=
  let s := s.putBrush u { s.brushOf u with heightDown := down }
  if down then s else cutCommand u s

/-! ## Stall and lag (R64, R65) -/

/-- The stalled flag takes a value, with its notice. -/
def setStalled (u : BrushUnit) (flag : Bool) (s : State) : State :=
  notice (.brushStall u) flag (s.putBrush u { s.brushOf u with stalled := flag })

/-- The lagging flag takes a value, with its notice. -/
def setLagging (u : BrushUnit) (flag : Bool) (s : State) : State :=
  notice (.brushLag u) flag (s.putBrush u { s.brushOf u with lagging := flag })

/-- Stall detection at a brush sample (R64). -/
def stallSample (u : BrushUnit) (s : State) : State :=
  let b := s.brushOf u
  let rpm := s.pcu.brushRpm.get u
  let driven := decide (s.setup.startRpm u ≤ b.out)
  let timer := if 0 < rpm then none
    else if driven && b.stallTimer.isNone then s.startMs s.setup.stallTime else b.stallTimer
  let s := s.putBrush u { b with stallTimer := timer }
  if b.stalled && (decide (0 < rpm) || !driven) then setStalled u false s else s

/-- Lag detection at a brush sample (R65). -/
def lagSample (u : BrushUnit) (s : State) : State :=
  let b := s.brushOf u
  if s.pcu.brushRpm.get u < b.out - s.setup.lagMargin then
    if b.lagTimer.isNone then s.putBrush u { b with lagTimer := s.startMs s.setup.lagTime } else s
  else
    let s := s.putBrush u { b with lagTimer := none }
    if b.lagging then setLagging u false s else s

/-- A brush sample event reaches one unit. -/
def brushSample (u : BrushUnit) (s : State) : State := lagSample u (stallSample u s)

/-- The lag timer expires (R65). -/
def lagTimerExpired (u : BrushUnit) (s : State) : State :=
  setLagging u true (s.putBrush u { s.brushOf u with lagTimer := none })

/-! ## AUX_P, recipe, modes and RESTART (R60, R61, R67) -/

/-- A new value of AUX_P for use: one unit's demand is computed again (R61). -/
def refreshBrushDemand (u : BrushUnit) (s : State) : State :=
  s.putBrush u { s.brushOf u with demand := brushDemand s u (s.brushOf u).c }

/-- A direction's rate was timed before a change of the recipe copy and is DIRECT after it. -/
def becomesDirect (before s : State) (d : RampDir) : Bool := (dirInterval before d).isSome && (dirInterval s d).isNone

/-- One unit at a recipe change (R60), given the state before it: a new table number makes a reselection pending; an
unsettled unit whose needed direction's rate has become DIRECT applies it at once; t, c and the index otherwise stay. -/
def brushRecipeUnit (f : RecipeFields) (before : State) (u : BrushUnit) (s : State) : State :=
  let b := s.brushOf u
  let s := s.putBrush u { b with table := fieldTable f u, reselect := b.reselect || fieldTable f u != b.table }
  if !settled s u && becomesDirect before s (neededDir b) then startRamp u s else s

/-- The recipe copy (R60). The units are taken in the order L, R, M: the model's choice (assumption log 9). -/
def brushRecipe (f : RecipeFields) (s : State) : State :=
  forUnits (brushRecipeUnit f s)
    { s with brush := { s.brush with step := fieldStep f, upRate := fieldUpRate f, downRate := fieldDownRate f } }

/-- One unit's outputs at rest: t, c, out, output and demand 0, timers stopped; a nonzero output gives its notice. -/
def brushRest (u : BrushUnit) (s : State) : State :=
  let b := s.brushOf u
  outputNotice u b.out 0 (s.putBrush u { b with
    t := 0, c := 0, out := 0, output := 0, demand := 0, rampTimer := none, stallTimer := none, lagTimer := none })

/-- A flag that is yes becomes no, with its notice (R67): starved, stalled, lagging, the model's order (assumption log 9). -/
def brushFlagsOff (u : BrushUnit) (s : State) : State :=
  let s := if (s.brushOf u).starved then setStarved u false s else s
  let s := if (s.brushOf u).stalled then setStalled u false s else s
  if (s.brushOf u).lagging then setLagging u false s else s

/-- Entry to STANDBY (R67), in the order L, R, M (assumption log 9). -/
def brushStandby (s : State) : State := forUnits (fun u s => brushFlagsOff u (brushRest u s)) s

/-- Waking (R67): each index is 0. -/
def brushWake (s : State) : State := forUnits (fun u s => s.putBrush u { s.brushOf u with index := 0 }) s

/-- An accepted RESTART (R67): at rest, flags no without notices, indices 0, no pending reselection. -/
def brushRestart (s : State) : State :=
  forUnits (fun u s =>
    let s := brushRest u s
    s.putBrush u { s.brushOf u with
      starved := false, stalled := false, lagging := false, index := 0, reselect := false }) s

/-! ## Pace tables (R50, R51) -/

/-- The checks of PACE_WRITE on the used segments (R50). -/
def paceValid (count : Nat) (bounds rpms : List Int) : Bool :=
  decide (1 ≤ count ∧ count ≤ 6) && bounds.head? == some 0
    && ((bounds.take count).zip ((bounds.take count).drop 1)).all (fun p => decide (p.1 < p.2))
    && (bounds.take count).all (fun b => decide (b ≤ 11000))
    && (rpms.take count).all (fun r => decide (0 ≤ r ∧ r ≤ 300))

/-- The table a PACE_WRITE makes: the places beyond the count are 0 (R50, R51). -/
def paceOf (hyst : Int) (count : Nat) (bounds rpms : List Int) : PaceTable where
  count := count
  boundary := Vector.ofFn fun i => if i.val < count then bounds.getD i.val 0 else 0
  rpm := Vector.ofFn fun i => if i.val < count then rpms.getD i.val 0 else 0
  hysteresis := hyst

/-- A reselection is marked pending for a unit that names the written table (R50, R54). -/
def markReselect (table : Fin 4) (u : BrushUnit) (s : State) : State :=
  if (s.brushOf u).table = table then s.putBrush u { s.brushOf u with reselect := true } else s

/-- PACE_WRITE judged (R50). -/
def takePaceWrite (table : Nat) (hyst : Int) (count : Nat) (bounds rpms : List Int) (s : State) :
    State × List Byte :=
  if h : table < 4 then
    if paceValid count bounds rpms then
      let stored := clamp 0 500 hyst
      let s := { s with recipes := { s.recipes with
          pace := s.recipes.pace.set table (paceOf stored count bounds rpms) } }
      answer (if stored = hyst then .ok else .clamped) (forUnits (markReselect ⟨table, h⟩) s)
    else answer .badTable s
  else answer .badTable s

/-- PACE_READ judged (R51). -/
def takePaceRead (table : Byte) (s : State) : State × List Byte :=
  if h : table.toNat < 4 then
    let p := s.recipes.pace[table.toNat]
    (s, [Result.ok.code, table] ++ bytes16 p.hysteresis ++ [byte p.count] ++
      (List.range 6).flatMap fun i => bytes16 (p.bound i) ++ bytes16 (p.rate i))
  else answer .badTable s

/-! ## Commands -/

/-- BRUSH_RAMP_TIMER_EXPIRY (R58). -/
def execBrushRampTimerExpiry (u : BrushUnit) (s : State) : Host.Outcome State Fault Refusal :=
  finish (onExpiry ((s.brushOf u).rampTimer.map RampTimer.due) (rampExpired u) s)

/-- LAG_TIMER_EXPIRY (R65). -/
def execLagTimerExpiry (u : BrushUnit) (s : State) : Host.Outcome State Fault Refusal :=
  finish (onExpiry (s.brushOf u).lagTimer (lagTimerExpired u) s)

end Sys2Proof.Machine
end

