-- ==== Sys2Proof/Machine/Modes.lean ====
section
/-! DEFINITION. Mode Control's own part of a mode change (Chapter 1), and the part of an announcement that the Drive
Regulator and the Spray Controller carry out. -/

namespace Sys2Proof.Machine

/-- The target mode of a mode (Table 1-8). -/
def Mode.target : Mode → Mode
  | .standby => .standby
  | .settle => .park
  | .park => .park
  | .transport => .transport
  | .work => .work
  | .stowing => .transport
  | .parking => .park

/-- Mode Control takes a mode: target and timers as Table 1-8 gives them; PARKING entered with the vehicle stopped
starts the park-stop timer (R9). SETTLE's timer is started by `enterSettle`. -/
def takeMode (m : Mode) (s : State) : State :=
  { s with mc :=
      { mode := m
        target := m.target
        settleTimer := none
        parkStopTimer := if m = .parking ∧ s.stopped then s.startMs 500 else none } }

/-- The MODE report of a change (R14). -/
def modeReport (s : State) : State := s.post (.mode s.mc.mode s.mc.target)

/-- Mode Control enters SETTLE (R4, R13): the settle timer runs for 100 or 1000 ms by the SETTLE strap. -/
def enterSettle (s : State) : State :=
  let s := takeMode .settle s
  modeReport { s with mc := { s.mc with settleTimer := s.startMs (if s.pins.settleStrap then 1000 else 100) } }

/-- A travel mode is entered, as far as Mode Control, the Drive Regulator and the Spray Controller go: the mode and its
report, the brake and overspeed flag (R43, R46), the wanted set (R107). The Drive Regulator has the announcement before the
Spray Controller, and that before the Arm Sequencer: the model's choice (assumption log 9). -/
def enterTravelBlocks (m : Mode) (s : State) : State := formWanted (driveEnterTravel (modeReport (takeMode m s)))

/-- Mode Control's answer to a notice of a posture change (R8, R12): in STOWING with every unit STOWED, TRANSPORT is
entered; in TRANSPORT with a unit no longer STOWED, PARKING. Every base goal is STOWED before and after, so the Arm
Sequencer has nothing to do at either announcement. -/
def postureNotice (s : State) : State :=
  match s.mc.mode with
  | .stowing => if s.allStowed then enterTravelBlocks .transport s else s
  | .transport => if s.allStowed then s else enterTravelBlocks .parking s
  | _ => s

end Sys2Proof.Machine
end

