-- ==== Sys2Proof/Machine/ArmSequence.lean ====
section
/-! DEFINITION. The Arm Sequencer (Chapter 5): postures and their notices, goals and holds, the planner, the cylinder
manifold, spin actions, faults, and the commands END_SWITCH_CHANGE, SPACING_TIMER_EXPIRY, CYLINDER_TIMEOUT_EXPIRY,
SPIN_DOWN_TIMER_EXPIRY, RELEASE_TIMER_EXPIRY and STALL_TIMER_EXPIRY, and how the four UNIT operations are judged. -/

namespace Sys2Proof.Machine

/-! ## Records -/

/-- One unit's record. -/
def State.armOf (s : State) (u : BrushUnit) : ArmUnit := s.arms.units.get u

/-- One unit's record replaced. -/
def State.putArm (s : State) (u : BrushUnit) (a : ArmUnit) : State :=
  { s with arms := { s.arms with units := s.arms.units.set u a } }

/-- A unit's UNIT report (R89), with the values as they stand. -/
def unitReport (u : BrushUnit) (c : UnitCause) (s : State) : State :=
  let a := s.armOf u
  s.post (.unit u c a.reach a.height a.spin a.activity a.holds)

/-! ## Posture changes and their notices (R69)

R69 sets no order between the two blocks that a change notifies: the Brush Speed Unit has its notices first, that of spin
before that of height, and then Mode Control its one (assumption log 43). -/

/-- Spin takes a value; the Brush Speed Unit and Mode Control are notified of a change, in this order (assumption log
43). -/
def setSpin (u : BrushUnit) (sp : Spin) (s : State) : State :=
  if sp = (s.armOf u).spin then s
  else postureNotice (spinNotice u sp (s.putArm u { s.armOf u with spin := sp }))

/-- Reach takes a value; Mode Control is notified of a change. -/
def setReach (u : BrushUnit) (r : Reach) (s : State) : State :=
  if r = (s.armOf u).reach then s else postureNotice (s.putArm u { s.armOf u with reach := r })

/-- Height takes a value. A height that leaves DOWN takes spin to OFF in the same step; the Brush Speed Unit is notified
of the spin and of a change between DOWN and another value, and then Mode Control of the change (assumption log 43). -/
def setHeight (u : BrushUnit) (h : Height) (s : State) : State :=
  let a := s.armOf u
  if h = a.height then s
  else
    let s := s.putArm u { a with height := h, spin := if a.height = .down then .off else a.spin }
    let s := if a.height = .down ∧ a.spin ≠ .off then spinNotice u .off s else s
    let s := if a.height = .down ∨ h = .down then heightNotice u (h == .down) s else s
    postureNotice s

/-! ## Goals (R72, R73) -/

/-- The goal a base goal and a hold set give (Table 5-3). The reach of M is ignored by the planner. -/
def goalOf (u : BrushUnit) (working : Bool) (holds : List Hold) : Goal where
  out := working && !(holds.contains .sensed || holds.contains .knock || (u != .m && holds.contains .stall))
  down := working && !holds.contains .lift
  on := working && !(holds.contains .lift || holds.contains .stall)

/-- The base goal of a unit: WORKING in WORK for a unit of the units mask (R72). -/
def baseWorking (s : State) (u : BrushUnit) : Bool := s.mc.mode == .work && s.arms.unitsMask.get u

/-! ## The planner (R79) -/

/-- The planner's results. -/
inductive Action where
  | spinDown | spinUp | cyl (k : CylKind)
deriving DecidableEq, Repr

/-- The modes in which the planner runs. -/
def Mode.plans : Mode → Bool
  | .standby => false
  | .settle => false
  | _ => true

/-- The next action of a unit: the first line of Table 5-5 that applies; reach is ignored for M. -/
def nextAction (u : BrushUnit) (a : ArmUnit) : Option Action :=
  if a.spin = .on ∧ !a.goal.on then some .spinDown
  else if a.height ≠ .up ∧ !a.goal.down then some (.cyl .lift)
  else if u ≠ .m ∧ a.goal.out ∧ a.reach ≠ .out then some (.cyl .swingOut)
  else if u ≠ .m ∧ !a.goal.out ∧ a.reach ≠ .isIn then some (.cyl .swingIn)
  else if a.height ≠ .down ∧ a.goal.down then some (.cyl .lower)
  else if a.spin = .off ∧ a.goal.on then some .spinUp
  else none

/-! ## The ARMS demand and the start test (R82, R85) -/

/-- The ARMS demand is posted: arm_reserve while cylinder work waits or moves, 0 otherwise. A demand that changes has
not been read by an allocation. -/
def postArmsDemand (s : State) : State :=
  let d := if s.arms.queue.isEmpty && s.arms.action.isNone then 0 else s.setup.armReserve
  if d = s.arms.demand then s else { s with arms := { s.arms with demand := d, demandRead := false } }

/-- The ARMS share is 1000 and was formed by an allocation that read the demand as it now stands. -/
def armsShareFull (s : State) : Bool := s.arb.consumers.arms.share == 1000 && s.arms.demandRead

/-- The time at which one spacing term of a kind is met: now or before when the other kind's end is long past. -/
def spacingTerm (s : State) (k x : CylKind) : Nat :=
  match s.arms.lastEnd.get x with
  | none => 0
  | some e => e + (s.setup.spacing x k).toNat * 1000

/-- The earliest time at which every spacing term of a kind is met. -/
def spacingTime (s : State) (k : CylKind) : Nat :=
  Nat.max (Nat.max (spacingTerm s k .swingOut) (spacingTerm s k .swingIn))
    (Nat.max (spacingTerm s k .lift) (spacingTerm s k .lower))

/-! ## Queue and actions (R80 to R83) -/

/-- The unit's queue entry is removed. -/
def dropEntry (u : BrushUnit) (s : State) : State :=
  { s with arms := { s.arms with queue := s.arms.queue.filter fun e => e.unit != u } }

/-- The unit's activity takes a value. -/
def setActivity (u : BrushUnit) (act : Activity) (s : State) : State := s.putArm u { s.armOf u with activity := act }

/-- A SPIN_UP starts (R86). -/
def startSpinUp (u : BrushUnit) (s : State) : State := setSpin u .spinningUp (setActivity u .spinningUp s)

/-- A SPIN_DOWN starts (R87): its time limit runs from now. -/
def startSpinDown (u : BrushUnit) (s : State) : State :=
  let s := s.putArm u { s.armOf u with activity := .spinningDown, spinDownTimer := s.startMs s.setup.spinDownMs }
  setSpin u .spinningDown s

/-- The planner's result is acted on (R80), up to the start test. -/
def planStep (u : BrushUnit) (s : State) : State :=
  let a := s.armOf u
  let s := match nextAction u a with
    | none =>
      let s := setActivity u .idle (dropEntry u s)
      if a.activity = .idle then s else unitReport u .goal s
    | some .spinUp => startSpinUp u (dropEntry u s)
    | some .spinDown => startSpinDown u (dropEntry u s)
    | some (.cyl k) =>
      if a.activity = .waiting then
        { s with arms := { s.arms with
            queue := s.arms.queue.map fun e => if e.unit = u then { e with kind := k } else e } }
      else setActivity u .waiting { s with arms := { s.arms with queue := s.arms.queue ++ [⟨u, k⟩] } }
  postArmsDemand s

/-- The head entry starts (R82): it leaves the queue, its unit is MOVING, its valve is on, its timeout runs. -/
def beginAction (e : QueueEntry) (rest : List QueueEntry) (s : State) : State :=
  setActivity e.unit (.moving e.kind)
    { s with arms := { s.arms with
        queue := rest
        action := some ⟨e.unit, e.kind, s.after ((s.setup.cylTimeout e.kind).toNat * 1000)⟩
        spacingTimer := if rest.isEmpty then none else s.arms.spacingTimer } }

/-- The action in progress ends: valve off, timeout stopped, its end time recorded (R83, R84, R91). -/
def endAction (s : State) : State :=
  match s.arms.action with
  | none => s
  | some c => { s with arms := { s.arms with action := none, lastEnd := s.arms.lastEnd.set c.kind (some s.clock) } }

/-- The component value a completed kind sets (Table 5-6). -/
def setComponent (u : BrushUnit) (k : CylKind) (s : State) : State :=
  match k with
  | .swingOut => setReach u .out s
  | .swingIn => setReach u .isIn s
  | .lift => setHeight u .up s
  | .lower => setHeight u .down s

/-- The action in progress completes (R83), up to the start test for the new head. -/
def completeAction (u : BrushUnit) (k : CylKind) (s : State) : State := planStep u (setComponent u k (endAction s))

/-- The level of the switch that completes a kind for a unit. -/
def switchLevel (s : State) (u : BrushUnit) (k : CylKind) : Bool := (s.pins.switches.get u).level k

/-- The start test (R82). The head entry starts when no action is in progress, the share test passes and every spacing
term is met; when the spacing alone fails, the spacing timer runs to the time it is met; an empty queue stops the
timer. An action whose switch is already active completes at once and the test is made again: at most once for each of
the five cylinder components, which `n` bounds (assumption log 10). -/
def startTest : Nat → State → State
  | 0, s => s
  | n + 1, s =>
    match s.arms.queue with
    | [] => { s with arms := { s.arms with spacingTimer := none } }
    | e :: rest =>
      if s.arms.action.isSome || !armsShareFull s then s
      else if s.clock < spacingTime s e.kind then
        { s with arms := { s.arms with spacingTimer := some (spacingTime s e.kind) } }
      else
        let s := beginAction e rest s
        if switchLevel s e.unit e.kind then startTest n (completeAction e.unit e.kind s) else s

/-- The start test, with enough depth for every component to complete at once. -/
def runStartTest (s : State) : State := startTest 8 s

/-- The planner runs for a unit and its result is acted on; then the start test (R79, R80). -/
def runPlanner (u : BrushUnit) (s : State) : State :=
  if s.mc.mode.plans then runStartTest (planStep u s) else s

/-- The planner runs for a unit at a change of goal or posture (R79): not for a unit in FAULT, MOVING or in a spin
action, but a SPIN_UP whose goal's spin is OFF ends and a SPIN_DOWN starts in its place (R86). -/
def replan (u : BrushUnit) (s : State) : State :=
  if s.mc.mode.plans then
    match (s.armOf u).activity with
    | .idle => runPlanner u s
    | .waiting => runPlanner u s
    | .spinningUp => if (s.armOf u).goal.on then s else startSpinDown u s
    | _ => s
  else s

/-! ## Goals and holds (R72 to R77) -/

/-- The unit's base goal and goal are formed again; a change of goal runs the planner. -/
def reformGoal (u : BrushUnit) (s : State) : State :=
  let a := s.armOf u
  let working := baseWorking s u
  let g := goalOf u working a.holds
  let s := s.putArm u { a with baseWorking := working, goal := g }
  if g = a.goal then s else replan u s

/-- A hold is taken: it joins the end of the set, its UNIT report is posted, the goal is formed again. -/
def takeHold (u : BrushUnit) (h : Hold) (s : State) : State :=
  let a := s.armOf u
  if a.holds.contains h then s
  else reformGoal u (unitReport u (.holdTaken h) (s.putArm u { a with holds := a.holds ++ [h] }))

/-- A hold is released: it leaves the set, its UNIT report is posted, the goal is formed again. -/
def releaseHold (u : BrushUnit) (h : Hold) (s : State) : State :=
  let a := s.armOf u
  if a.holds.contains h then
    reformGoal u (unitReport u (.holdReleased h) (s.putArm u { a with holds := a.holds.filter (· != h) }))
  else s

/-- The role of an arm's curb sensor (R74). -/
def curbRole : BrushUnit → Role
  | .r => .curbR
  | _ => .curbL

/-- The unit's release timer takes a value. -/
def setReleaseTimer (u : BrushUnit) (t : Timer) (s : State) : State := s.putArm u { s.armOf u with releaseTimer := t }

/-- A curb value is read (R74): SENSED is taken below obstacle_mm; while it is held, a usable reading starts or stops
the release timer and an unusable channel stops it. -/
def curbRead (u : BrushUnit) (s : State) : State :=
  let v := s.sensor (curbRole u)
  if !(s.armOf u).holds.contains .sensed then
    if v < s.setup.obstacle then takeHold u .sensed s else s
  else if !s.usable (curbRole u) then setReleaseTimer u none s
  else if v < s.setup.obstacle + s.setup.releaseMm then setReleaseTimer u none s
  else if (s.armOf u).releaseTimer.isNone then setReleaseTimer u (s.startMs s.setup.releaseMs) s
  else s

/-! ## Faults (R71, R84, R88) -/

/-- A spin action of the unit ends: its time limit is stopped. -/
def endSpinAction (u : BrushUnit) (s : State) : State := s.putArm u { s.armOf u with spinDownTimer := none }

/-- The unit owns the action in progress. -/
def ownsAction (s : State) (u : BrushUnit) : Bool :=
  match s.arms.action with
  | none => false
  | some c => c.unit == u

/-- The unit has an entry in the manifold queue. -/
def hasEntry (s : State) (u : BrushUnit) : Bool := s.arms.queue.any fun e => e.unit == u

/-- Entry to FAULT (R88): the unit's actions end, spin is OFF, the activity is FAULT with its UNIT report, and the start
test is made when the unit's entry or action has gone. A unit already in FAULT stays in it without a report. -/
def enterFault (u : BrushUnit) (s : State) : State :=
  let was := (s.armOf u).activity
  let gone := ownsAction s u || hasEntry s u
  let s := if ownsAction s u then endAction s else s
  let s := setSpin u .off (endSpinAction u (dropEntry u s))
  let s := setActivity u .fault s
  let s := postArmsDemand (if was = .fault then s else unitReport u .fault s)
  if gone then runStartTest s else s

/-- The steps of a switch fault (R71): SWITCH_u present, and FAULT. The component has been set to UNKNOWN before. -/
def switchFault (u : BrushUnit) (s : State) : State := enterFault u (notice (.switch u) true s)

/-- Neither pair of a unit has both switches active. -/
def pairsClear (w : Switches) : Bool := !w.bothReach && !w.bothHeight

/-- Reach and height are read from the switches (R88, R91): reach is read, and its change notified, before height is: the
model's choice (assumption log 44). -/
def readSwitches (u : BrushUnit) (s : State) : State :=
  let w := s.pins.switches.get u
  setHeight u w.height (setReach u (w.reach u) s)

/-- A unit's ARM_TIMEOUT or SWITCH record was cleared (R88, R160): once both are CLEAR the unit in FAULT reads its
switches; both switches of a pair active keep it in FAULT, otherwise it plans again, or is IDLE where the planner does
not run. -/
def faultCleared (u : BrushUnit) (s : State) : State :=
  if (s.armOf u).activity = .fault ∧ s.cond.armTimeout.get u = .clear ∧ s.cond.switch.get u = .clear then
    let s := readSwitches u s
    if !pairsClear (s.pins.switches.get u) then switchFault u s
    else if s.mc.mode.plans then runPlanner u s
    else setActivity u .idle s
  else s

/-! ## Following the switches (R70, R71, R75) -/

/-- A component becomes UNKNOWN. -/
def loseComponent (u : BrushUnit) (k : CylKind) (s : State) : State :=
  if k.movesHeight then setHeight u .unknown s else setReach u .unknown s

/-- The recorded component has the value a kind sets. -/
def holdsValue (a : ArmUnit) (k : CylKind) : Bool :=
  match k with
  | .swingOut => a.reach == .out
  | .swingIn => a.reach == .isIn
  | .lift => a.height == .up
  | .lower => a.height == .down

/-- The action in progress moves the component that a kind sets, for a unit. -/
def actionMoves (s : State) (u : BrushUnit) (k : CylKind) : Bool :=
  match s.arms.action with
  | none => false
  | some c => c.unit == u && c.kind.movesHeight == k.movesHeight

/-- The action in progress is a unit's action of a kind. -/
def actionIs (s : State) (u : BrushUnit) (k : CylKind) : Bool :=
  match s.arms.action with
  | none => false
  | some c => c.unit == u && c.kind == k

/-- A posture change by the switches runs the planner; a spin action whose spin went OFF has ended (R70, R79). -/
def switchReplan (u : BrushUnit) (s : State) : State :=
  let a := s.armOf u
  if (a.activity = .spinningUp ∨ a.activity = .spinningDown) ∧ a.spin = .off then
    runPlanner u (endSpinAction u s)
  else replan u s

/-- A switch became active (R70, R71, R83): a switch fault when the other switch of the pair is active too; the end of
the action it completes; or the value of a component that no action moves. -/
def switchOn (u : BrushUnit) (k : CylKind) (s : State) : State :=
  if switchLevel s u k.other then switchFault u (loseComponent u k s)
  else if actionIs s u k then runStartTest (completeAction u k s)
  else if actionMoves s u k then s
  else if holdsValue (s.armOf u) k then s
  else switchReplan u (setComponent u k s)

/-- A switch became inactive (R70, R71, R75): a faulted pair that comes apart may end the switch condition; the switch of
the recorded value makes the component UNKNOWN, and KNOCK is taken when that is the OUT switch. -/
def switchOff (u : BrushUnit) (k : CylKind) (s : State) : State :=
  let s := if switchLevel s u k.other ∧ pairsClear (s.pins.switches.get u) then notice (.switch u) false s else s
  if actionMoves s u k then s
  else if holdsValue (s.armOf u) k then
    let s := loseComponent u k s
    let s := if k = .swingOut then takeHold u .knock s else s
    switchReplan u s
  else s

/-- An end switch pin takes a level. Only a change is an event, and in STANDBY changes are not followed. -/
def endSwitchChanged (sw : EndSwitch) (active : Bool) (s : State) : State :=
  let u := switchUnit sw
  let k := switchKind sw
  if switchLevel s u k = active then s
  else
    let s := { s with pins := { s.pins with
        switches := s.pins.switches.set u ((s.pins.switches.get u).put k active) } }
    if s.mc.mode = .standby then s
    else if active then switchOn u k s else switchOff u k s

/-! ## Timers (R74, R82, R84, R87) -/

/-- The action's timeout expires (R84). -/
def cylinderTimedOut (c : CylAction) (s : State) : State :=
  let s := loseComponent c.unit c.kind (endAction s)
  let s := notice (.armTimeout c.unit) false (notice (.armTimeout c.unit) true s)
  runStartTest (enterFault c.unit s)

/-- A SPIN_DOWN completes (R87): spin OFF, and the planner runs. -/
def spinDownDone (u : BrushUnit) (s : State) : State := runPlanner u (setSpin u .off (endSpinAction u s))

/-- The spin-down timer expires: it completes a SPIN_DOWN in progress. -/
def spinDownExpired (u : BrushUnit) (s : State) : State :=
  if (s.armOf u).activity = .spinningDown then spinDownDone u s else endSpinAction u s

/-- A brush sample reaches one unit of the Arm Sequencer (R86, R87). -/
def armBrushSample (u : BrushUnit) (s : State) : State :=
  let rpm := s.pcu.brushRpm.get u
  match (s.armOf u).activity with
  | .spinningUp => if s.setup.stopRpm u ≤ rpm then runPlanner u (setSpin u .on s) else s
  | .spinningDown => if (s.brushOf u).c = 0 ∧ rpm = 0 then spinDownDone u s else s
  | _ => s

/-- The release timer expires: SENSED is released (R74). -/
def releaseExpired (u : BrushUnit) (s : State) : State := releaseHold u .sensed (setReleaseTimer u none s)

/-! ## Modes, recipe and RESTART (R91, R92) -/

/-- A mode announcement between the modes that plan: each base goal is formed again (R72, R91). -/
def armsAnnounced (s : State) : State := forUnits reformGoal s

/-- Entry to PARK from SETTLE: the base goals, and the planner for each unit in order L, R, M. -/
def armsEnterPark (s : State) : State := forUnits replan (armsAnnounced s)

/-- The spin-down, release and spacing timers stop (Table 5-9). -/
def stopArmTimers (s : State) : State :=
  let stop (a : ArmUnit) : ArmUnit := { a with spinDownTimer := none, releaseTimer := none }
  { s with arms := { s.arms with spacingTimer := none, units := s.arms.units.map stop } }

/-- What STANDBY and RESTART have in common: the action is abandoned with its end recorded, the queue is emptied, the
timers stop, and the ARMS demand is 0. -/
def armsAbandon (s : State) : State :=
  let s := stopArmTimers (endAction s)
  postArmsDemand { s with arms := { s.arms with queue := [] } }

/-- Entry to STANDBY (R91). -/
def armsStandby (s : State) : State :=
  let s := armsAbandon s
  let idle (a : ArmUnit) : ArmUnit := if a.activity = .fault then a else { a with activity := .idle }
  armsAnnounced { s with arms := { s.arms with units := s.arms.units.map idle } }

/-- One unit at waking (R91): reach and height from the switches, spin OFF, a switch fault for a pair with both active;
a switch condition whose pairs have come apart is no longer present (assumption log 12); then FAULT by its conditions,
or IDLE. -/
def armWakeUnit (u : BrushUnit) (s : State) : State :=
  let s := readSwitches u (setSpin u .off s)
  if !pairsClear (s.pins.switches.get u) then switchFault u s
  else
    let s := notice (.switch u) false s
    setActivity u (if s.cond.armTimeout.get u = .clear ∧ s.cond.switch.get u = .clear then .idle else .fault) s

/-- Waking (R91, Table 5-9): the timers are stopped, the units are read in the order L, R, M (the model's choice,
assumption log 9), the base goals are formed again. -/
def armsWake (s : State) : State := armsAnnounced (forUnits armWakeUnit (stopArmTimers s))

/-- One unit at an accepted RESTART (R92): hold set empty, spin OFF, IDLE, then the switches as at waking. -/
def armRestartUnit (u : BrushUnit) (s : State) : State :=
  let s := setSpin u .off (s.putArm u { s.armOf u with holds := [], activity := .idle })
  let s := readSwitches u s
  if !pairsClear (s.pins.switches.get u) then switchFault u s else s

/-- An accepted RESTART (R92). The units are read in the order L, R, M: the model's choice (assumption log 9). -/
def armsRestart (s : State) : State := armsAnnounced (forUnits armRestartUnit (armsAbandon s))

/-- A recipe change announcement: the units mask is copied and the base goals are formed again (R72). -/
def armsRecipe (f : RecipeFields) (s : State) : State :=
  armsAnnounced { s with arms := { s.arms with unitsMask := fieldUnitsMask f } }

/-! ## The UNIT request (R77) -/

/-- A UNIT operation performed. A RELEASE_SENSED forms the goal and runs the planner before the curb value is read and may
take the hold again: the model's choice (assumption log 42). -/
def unitOperation (u : BrushUnit) (op : Nat) (s : State) : State :=
  match op with
  | 0 => takeHold u .lift s
  | 1 => releaseHold u .lift s
  | 2 =>
    if (s.armOf u).holds.contains .sensed then
      let s := releaseHold u .sensed (setReleaseTimer u none s)
      if s.sensor (curbRole u) < s.setup.obstacle then takeHold u .sensed s else s
    else s
  | _ => releaseHold u .knock s

/-- UNIT judged: BAD_UNIT for an unknown unit or operation and for RELEASE_SENSED or RELEASE_KNOCK of M. -/
def takeUnit (unit op : Nat) (s : State) : State × List Byte :=
  match unitOf? unit with
  | none => answer .badUnit s
  | some u =>
    if 3 < op ∨ (u = .m ∧ 2 ≤ op) then answer .badUnit s
    else answer .ok (unitOperation u op s)

/-- The UNIT request of a body (Table 11-4). -/
def judgeUnit (body : List Byte) (s : State) : State × List Byte :=
  match body with
  | [unit, op] => guarded true (takeUnit unit.toNat op.toNat) s
  | _ => guarded false (answer .ok) s

/-! ## Commands -/

/-- END_SWITCH_CHANGE (R70). -/
def execEndSwitchChange (sw : EndSwitch) (active : Bool) (s : State) : Host.Outcome State Fault Refusal :=
  finish (endSwitchChanged sw active s)

/-- SPACING_TIMER_EXPIRY (R82). -/
def execSpacingTimerExpiry (s : State) : Host.Outcome State Fault Refusal :=
  finish (onExpiry s.arms.spacingTimer
    (fun s => runStartTest { s with arms := { s.arms with spacingTimer := none } }) s)

/-- CYLINDER_TIMEOUT_EXPIRY (R84). -/
def execCylinderTimeoutExpiry (s : State) : Host.Outcome State Fault Refusal :=
  finish (match s.arms.action with
    | none => s
    | some c => cylinderTimedOut c (s.atTime c.due))

/-- SPIN_DOWN_TIMER_EXPIRY (R87). -/
def execSpinDownTimerExpiry (u : BrushUnit) (s : State) : Host.Outcome State Fault Refusal :=
  finish (onExpiry (s.armOf u).spinDownTimer (spinDownExpired u) s)

/-- RELEASE_TIMER_EXPIRY (R74). -/
def execReleaseTimerExpiry (u : BrushUnit) (s : State) : Host.Outcome State Fault Refusal :=
  finish (onExpiry (s.armOf u).releaseTimer (releaseExpired u) s)

/-- The stall timer expires (R64): the stalled flag, BRUSH_STALL_u present, and its reaction, the STALL hold (R76,
R160), when the record has become PRESENT. The CONDITION report stands before the UNIT report of the hold: the model's choice
(assumption log 49). -/
def stallTimerExpired (u : BrushUnit) (s : State) : State :=
  let before := s.cond.brushStall.get u
  let s := setStalled u true (s.putBrush u { s.brushOf u with stallTimer := none })
  if before = .present then s else takeHold u .stall s

/-- STALL_TIMER_EXPIRY (R64). -/
def execStallTimerExpiry (u : BrushUnit) (s : State) : Host.Outcome State Fault Refusal :=
  finish (onExpiry (s.brushOf u).stallTimer (stallTimerExpired u) s)

end Sys2Proof.Machine
end

