-- ==== Sys2Proof/Machine/Monitor.lean ====
section
/-! DEFINITION. Mode changes with their whole announcement (Chapter 1), the limits the Condition Monitor tests itself and
the reactions that leave the table (Chapter 10), the commands PARK_STOP_TIMER_EXPIRY and
SETTLE_TIMER_EXPIRY, and how CLEAR is judged. -/

namespace Sys2Proof.Machine

/-! ## Mode changes (R2) -/

/-- Entry to TRANSPORT, WORK, STOWING or PARKING: Mode Control and its report, then the announcement to the Drive
Regulator, the Spray Controller and the Arm Sequencer, in this order: the model's choice (assumption log 9). The other
blocks change nothing. -/
def enterTravel (m : Mode) (s : State) : State := armsAnnounced (enterTravelBlocks m s)

/-- Entry to PARK, from SETTLE (R5) or from PARKING (R9): the announcement reaches the Drive Regulator, the Spray Controller
and the Arm Sequencer, in this order (assumption log 9). -/
def enterPark (fromSettle : Bool) (s : State) : State :=
  let s := formWanted (driveEnterPark fromSettle (modeReport (takeMode .park s)))
  if fromSettle then armsEnterPark s else armsAnnounced s

/-! ## STOP (R11, R159) -/

/-- A STOP-class kind that has become PRESENT forces PARKING in TRANSPORT, WORK and STOWING. It acts behind the kind's CONDITION
report: the model's choice (assumption log 49). -/
def forcedParking (s : State) : State :=
  match s.mc.mode with
  | .transport => enterTravel .parking s
  | .work => enterTravel .parking s
  | .stowing => enterTravel .parking s
  | _ => s

/-! ## The Monitor's own tests (R157, R158) -/

/-- OIL_HIGH (R157). -/
def oilHighTest (t : Int) (s : State) : State :=
  if s.cond.oilHigh = .clear ∧ s.setup.oilHigh ≤ t then notice .oilHigh true s
  else if s.cond.oilHigh = .present ∧ t < s.setup.oilHigh - s.setup.oilHyst then notice .oilHigh false s
  else s

/-- OIL_OVER (R157), with its reaction in Mode Control, whose MODE report stands behind the CONDITION report: the model's choice
(assumption log 49). -/
def oilOverTest (t : Int) (s : State) : State :=
  if s.cond.oilOver ≠ .present ∧ s.setup.oilOver ≤ t then forcedParking (notice .oilOver true s)
  else if s.cond.oilOver = .present ∧ t < s.setup.oilOver - s.setup.oilHyst then notice .oilOver false s
  else s

/-- The oil temperature test: OIL_HIGH is changed and reported before OIL_OVER. -/
def oilTest (s : State) : State :=
  let t := s.sensor .oilT
  oilOverTest t (oilHighTest t s)

/-- LOOP_OVER (R158). -/
def loopTest (s : State) : State :=
  let a := s.sensor .drivePA
  let b := s.sensor .drivePB
  let clearAt := s.setup.loopOver - s.setup.loopHyst
  if s.cond.loopOver = .clear ∧ (s.setup.loopOver ≤ a ∨ s.setup.loopOver ≤ b) then notice .loopOver true s
  else if s.cond.loopOver = .present ∧ a < clearAt ∧ b < clearAt then notice .loopOver false s
  else s

/-! ## Clearing (R160, R161) -/

/-- What the clearing of a latched record sets off (R160), behind its CONDITION report: the model's choice (assumption log
49). -/
def clearedReaction (k : CondKind) (s : State) : State :=
  match k with
  | .brushStall u => releaseHold u .stall s
  | .armTimeout u => faultCleared u s
  | .switch u => faultCleared u s
  | _ => s

/-- CLEAR judged (Table 10-3). The reply carries the kind's state after the request (R161): a switch condition that the
end of the FAULT finds again is PRESENT by then (R88). The CONDITION report of the clearing stands before the UNIT and other
reports of its reaction: the model's choice (assumption log 49). -/
def takeClear (n : Nat) (s : State) : State × List Byte :=
  match kindOf? n with
  | none => answer .badSlot s
  | some k =>
    if k.latching ∧ s.cond.get k = .latched then
      let t := clearedReaction k (changeRecord k .clear s)
      (t, [Result.ok.code, (t.cond.get k).code])
    else if k.latching ∧ s.cond.get k = .present then
      (s, [Result.stillPresent.code, CondState.present.code])
    else (s, [Result.ok.code, (s.cond.get k).code])

/-! ## Commands -/

/-- PARK_STOP_TIMER_EXPIRY (R9). -/
def execParkStopTimerExpiry (s : State) : Host.Outcome State Fault Refusal :=
  finish (onExpiry s.mc.parkStopTimer (enterPark false) s)

/-- SETTLE_TIMER_EXPIRY (R5). -/
def execSettleTimerExpiry (s : State) : Host.Outcome State Fault Refusal :=
  finish (onExpiry s.mc.settleTimer (enterPark true) s)

end Sys2Proof.Machine
end

