-- ==== Sys2Proof/Machine/SensorLink.lean ====
section
/-! DEFINITION. The Sensor Link Master (Chapter 9): rounds, transactions, outcomes, channels, filters, what the readers
are told, the commands ROUND_PERIOD_TIMER_EXPIRY, MASTER_FRAME_SENT, SENSOR_REPLY_COMPLETE, REPLY_WINDOW_CLOSE and
TURNAROUND_EXPIRY, and how SENSOR_READ is judged. -/

namespace Sys2Proof.Machine

/-! ## Readers (R151, Table 9-2) -/

/-- The readers of a role act on its value for use: at a publication, at a change of usability, at a new substitute. The
Drive Regulator reads the loop pressures at its own periods. -/
def tellReaders (r : Role) (s : State) : State :=
  match r with
  | .drivePA => loopTest s
  | .drivePB => loopTest s
  | .auxP => forUnits refreshBrushDemand s
  | .oilT => oilTest s
  | .tank => tankTest s
  | .dust => evaluateFlow s
  | .curbL => curbRead .l s
  | .curbR => curbRead .r s

/-! ## Channels and outcomes (R147 to R150) -/

/-- The outcome of a poll: a good value, a failure, a mismatch, or none. -/
inductive PollOutcome where
  | good (v : Int) | failure (c : Cause) | mismatch | none
deriving DecidableEq, Repr

/-- One channel record replaced. -/
def State.putChannel (s : State) (r : Role) (c : Channel) : State :=
  { s with sensors := { s.sensors with channels := s.sensors.channels.set r c } }

/-- The filtered value of a filter state: F / 16 rounded to the nearest integer, a half rounding up (R150). -/
def filteredOf (f : Int) : Int := Int.fdiv (f + 8) 16

/-- The filter takes a state. -/
def Channel.withFilter (c : Channel) (f : Int) : Channel := { c with f := f, filtered := filteredOf f }

/-- A seed sets F to 16 × raw. -/
def Channel.seed (c : Channel) : Channel := c.withFilter (16 * c.raw)

/-- A filter step adds (16 × raw − F) / 2^k, rounded down. -/
def Channel.filterStep (k : Nat) (c : Channel) : Channel := c.withFilter (c.f + Int.fdiv (16 * c.raw - c.f) (2 ^ k))

/-- The failure count rises by 1 and saturates at 255. -/
def Channel.countFailure (c : Channel) : Channel := { c with failures := Nat.min 255 (c.failures + 1) }

/-- Entry to LOST. -/
def Channel.lose (cause : Cause) (c : Channel) : Channel :=
  { c with state := .lost, identified := false, goodRun := 0, cause := some cause }

/-- Return to OK. -/
def Channel.recover (c : Channel) : Channel := { c with state := .ok, goodRun := 0, cause := none }

/-- The channel after a good outcome (Table 9-5). -/
def Channel.onGood (k : Nat) (v : Int) (c : Channel) : Channel :=
  let c := { c with raw := v, failures := 0 }
  match c.state with
  | .unknown => c.seed.recover
  | .ok => c.filterStep k
  | .suspect => (c.filterStep k).recover
  | .lost => if c.goodRun = 0 then { c.seed with goodRun := 1 } else (c.filterStep k).recover
  | .unassigned => c

/-- The channel after a failure (Table 9-5). -/
def Channel.onFailure (cause : Cause) (c : Channel) : Channel :=
  let c := c.countFailure
  match c.state with
  | .unknown => if 3 ≤ c.failures then c.lose cause else c
  | .ok => { c with state := .suspect }
  | .suspect => if 3 ≤ c.failures then c.lose cause else c
  | .lost => c.lose cause
  | .unassigned => c

/-- The channel after a mismatch (Table 9-5): it enters LOST, or stays there, with cause MISMATCH. -/
def Channel.onMismatch (c : Channel) : Channel :=
  match c.state with
  | .unassigned => c
  | _ => c.countFailure.lose .mismatch

/-- The channel after an outcome. A role without an address has none. -/
def Channel.apply (k : Nat) (o : PollOutcome) (c : Channel) : Channel :=
  if c.state = .unassigned then c
  else
    match o with
    | .good v => c.onGood k v
    | .failure cause => c.onFailure cause
    | .mismatch => c.onMismatch
    | .none => c

/-- The SENSOR_LOST notices of a change of state (R149). -/
def lostNotice (r : Role) (before after : ChannelState) (s : State) : State :=
  if before ≠ .lost ∧ after = .lost then notice (.sensorLost r) true s
  else if before = .lost ∧ after ≠ .lost then notice (.sensorLost r) false s
  else s

/-- A poll's outcome acts on its channel; then the notices, and what the readers are told: a usability change, or the
publication of a good outcome that found the channel OK or SUSPECT (R149, R151). That an outcome which enters or leaves
LOST gives its SENSOR_LOST notice before the readers are told is the model's choice (assumption log 37). -/
def applyOutcome (r : Role) (o : PollOutcome) (s : State) : State :=
  let before := s.sensors.channels.get r
  let after := before.apply (s.setup.filterK r) o
  let s := lostNotice r before.state after.state (s.putChannel r after)
  let published := match o with
    | .good _ => before.state.usable
    | _ => false
  if before.state.usable != after.state.usable || published then tellReaders r s else s

/-! ## Frames of the line (R143, R144, Table 9-9) -/

/-- The command byte of a master frame. -/
def NodeCommand.code : NodeCommand → Byte
  | .identify => 0x10
  | .state => 0x20
  | .read => 0x30

/-- The master frame: address, command, argument 00h, CRC-8. -/
def masterFrame (address : Byte) (c : NodeCommand) : List Byte :=
  [address, c.code, 0, crc8 [address, c.code, 0]]

/-- The node kind byte of a role (Tables 9-1, 9-2). -/
def roleKind : Role → Byte
  | .drivePA => 1
  | .drivePB => 1
  | .auxP => 1
  | .oilT => 2
  | .tank => 3
  | .dust => 4
  | .curbL => 5
  | .curbR => 5

/-! ## Rounds (R146) -/

/-- The line takes a phase. -/
def State.putLine (s : State) (l : Line) : State := { s with sensors := { s.sensors with line := l } }

/-- A transaction begins under the settings of its round (R152): the master frame of four bytes takes 160 µs (R143). -/
def beginTransaction (r : Role) (c : NodeCommand) (q : PollSettings) (s : State) : State :=
  let address := byte (s.setup.address r).toNat
  s.putLine (.sending ⟨r, c, address, q.holdWarming, false, false⟩ (masterFrame address c) (s.after 160))

/-- The first command of a role's poll (R147). -/
def pollCommand (c : Channel) (q : PollSettings) : NodeCommand :=
  if (c.state = .unknown ∨ c.state = .lost) ∧ !c.identified then .identify
  else if q.queryFirst then .state else .read

/-- The round takes a value. -/
def State.putRound (s : State) (r : Option Round) : State := { s with sensors := { s.sensors with round := r } }

/-- The round counter advances by 1, from 65535 to 0. -/
def advanceCounter (s : State) : State :=
  { s with sensors := { s.sensors with counter := (s.sensors.counter + 1) % 65536, round := none } }

/-- The role is due in a round that starts now (R146). -/
def roleDue (s : State) (r : Role) : Bool :=
  s.sensors.counter % s.setup.divisor r == 0 && (s.sensors.channels.get r).state != .unassigned

/-- The settings a round takes over at its start (R152). -/
def roundSettings (s : State) : PerRole PollSettings :=
  let of (r : Role) : PollSettings := ⟨s.setup.queryFirst r, s.setup.holdWarming r⟩
  ⟨of .drivePA, of .drivePB, of .auxP, of .oilT, of .tank, of .dust, of .curbL, of .curbR⟩

/-- The next transaction of the round begins on an idle line: the READ that follows a STATE, or the first command of the
next due role. With none left the round ends. -/
def nextTransaction (x : Round) (s : State) : State :=
  match x.follow with
  | some r => beginTransaction r .read (x.settings.get r) (s.putRound (some { x with follow := none }))
  | none =>
    match x.due with
    | [] => advanceCounter s
    | r :: rest =>
      beginTransaction r (pollCommand (s.sensors.channels.get r) (x.settings.get r)) (x.settings.get r)
        (s.putRound (some { x with due := rest }))

/-- A round starts (R146): the timer runs, the due roles are found, and the first transaction begins as soon as the line
is idle. -/
def startRound (s : State) : State :=
  let x : Round := ⟨allRoles.filter (roleDue s), none, roundSettings s, false⟩
  let s := { s with sensors := { s.sensors with roundTimer := s.startMs s.setup.roundPeriod, round := some x } }
  match s.sensors.line with
  | .idle => nextTransaction x s
  | _ => if x.due.isEmpty then advanceCounter s else s

/-- The line turnaround begins. -/
def beginTurnaround (s : State) : State := s.putLine (.turnaround (s.after 50))

/-- The turnaround ends (R143, R146): the next transaction of the round begins, or the round ends; when its period has
expired the next round starts at once. -/
def turnaroundOver (s : State) : State :=
  let s := s.putLine .idle
  match s.sensors.round with
  | none => s
  | some x =>
    let s := nextTransaction x s
    if s.sensors.round.isNone ∧ s.sensors.roundTimer.isNone then startRound s else s

/-- The round period expires: the next round starts if the previous one has ended (R146). -/
def roundPeriodOver (s : State) : State :=
  let s := { s with sensors := { s.sensors with roundTimer := none } }
  if s.sensors.round.isNone then startRound s else s

/-! ## Replies (R143, R144, R147, R148) -/

/-- What an answered transaction means. -/
inductive Answered where
  | outcome (o : PollOutcome) | identified | follow
deriving DecidableEq, Repr

/-- The value of a READ saturated to its role's range. -/
def saturate (r : Role) (v : Int) : Int := clamp (roleRange r).1 (roleRange r).2 v

/-- The failure of a completion code that gives no other meaning. -/
def badCode (code : Byte) : Answered :=
  .outcome (.failure (if code = 0x08 then .nodeFault else .badCode))

/-- The meaning of an answered reply (Tables 9-1 and 9-4, R147). -/
def interpret (r : Role) (c : NodeCommand) (holdWarming : Bool) (code high low : Byte) : Answered :=
  match c with
  | .identify =>
    if code = 0x00 ∨ code = 0x01 then
      if high = roleKind r then .identified else .outcome .mismatch
    else badCode code
  | .state =>
    if code = 0x00 then .follow
    else if code = 0x01 then (if holdWarming then .outcome .none else .follow)
    else badCode code
  | .read =>
    if code = 0x00 then .outcome (.good (saturate r (i16 high low)))
    else if code = 0x01 then (if holdWarming then .outcome .none else .outcome (.good (saturate r (i16 high low))))
    else if code = 0x02 then .outcome (.good (roleRange r).2)
    else if code = 0x03 then .outcome (.good (roleRange r).1)
    else badCode code

/-- A reply of five bytes that passes the checks of R143. -/
def replyChecked (tx : Transaction) (address code high low check : Byte) : Bool :=
  check == crc8 [address, code, high, low] && address == tx.address

/-- The channel's node has confirmed its kind. -/
def markIdentified (r : Role) (s : State) : State :=
  s.putChannel r { s.sensors.channels.get r with identified := true }

/-- The READ of a poll follows its STATE, in the round they belong to, unless that round ends with this transaction. -/
def followWithRead (tx : Transaction) (s : State) : State :=
  match s.sensors.round with
  | some x => if tx.orphan || x.closing then s else s.putRound (some { x with follow := some tx.role })
  | none => s

/-- The meaning of an answered reply acts (R147). -/
def actOnReply (tx : Transaction) (a : Answered) (s : State) : State :=
  match a with
  | .outcome o => applyOutcome tx.role o s
  | .identified => markIdentified tx.role s
  | .follow => followWithRead tx s

/-- A round under which STANDBY was announced ends, with the counter advanced (R146). -/
def closeRound (s : State) : State :=
  match s.sensors.round with
  | some x => if x.closing then advanceCounter s else s
  | none => s

/-- The transaction ends: the turnaround begins, its result acts unless it is to be discarded, and a closing round ends
there. -/
def endTransaction (tx : Transaction) (a : Answered) (s : State) : State :=
  closeRound (if tx.discard then beginTurnaround s else actOnReply tx a (beginTurnaround s))

/-- The fifth byte of a reply is received (R143). Outside a window the bytes are ignored. -/
def replyReceived (address code high low check : Byte) (s : State) : State :=
  match s.sensors.line with
  | .window tx _ =>
    endTransaction tx
      (if replyChecked tx address code high low check then interpret tx.role tx.command tx.holdWarming code high low
       else .outcome (.failure .check)) s
  | _ => s

/-- The window closes with fewer than five bytes (R143). -/
def windowClosed (s : State) : State :=
  match s.sensors.line with
  | .window tx due => endTransaction tx (.outcome (.failure .timeout)) (s.atTime due)
  | _ => s

/-- The master frame has been sent: the reply window of 1 ms opens (R143). -/
def frameSent (s : State) : State :=
  match s.sensors.line with
  | .sending tx _ due =>
    let s := s.atTime due
    s.putLine (.window tx (s.after 1000))
  | _ => s

/-! ## Modes, RESTART, address changes (R146, R152, R154) -/

/-- The transaction in progress, marked. -/
def Line.mark (f : Transaction → Transaction) : Line → Line
  | .sending tx fr due => .sending (f tx) fr due
  | .window tx due => .window (f tx) due
  | l => l

/-- A transaction is in progress: its frame is being sent, or its reply window is open. -/
def Line.busy : Line → Bool
  | .sending _ _ _ => true
  | .window _ _ => true
  | _ => false

/-- Entry to STANDBY (R146): the round period timer stops, and the round ends with the counter advanced: at the end of the
transaction in progress, whose outcome is applied, or now when there is none. -/
def sensorsStandby (s : State) : State :=
  let s := { s with sensors := { s.sensors with roundTimer := none } }
  match s.sensors.round with
  | none => s
  | some x =>
    if s.sensors.line.busy then s.putRound (some { x with due := [], follow := none, closing := true })
    else advanceCounter s

/-- Waking (R146): a round starts at once. That a round which still waits for its transaction's end ends now, before the
new round takes the counter, is the model's choice (assumption log 14). -/
def sensorsWake (s : State) : State :=
  startRound (match s.sensors.round with
    | none => s
    | some _ => advanceCounter (s.putLine (s.sensors.line.mark fun tx => { tx with orphan := true })))

/-- A channel returned to its start state for an address (R152, R154). -/
def startState (address : Int) : ChannelState := if address = 0 then .unassigned else .unknown

/-- One channel at a RESTART: everything 0; a usable channel gives its usability change. -/
def restartChannel (r : Role) (s : State) : State :=
  let was := s.usable r
  let s := s.putChannel r (Channel.fresh (startState (s.setup.address r)))
  if was then tellReaders r s else s

/-- An accepted RESTART (R154): the outcome of a transaction in progress is discarded, every channel starts afresh, the
counter is 0 and a round starts at once. The channels are taken in role order, each role's readers told before the next
channel starts afresh: the model's choice (assumption log 39). -/
def sensorsRestart (s : State) : State :=
  let s := s.putLine (s.sensors.line.mark fun tx => { tx with orphan := true, discard := true })
  let s := { s with sensors := { s.sensors with round := none, roundTimer := none, counter := 0 } }
  startRound (allRoles.foldl (fun s r => restartChannel r s) s)

/-- An address that changed (R152): the channel starts afresh but keeps raw, F and the filtered value; the role sends
nothing further in this round and the outcome of its transaction in progress is discarded; a usable channel gives its
usability change, a LOST one its notice. -/
def addressChanged (r : Role) (s : State) : State :=
  let c := s.sensors.channels.get r
  let s := s.putLine (s.sensors.line.mark fun tx => if tx.role = r then { tx with discard := true } else tx)
  let s := match s.sensors.round with
    | none => s
    | some x => s.putRound (some { x with
        due := x.due.filter (· != r), follow := if x.follow = some r then none else x.follow })
  let s := s.putChannel r { c with
    state := startState (s.setup.address r), identified := false, failures := 0, goodRun := 0, cause := none }
  let s := if c.state = .lost then notice (.sensorLost r) false s else s
  if c.state.usable then tellReaders r s else s

/-- A substitute that changed: it is published to the readers when the channel is not usable (R151). -/
def substituteChanged (r : Role) (s : State) : State := if s.usable r then s else tellReaders r s

/-- The dust_base of an announced recipe (R151). -/
def sensorsRecipe (f : RecipeFields) (s : State) : State :=
  let changed := fieldDustBase f != s.sensors.dustBase
  let s := { s with sensors := { s.sensors with dustBase := fieldDustBase f } }
  if changed then substituteChanged .dust s else s

/-! ## SENSOR_READ (R153) -/

def ChannelState.code : ChannelState → Byte
  | .unassigned => 0
  | .unknown => 1
  | .ok => 2
  | .suspect => 3
  | .lost => 4

def causeCode : Option Cause → Byte
  | none => 0
  | some .timeout => 1
  | some .check => 2
  | some .badCode => 3
  | some .nodeFault => 4
  | some .mismatch => 5

/-- SENSOR_READ judged. -/
def takeSensorRead (n : Byte) (s : State) : State × List Byte :=
  match roleOf? n.toNat with
  | none => answer .badSlot s
  | some r =>
    let c := s.sensors.channels.get r
    (s, [Result.ok.code, n, c.state.code] ++ bytes16 c.raw ++ bytes16 c.filtered ++
      [byte c.failures, causeCode c.cause])

/-! ## Commands -/

/-- ROUND_PERIOD_TIMER_EXPIRY (R146). -/
def execRoundPeriodTimerExpiry (s : State) : Host.Outcome State Fault Refusal :=
  finish (onExpiry s.sensors.roundTimer roundPeriodOver s)

/-- MASTER_FRAME_SENT (R143). -/
def execMasterFrameSent (s : State) : Host.Outcome State Fault Refusal := finish (frameSent s)

/-- SENSOR_REPLY_COMPLETE (R143). -/
def execSensorReplyComplete (address code high low check : Byte) (s : State) : Host.Outcome State Fault Refusal :=
  finish (replyReceived address code high low check s)

/-- REPLY_WINDOW_CLOSE (R143). -/
def execReplyWindowClose (s : State) : Host.Outcome State Fault Refusal := finish (windowClosed s)

/-- TURNAROUND_EXPIRY (R143). -/
def execTurnaroundExpiry (s : State) : Host.Outcome State Fault Refusal :=
  finish (match s.sensors.line with
    | .turnaround due => turnaroundOver (s.atTime due)
    | _ => s)

end Sys2Proof.Machine
end

