-- ==== Sys2Proof/Machine/LoadShare.lean ====
section
/-! DEFINITION. The Load Share Arbiter (Chapter 7): levels, supply, budget, allocation, publication, the commands
SUPPLY_HOLD_TIMER_EXPIRY and ARBITER_PERIOD_EXPIRY, and how SUPPLY is judged. -/

namespace Sys2Proof.Machine

/-! ## Consumers (R110, R111) -/

/-- The consumers in rank order (Table 7-2). -/
def allConsumers : List Consumer := [.arms, .drive, .broomM, .brushL, .brushR, .water]

/-- The demand a consumer last posted (R110). -/
def State.demandOf (s : State) : Consumer → Int
  | .arms => s.arms.demand
  | .drive => s.drive.demand
  | .broomM => s.brush.units.m.demand
  | .brushL => s.brush.units.l.demand
  | .brushR => s.brush.units.r.demand
  | .water => s.spray.demand

/-- One consumer's level replaced. -/
def setLevel (c : Consumer) (level : Nat) (p : PerConsumer ConsumerRec) : PerConsumer ConsumerRec :=
  p.set c { p.get c with level := level }

/-- The levels of a recipe (R111): ARMS keeps 3, and a DRIVE level of 0 keeps the level in force. -/
def recipeLevels (f : RecipeFields) (p : PerConsumer ConsumerRec) : PerConsumer ConsumerRec :=
  let p := if fieldLevelDrive f = 0 then p else setLevel .drive (fieldLevelDrive f) p
  setLevel .water (fieldLevelWater f) (setLevel .brushR (fieldLevelBrushR f)
    (setLevel .brushL (fieldLevelBrushL f) (setLevel .broomM (fieldLevelBroomM f) p)))

/-- A recipe change announcement at the arbiter (R111). -/
def arbiterRecipe (f : RecipeFields) (s : State) : State :=
  { s with arb := { s.arb with consumers := recipeLevels f s.arb.consumers } }

/-! ## The budget (R112, R116) -/

/-- The supply in use. -/
def supplyInUse (s : State) : Int := if s.arb.stale then s.setup.fallbackSupply else s.arb.supply

/-- The budget B. -/
def budgetNow (s : State) : Int :=
  if s.arb.stop then 0
  else most 0 (divZ (supplyInUse s * (if s.arb.derate then s.setup.derate else 100)) 100 - s.setup.reserve)

/-! ## The allocation (R117 to R121) -/

/-- The visiting order (R118): higher levels first, equal levels by rank. -/
def visitOrder (p : PerConsumer ConsumerRec) : List Consumer :=
  allConsumers.insertionSort fun a b => (p.get b).level ≤ (p.get a).level

/-- The ceiling (R119): the smaller of the demand read and the previous grant plus grant_rise. -/
def ceilingOf (demand previous rise : Int) : Int := least demand (previous + rise)

/-- The share of a grant (R121), rounded down. -/
def shareOf (grant demand : Int) : Int :=
  if demand = 0 ∨ grant = demand then 1000 else Int.fdiv (grant * 1000) demand

/-- The visits of an allocation (R119 to R121): each consumer takes the smaller of its ceiling and what is left. -/
def visit (rise : Int) (demand : Consumer → Int) :
    List Consumer → Int → PerConsumer ConsumerRec → PerConsumer ConsumerRec
  | [], _, p => p
  | c :: rest, left, p =>
    let grant := least (ceilingOf (demand c) (p.get c).grant rise) left
    visit rise demand rest (left - grant)
      (p.set c { p.get c with demandRead := demand c, grant := grant, share := shareOf grant (demand c) })

/-- The allocation, up to the publication. The ARMS demand has then been read as it stands (R82). -/
def allocate (s : State) : State :=
  let budget := budgetNow s
  { s with
    arms := { s.arms with demandRead := true }
    arb := { s.arb with
      budget := budget
      consumers := visit s.setup.grantRise s.demandOf (visitOrder s.arb.consumers) budget s.arb.consumers } }

/-- The publication of the shares (R121, Table 7-4), to the receivers in rank order. DRIVE applies its share at its next
period. -/
def publishShares (s : State) : State :=
  waterShare (updateOutput .r (updateOutput .l (updateOutput .m (runStartTest s))))

/-- The arbiter period expires: one allocation, and the timer is restarted (R117). -/
def arbiterPeriodOver (s : State) : State :=
  let s := publishShares (allocate s)
  { s with arb := { s.arb with periodTimer := s.startMs 10 } }

/-! ## The supply (R112, R113) -/

/-- The stale flag takes a value, with its notice. -/
def setSupplyStale (flag : Bool) (s : State) : State :=
  notice .supplyStale flag { s with arb := { s.arb with stale := flag } }

/-- SUPPLY taken with a value (R112). -/
def takeSupply (v : Int) (s : State) : State × List Byte :=
  let stored := least 2000 v
  let s := { s with arb := { s.arb with supply := stored, holdTimer := s.startMs s.setup.supplyHold } }
  let s := if s.arb.stale then setSupplyStale false s else s
  answer (if stored = v then .ok else .clamped) s

/-- The hold timer expires (R113). -/
def supplyHoldOver (s : State) : State :=
  let s := { s with arb := { s.arb with holdTimer := none } }
  if s.arb.stale then s else setSupplyStale true s

/-! ## Modes and RESTART (R123, R124) -/

/-- Budget and grants 0, shares 1000. -/
def clearShares (s : State) : State :=
  { s with arb := { s.arb with
      budget := 0, consumers := s.arb.consumers.map fun c => { c with grant := 0, share := 1000 } } }

/-- Entry to STANDBY: the timers stop, and the shares of 1000 are published. -/
def arbiterStandby (s : State) : State :=
  publishShares (clearShares { s with arb := { s.arb with periodTimer := none, holdTimer := none } })

/-- Waking: the period timer starts, and the supply is stale. -/
def arbiterWake (s : State) : State :=
  let s := { s with arb := { s.arb with periodTimer := s.startMs 10 } }
  if s.arb.stale then s else setSupplyStale true s

/-- An accepted RESTART, before the recipe change announcement: both flags no, the shares published, the stale notice. -/
def arbiterRestart (s : State) : State :=
  setSupplyStale true (publishShares (clearShares { s with arb := { s.arb with
      holdTimer := none, periodTimer := s.startMs 10, derate := false, stop := false } }))

/-! ## Commands -/

/-- SUPPLY_HOLD_TIMER_EXPIRY (R113). -/
def execSupplyHoldTimerExpiry (s : State) : Host.Outcome State Fault Refusal :=
  finish (onExpiry s.arb.holdTimer supplyHoldOver s)

/-- ARBITER_PERIOD_EXPIRY (R117). -/
def execArbiterPeriodExpiry (s : State) : Host.Outcome State Fault Refusal :=
  finish (onExpiry s.arb.periodTimer arbiterPeriodOver s)

end Sys2Proof.Machine
end

