-- ==== Sys2Proof/Machine/RecipeUnit.lean ====
section
/-! DEFINITION. The Recipe Unit (Chapter 8): recipe table, recipe stack, recipe changes, zone queue, and how
RECIPE_WRITE, RECIPE_READ, RECIPE_COPY, RECIPE_ERASE, REFRESH, PUSH, POP, ZONE_ADD, ZONE_CLEAR and ZONE_LIST are judged. -/

namespace Sys2Proof.Machine

/-! ## The recipe change (R136) -/

/-- The announcement of the active recipe to the six blocks. -/
def announceRecipe (s : State) : State :=
  let f := s.recipes.top.fields
  sensorsRecipe f (arbiterRecipe f (sprayRecipe f (armsRecipe f (brushRecipe f (driveRecipe f s)))))

/-- A recipe change with its RECIPE report. -/
def recipeChange (cause : RecipeCause) (s : State) : State :=
  announceRecipe (s.post (.recipe s.recipes.depth s.recipes.top.source cause))

/-! ## Pairs of a number and a value (Table 11-4) -/

/-- The pairs of a list body: a number in one byte and a signed value in two. None for a length that is no multiple
of 3. -/
def pairsOf : List Byte → Option (List (Byte × Int))
  | [] => some []
  | n :: hi :: lo :: rest => (pairsOf rest).map fun ps => (n, i16 hi lo) :: ps
  | _ => none

/-- The pairs of a SETUP_WRITE or RECIPE_WRITE: one to eighteen of them. -/
def listBody (bytes : List Byte) : Option (List (Byte × Int)) :=
  match pairsOf bytes with
  | some ps => if 1 ≤ ps.length ∧ ps.length ≤ 18 then some ps else none
  | none => none

/-! ## The recipe table (R127 to R131) -/

/-- One slot replaced. -/
def State.putSlot (s : State) (n : Fin 32) (x : Slot) : State :=
  { s with recipes := { s.recipes with slots := s.recipes.slots.set n.val x } }

/-- The slot a number names. -/
def slotOf? (n : Byte) : Option (Fin 32) := if h : n.toNat < 32 then some ⟨n.toNat, h⟩ else none

/-- One pair written into a slot: the field takes the limited value and its dirty mark is set. -/
def Slot.write (x : Slot) (n : Nat) (v : Int) : Slot :=
  { x with fields := x.fields.setIfInBounds n v, dirty := x.dirty.setIfInBounds n true }

/-- The pairs applied in list order; the numbers of the pairs whose value was clamped, in list order. -/
def writePairs : List (Byte × Int) → Slot → Slot × List Byte
  | [], x => (x, [])
  | (n, v) :: rest, x =>
    let stored := ((fieldLimits[n.toNat]?).map fun limit => limit.apply v).getD v
    let r := writePairs rest (x.write n.toNat stored)
    (r.1, if stored = v then r.2 else n :: r.2)

/-- The reply of a list write (R128, R172): OK, or CLAMPED with the numbers in list order. A number that two clamped pairs
name is carried once, where the first of them stands: the model's choice (assumption log 36). -/
def clampedReply (numbers : List Byte) : List Byte :=
  if numbers.isEmpty then [Result.ok.code] else Result.clamped.code :: numbers.eraseDups

/-- RECIPE_WRITE judged (R128). That a slot above 31 is answered before a field above 22, where a request has both, is the
model's choice (assumption log 48). -/
def takeRecipeWrite (slot : Byte) (pairs : List (Byte × Int)) (s : State) : State × List Byte :=
  match slotOf? slot with
  | none => answer .badSlot s
  | some n =>
    if pairs.any fun p => decide (22 < p.1.toNat) then answer .badTable s
    else
      let r := writePairs pairs s.recipes.slots[n]
      (s.putSlot n { r.1 with valid := true }, clampedReply r.2)

/-- The dirty-mark bytes: field n is bit n mod 8 of byte n / 8 (below Table 11-4). That bit 7 of the third byte, which has no
field, is 0 is the model's choice (assumption log 47). -/
def dirtyBytes (d : Vector Bool 23) : List Byte :=
  (List.range 3).map fun b =>
    byte (((List.range 8).filter fun i => d[8 * b + i]?.getD false).foldl (fun acc i => acc + 2 ^ i) 0)

/-- The fields as 16-bit values in field-number order. -/
def fieldBytes (f : RecipeFields) : List Byte := f.toList.flatMap bytes16

/-- The stack entry at a position counted from the bottom. -/
def Recipes.entryAt (x : Recipes) (n : Nat) : Option StackEntry := (x.base :: x.overrides)[n]?

/-- The reply to a RECIPE_READ with a place type other than 0 and 1, which has no stated answer (assumption log 4): some
result code of Table 11-2, alone when it is 10h or above, and otherwise before a free rest within the 56 bytes of a body
(R165, R168). -/
def unstatedReply (n : Nat) : List Byte :=
  let code := allResults[Config.unstatedResult n].code
  if code.toNat < 0x10 then code :: (Config.unstatedReply n).take 55 else [code]

/-- RECIPE_READ judged (R129). -/
def takeRecipeRead (type number : Byte) (s : State) : State × List Byte :=
  if type = 0 then
    match slotOf? number with
    | none => answer .badSlot s
    | some n =>
      let x := s.recipes.slots[n]
      (s, [Result.ok.code, type, number, if x.valid then 1 else 0] ++ fieldBytes x.fields ++ dirtyBytes x.dirty)
  else if type = 1 then
    match s.recipes.entryAt number.toNat with
    | none => answer .badSlot s
    | some e =>
      (s, [Result.ok.code, type, number, byte e.source, if number = 0 then 0 else 1] ++ fieldBytes e.fields)
  else ({ s with free := s.free + 1 }, unstatedReply s.free)

/-- RECIPE_COPY judged (R130). That a number above 31 is answered before an invalid source, where a request has both, is the
model's choice (assumption log 48). -/
def takeRecipeCopy (source destination : Byte) (s : State) : State × List Byte :=
  match slotOf? source, slotOf? destination with
  | some a, some b =>
    let x := s.recipes.slots[a]
    if x.valid then answer .ok (s.putSlot b ⟨true, x.fields, Vector.replicate 23 true⟩) else answer .notValid s
  | _, _ => answer .badSlot s

/-- RECIPE_ERASE judged (R131): slot 0 stays valid. -/
def takeRecipeErase (slot : Byte) (s : State) : State × List Byte :=
  match slotOf? slot with
  | none => answer .badSlot s
  | some n => answer .ok (s.putSlot n { Slot.invalid with valid := n.val == 0 })

/-! ## REFRESH (R135) -/

/-- A field is refreshed: its group is named and its dirty mark is set. -/
def refreshes (x : Slot) (groups : Byte) (i : Nat) : Bool := (x.dirty[i]?.getD false) && groups.toNat.testBit (fieldGroup i)

/-- An entry copied from the slot takes the refreshed fields. -/
def refreshEntry (n : Fin 32) (x : Slot) (groups : Byte) (e : StackEntry) : StackEntry :=
  if e.source = n then
    { e with fields := Vector.ofFn fun i => if refreshes x groups i then x.fields[i] else e.fields[i] }
  else e

/-- The slot after a REFRESH: the dirty marks of the named groups are cleared. -/
def refreshSlot (groups : Byte) (x : Slot) : Slot :=
  { x with dirty := Vector.ofFn fun i => x.dirty[i] && !groups.toNat.testBit (fieldGroup i) }

/-- How many stack entries have a slot as their source. -/
def Recipes.copiesOf (x : Recipes) (n : Fin 32) : Nat := ((x.base :: x.overrides).filter fun e => e.source = n).length

/-- REFRESH judged. -/
def takeRefresh (slot groups : Byte) (s : State) : State × List Byte :=
  match slotOf? slot with
  | none => answer .badSlot s
  | some n =>
    let x := s.recipes.slots[n]
    let reachesTop := s.recipes.top.source == n && (List.range 23).any (refreshes x groups)
    let s' := { s.putSlot n (refreshSlot groups x) with recipes :=
      { (s.putSlot n (refreshSlot groups x)).recipes with
        base := refreshEntry n x groups s.recipes.base
        overrides := s.recipes.overrides.map (refreshEntry n x groups) } }
    (if reachesTop then recipeChange .refresh s' else s', [Result.ok.code, byte (s.recipes.copiesOf n)])

/-! ## PUSH and POP (R133, R134) -/

/-- A reply that carries the depth and the top slot. -/
def stackReply (r : Result) (s : State) : State × List Byte :=
  (s, [r.code, byte s.recipes.depth, byte s.recipes.top.source])

/-- PUSH judged. -/
def takePush (slot : Byte) (s : State) : State × List Byte :=
  if s.mc.mode = .standby then stackReply .refusedMode s
  else
    match slotOf? slot with
    | none => stackReply .badSlot s
    | some n =>
      let x := s.recipes.slots[n]
      if !x.valid then stackReply .notValid s
      else if 4 ≤ s.recipes.depth then stackReply .full s
      else stackReply .ok (recipeChange .push { s with recipes := { s.recipes with
        overrides := s.recipes.overrides ++ [⟨n, x.fields⟩] } })

/-- POP judged. -/
def takePop (s : State) : State × List Byte :=
  if s.mc.mode = .standby then stackReply .refusedMode s
  else if s.recipes.overrides.isEmpty then stackReply .empty s
  else stackReply .ok (recipeChange .pop { s with recipes := { s.recipes with
    overrides := s.recipes.overrides.dropLast } })

/-! ## The zone queue (R137 to R141) -/

/-- The distance ahead of a mark at an odometer value. -/
def distanceAhead (odometer mark : Word32) : Nat := (mark - odometer).toNat

/-- An entry joins the queue at the place its distance ahead gives. -/
def insertZone (odometer : Word32) (z : ZoneEntry) : List ZoneEntry → List ZoneEntry
  | [] => [z]
  | h :: t =>
    if distanceAhead odometer z.mark < distanceAhead odometer h.mark then z :: h :: t
    else h :: insertZone odometer z t

/-- A reply that carries the number of entries in the queue. -/
def zoneReply (r : Result) (s : State) : State × List Byte := (s, [r.code, byte s.recipes.zones.length])

/-- The zone queue replaced. -/
def State.putZones (s : State) (zs : List ZoneEntry) : State := { s with recipes := { s.recipes with zones := zs } }

/-- ZONE_ADD judged (R138). -/
def takeZoneAdd (mark : Word32) (slot tag : Byte) (s : State) : State × List Byte :=
  match slotOf? slot with
  | none => zoneReply .badSlot s
  | some n =>
    let z : ZoneEntry := ⟨mark, n, tag⟩
    if 2 ^ 31 ≤ distanceAhead s.pcu.odometer mark then zoneReply .late s
    else if s.recipes.zones.any fun e => e.mark == mark then
      zoneReply .replaced (s.putZones (s.recipes.zones.map fun e => if e.mark = mark then z else e))
    else if 8 ≤ s.recipes.zones.length then zoneReply .full s
    else zoneReply .ok (s.putZones (insertZone s.pcu.odometer z s.recipes.zones))

/-- ZONE_CLEAR judged (R139). -/
def takeZoneClear (s : State) : State × List Byte :=
  (s.putZones [], [Result.ok.code, byte s.recipes.zones.length])

/-- ZONE_LIST judged (R139). -/
def takeZoneList (s : State) : State × List Byte :=
  (s, [Result.ok.code, byte s.recipes.zones.length] ++
    s.recipes.zones.flatMap fun z => bytes32 z.mark ++ [byte z.slot, z.tag])

/-- A zone entry's ZONE report. -/
def zoneReport (z : ZoneEntry) (o : ZoneOutcome) (s : State) : State := s.post (.zone z.tag z.slot z.mark o)

/-- A reached or passed entry acts on its slot (R140). -/
def takeZone (z : ZoneEntry) (s : State) : State :=
  let x := s.recipes.slots[z.slot]
  if x.valid then zoneReport z .entered { s with recipes := { s.recipes with base := ⟨z.slot, x.fields⟩ } }
  else zoneReport z .skipped s

/-- A mark has been reached or passed at an odometer value. -/
def reached (odometer mark : Word32) : Bool :=
  distanceAhead odometer mark == 0 || decide (2 ^ 31 ≤ distanceAhead odometer mark)

/-- The due entries of a queue at its head, and the rest. -/
def dueZones (odometer : Word32) (zs : List ZoneEntry) : List ZoneEntry := zs.takeWhile fun z => reached odometer z.mark
def restZones (odometer : Word32) (zs : List ZoneEntry) : List ZoneEntry := zs.dropWhile fun z => reached odometer z.mark

/-- A forward update, or one without movement (R140). -/
def forwardUpdate (n : Word32) (s : State) : State :=
  let due := dueZones n s.recipes.zones
  let entered := due.any fun z => s.recipes.slots[z.slot].valid
  let s' := due.foldl (fun s z => takeZone z s) (s.putZones (restZones n s.recipes.zones))
  let s' := { s' with recipes := { s'.recipes with reference := n } }
  if entered && s'.recipes.depth == 1 then recipeChange .zone s' else s'

/-- A mark lies 2^31 mm ahead or more. -/
def tooFar (odometer mark : Word32) : Bool := decide (2 ^ 31 ≤ distanceAhead odometer mark)

/-- A reverse update (R141): entries now too far ahead leave from the tail. -/
def reverseUpdate (n : Word32) (s : State) : State :=
  let dropped := (s.recipes.zones.filter fun z => tooFar n z.mark).reverse
  let s' := dropped.foldl (fun s z => zoneReport z .dropped s)
    (s.putZones (s.recipes.zones.filter fun z => !tooFar n z.mark))
  { s' with recipes := { s'.recipes with reference := n } }

/-- The movement of an update is reverse (R140). -/
def movesBack (reference n : Word32) : Bool :=
  decide (1 ≤ (reference - n).toNat) && decide ((reference - n).toNat ≤ 2 ^ 31)

/-- An odometer update event (R140, R141). -/
def odometerUpdate (s : State) : State :=
  if movesBack s.recipes.reference s.pcu.odometer then reverseUpdate s.pcu.odometer s
  else forwardUpdate s.pcu.odometer s

/-! ## RESTART (R142) -/

/-- An accepted RESTART: the stack returns to slot 0, the zone queue is emptied, and the announcement is made. -/
def recipesRestart (s : State) : State :=
  announceRecipe { s with recipes := { s.recipes with
      base := ⟨0, s.recipes.slots[0].fields⟩, overrides := [], zones := [], reference := s.pcu.odometer } }

end Sys2Proof.Machine
end

