-- ==== Sys2Proof/Machine/PulseUnit.lean ====
section
/-! DEFINITION. The Pulse Capture Unit (Chapter 2): counting, gates, speed sample, odometer, pickup exclusion, and the
commands PULSE_EDGE, WHEEL_GATE_CLOSE and BRUSH_GATE_CLOSE; how SET_ODOMETER is judged. -/

namespace Sys2Proof.Machine

/-! ## Counting (R16) -/

/-- The count of an edge of a wheel channel's A line, by the edge and the level of its B line. -/
def edgeCount (rising bHigh : Bool) : Int := if rising != bHigh then 1 else -1

/-- A wheel's gate count takes a count, saturating; a saturated count stays at its limit until the gate ends. -/
def Wheel.counted (w : Wheel) (n : Int) : Wheel :=
  if w.count ≤ -32768 ∨ 32767 ≤ w.count then w else { w with count := w.count + n }

/-- A brush channel's gate count rises at a rising edge, saturating. -/
def brushCounted (u : BrushUnit) (rising : Bool) (p : PulseCapture) : PulseCapture :=
  if rising then { p with brushCount := p.brushCount.set u (Nat.min 65535 (p.brushCount.get u + 1)) } else p

/-- An edge on a pulse channel. In STANDBY edges are ignored (R17). -/
def pulseEdge (ch : PulseChannel) (rising bHigh : Bool) (s : State) : State :=
  if s.mc.mode = .standby then s
  else
    { s with pcu :=
        match ch with
        | .wl => { s.pcu with wl := s.pcu.wl.counted (edgeCount rising bHigh) }
        | .wr => { s.pcu with wr := s.pcu.wr.counted (edgeCount rising bHigh) }
        | .bl => brushCounted .l rising s.pcu
        | .br => brushCounted .r rising s.pcu
        | .bm => brushCounted .m rising s.pcu }

/-! ## Exclusion and readmission (R21, R22) -/

/-- What a wheel's test tells the Condition Monitor. -/
inductive WheelNews where
  | none | excluded | readmitted
deriving DecidableEq, Repr

/-- The test of an included wheel whose partner is included (R21). -/
def excludeTest (w partner : Wheel) : Wheel × WheelNews :=
  if w.count = 0 ∧ 3 ≤ mag partner.count then
    if 50 ≤ w.faultRun + 1 then ({ w with included := false, faultRun := 0, readmitRun := 0 }, .excluded)
    else ({ w with faultRun := w.faultRun + 1 }, .none)
  else ({ w with faultRun := 0 }, .none)

/-- The test of an excluded wheel (R22). -/
def readmitTest (w : Wheel) : Wheel × WheelNews :=
  if w.count = 0 then ({ w with readmitRun := 0 }, .none)
  else if 5 ≤ w.readmitRun + 1 then ({ w with included := true, faultRun := 0, readmitRun := 0 }, .readmitted)
  else ({ w with readmitRun := w.readmitRun + 1 }, .none)

/-- One wheel's test at a gate close. It goes by its own and its partner's state before the gate's tests, so the partner of
a wheel readmitted at this gate is not tested for exclusion at it: the model's choice (assumption log 35). -/
def wheelTest (w partner : Wheel) : Wheel × WheelNews :=
  if !w.included then readmitTest w else if partner.included then excludeTest w partner else (w, .none)

/-- The notice a test gives. -/
def wheelNotice (n : WheelNews) (s : State) : State :=
  match n with
  | .none => s
  | .excluded => notice .wheelPickup true s
  | .readmitted => notice .wheelPickup false s

/-! ## Speed, direction, odometer (R18, R20) -/

/-- A wheel's speed from its gate count. -/
def wheelSpeed (ppm n : Int) : Int := divZ (n * 50000) ppm

/-- The speed sample of the two wheels. -/
def sampleOf (wl wr : Wheel) : Int :=
  clamp (-32768) 32767
    (if wl.included && wr.included then divZ (wl.speed + wr.speed) 2
     else if wl.included then wl.speed else wr.speed)

/-- The direction a sample shows. -/
def directionOf (sample : Int) : Direction :=
  if 50 ≤ sample then .forward else if sample ≤ -50 then .reverse else .still

/-- The odometer increment of a gate, in units of 1/(2 × ppm) mm. -/
def incrementOf (wl wr : Wheel) : Int :=
  if wl.included && wr.included then (wl.count + wr.count) * 1000
  else 2 * (if wl.included then wl.count else wr.count) * 1000

/-- The odometer takes the whole millimetres of a total, the remainder the rest. -/
def addTravel (ppm increment : Int) (p : PulseCapture) : PulseCapture :=
  let total := p.remainder + increment
  let whole := divZ total (2 * ppm)
  { p with odometer := p.odometer + BitVec.ofInt 32 whole, remainder := total - whole * (2 * ppm) }

/-- The record after the close of a wheel gate, given the two tested wheels: speeds, sample, direction, odometer, the
gate counts cleared. -/
def closeGate (ppm : Int) (wl wr : Wheel) (p : PulseCapture) : PulseCapture :=
  let wl := { wl with speed := wheelSpeed ppm wl.count }
  let wr := { wr with speed := wheelSpeed ppm wr.count }
  let sample := sampleOf wl wr
  addTravel ppm (incrementOf wl wr)
    { p with wl := { wl with count := 0 }, wr := { wr with count := 0 }, sample := sample, direction := directionOf sample }

/-- The park-stop timer at a speed sample (R9). -/
def parkStopTest (s : State) : State :=
  if s.mc.mode = .parking then
    { s with mc := { s.mc with parkStopTimer :=
        if s.stopped then (if s.mc.parkStopTimer.isNone then s.startMs 500 else s.mc.parkStopTimer) else none } }
  else s

/-- The speed sample event, to the Drive Regulator, the Brush Speed Unit, the Spray Controller and Mode Control, and
the odometer update event (R19). -/
def deliverSample (s : State) : State :=
  odometerUpdate (parkStopTest (evaluateFlow (forUnits brushSpeedSample (overspeedTest s))))

/-- The wheel gate closes (R17 to R22). -/
def wheelGateOver (s : State) : State :=
  let tl := wheelTest s.pcu.wl s.pcu.wr
  let tr := wheelTest s.pcu.wr s.pcu.wl
  let p := closeGate s.setup.ppm tl.1 tr.1 s.pcu
  let s := { s with pcu := { p with wheelGateTimer := s.startMs 20 } }
  deliverSample (wheelNotice tr.2 (wheelNotice tl.2 s))

/-! ## The brush gate (R23) -/

/-- A brush's rpm from its gate count. -/
def brushRpmOf (ppr : Int) (k : Nat) : Int := least 300 (divZ ((k : Int) * 600) ppr)

/-- The brush gate closes: rpm values, counts cleared, timer restarted; the brush sample event goes to the Brush Speed
Unit and then to the Arm Sequencer. -/
def brushGateOver (s : State) : State :=
  let s := { s with pcu := { s.pcu with
      brushRpm := s.pcu.brushCount.map (brushRpmOf s.setup.ppr)
      brushCount := PerUnit.const 0
      brushGateTimer := s.startMs 100 } }
  forUnits armBrushSample (forUnits brushSample s)

/-! ## SET_ODOMETER (R25) -/

/-- SET_ODOMETER judged, outside SETTLE and STANDBY. -/
def takeSetOdometer (v : Word32) (s : State) : State × List Byte :=
  if s.recipes.zones.isEmpty then
    answer .ok (odometerUpdate { s with pcu := { s.pcu with odometer := v, remainder := 0 } })
  else answer .busy s

/-! ## Modes and RESTART (R17, R26) -/

/-- The items waking and RESTART clear (Table 2-3); both gate timers start from that moment. -/
def PulseCapture.restarted (p : PulseCapture) (s : State) : PulseCapture :=
  let fresh (w : Wheel) : Wheel := { w with count := 0, speed := 0, faultRun := 0, readmitRun := 0 }
  { p with
    wl := fresh p.wl, wr := fresh p.wr, brushCount := PerUnit.const 0, sample := 0, direction := .still, remainder := 0
    brushRpm := PerUnit.const 0, wheelGateTimer := s.startMs 20, brushGateTimer := s.startMs 100 }

/-- Waking: the wheel states are kept. -/
def pulseWake (s : State) : State := { s with pcu := s.pcu.restarted s }

/-- An accepted RESTART: both wheels are INCLUDED. -/
def pulseRestart (s : State) : State :=
  let p := s.pcu.restarted s
  { s with pcu := { p with wl := { p.wl with included := true }, wr := { p.wr with included := true } } }

/-- Entry to STANDBY: the gate timers stop. -/
def pulseStandby (s : State) : State :=
  { s with pcu := { s.pcu with wheelGateTimer := none, brushGateTimer := none } }

/-! ## Commands -/

/-- PULSE_EDGE (R16). -/
def execPulseEdge (ch : PulseChannel) (rising bHigh : Bool) (s : State) : Host.Outcome State Fault Refusal :=
  finish (pulseEdge ch rising bHigh s)

/-- WHEEL_GATE_CLOSE (R18). -/
def execWheelGateClose (s : State) : Host.Outcome State Fault Refusal :=
  finish (onExpiry s.pcu.wheelGateTimer wheelGateOver s)

/-- BRUSH_GATE_CLOSE (R23). -/
def execBrushGateClose (s : State) : Host.Outcome State Fault Refusal :=
  finish (onExpiry s.pcu.brushGateTimer brushGateOver s)

end Sys2Proof.Machine
end

