-- ==== Sys2Proof/Machine/SetupRequests.lean ====
section
/-! DEFINITION. How SETUP_WRITE and SETUP_READ are judged (R172), with the effects the owning chapters give a written parameter (R24,
R44, R66, R90, R106, R122, R152, R163). -/

namespace Sys2Proof.Machine

/-! ## Applying the pairs -/

/-- The value a parameter takes from a written value: clamped to its range. -/
def limited (group : Nat) (n : Byte) (v : Int) : Int :=
  match setupRange group n.toNat with
  | some r => clamp r.1 r.2 v
  | none => v

/-- The pairs applied in list order. -/
def applyPairs (group : Nat) (pairs : List (Byte × Int)) (x : Setup) : Setup :=
  pairs.foldl (fun x p => x.put group p.1.toNat (limited group p.1 p.2)) x

/-- The units whose stop_rpm does not lie below their start_rpm (R66). -/
def stopsTooHigh (x : Setup) : List BrushUnit :=
  [BrushUnit.l, .r, .m].filter fun u => decide (x.startRpm u ≤ x.stopRpm u)

/-- The parameter number of a unit's stop_rpm in the BRUSH group. -/
def stopNumber (u : BrushUnit) : Nat := 3 + unitNumber u

/-- Those units' stop_rpm set to start_rpm − 1. -/
def lowerStops (x : Setup) : Setup :=
  (stopsTooHigh x).foldl (fun x u => x.put 1 (stopNumber u) (x.startRpm u - 1)) x

/-- The setup after a SETUP_WRITE. -/
def writtenSetup (group : Nat) (pairs : List (Byte × Int)) (x : Setup) : Setup :=
  if group = 1 then lowerStops (applyPairs group pairs x) else applyPairs group pairs x

/-- The stop_rpm parameters that the write of a BRUSH group lowers. -/
def loweredNumbers (group : Nat) (pairs : List (Byte × Int)) (x : Setup) : List Byte :=
  if group = 1 then (stopsTooHigh (applyPairs group pairs x)).map fun u => byte (stopNumber u) else []

/-- The numbers of the clamped parameters: in list order those of the pairs whose value was clamped or whose stop_rpm was
lowered; then a lowered stop_rpm that the list does not name (assumption log 15). The reply carries each number once, and
so at most the 16 of the BRUSH group and the 18 a list can name in another (assumption log 36). -/
def clampedNumbers (group : Nat) (pairs : List (Byte × Int)) (x : Setup) : List Byte :=
  let lowered := loweredNumbers group pairs x
  ((pairs.filter fun p => limited group p.1 p.2 != p.2 || lowered.contains p.1).map Prod.fst)
    ++ lowered.filter fun n => !(pairs.any fun p => p.1 == n)

/-! ## Effects at once -/

/-- A write of ppm sets the remainder to 0 (R24). -/
def ppmWritten (s : State) : State := { s with pcu := { s.pcu with remainder := 0 } }

/-- Kw is used at once for the demand (R106). -/
def kwWritten (s : State) : State := { s with spray := { s.spray with demand := waterDemand s s.spray.command } }

/-- New spacing values: a running spacing timer is set again (R90). -/
def spacingWritten (s : State) : State :=
  match s.arms.spacingTimer, s.arms.queue with
  | some _, e :: _ => { s with arms := { s.arms with spacingTimer := some (spacingTime s e.kind) } }
  | _, _ => s

/-- One role after a write of the SENSOR group (R151, R152), given the setup before it. -/
def roleWritten (before : Setup) (s : State) (r : Role) : State :=
  let s := if s.setup.address r = before.address r then s else addressChanged r s
  if s.setup.storedSubstitute r = before.storedSubstitute r then s else substituteChanged r s

/-- The effects of a write of some numbers of a group. A write of the SENSOR group acts on the roles in role order, on an
address before a substitute, whatever the order of its list: the model's choice (assumption log 38). -/
def setupEffects (group : Nat) (numbers : List Nat) (before : Setup) (s : State) : State :=
  match group with
  | 0 => if numbers.contains 6 then ppmWritten s else s
  | 2 =>
    let s := if numbers.contains 1 then kwWritten s else s
    if numbers.contains 0 then evaluateFlow s else s
  | 4 => allRoles.foldl (roleWritten before) s
  | 5 => if s.setup.oilHigh = before.oilHigh then s else substituteChanged .oilT s
  | 6 =>
    let s := if numbers.contains 7 then postArmsDemand s else s
    if numbers.any fun n => decide (8 ≤ n) then spacingWritten s else s
  | _ => s

/-! ## The requests -/

/-- SETUP_WRITE judged, outside SETTLE. -/
def takeSetupWrite (group : Nat) (pairs : List (Byte × Int)) (s : State) : State × List Byte :=
  if s.mc.mode ≠ .standby ∧ s.mc.mode ≠ .park then answer .refusedMode s
  else if pairs.any fun p => (setupRange group p.1.toNat).isNone then answer .badTable s
  else
    (setupEffects group (pairs.map fun p => p.1.toNat) s.setup { s with setup := writtenSetup group pairs s.setup },
      clampedReply (clampedNumbers group pairs s.setup))

/-- The value SETUP_READ carries for a parameter: numbers 24 and 36 of the SENSOR group are the substitutes in use. -/
def readValue (group n : Nat) (v : Int) (s : State) : Int :=
  if group = 4 ∧ n = 24 then s.substitute .oilT
  else if group = 4 ∧ n = 36 then s.substitute .dust
  else v

/-- The values of a range of a group. -/
def readValues (group first count : Nat) (s : State) : List Int :=
  (((s.setup.group group).zipIdx.drop first).take count).map fun p => readValue group p.2 p.1 s

/-- SETUP_READ judged, outside SETTLE. -/
def takeSetupRead (group first count : Byte) (s : State) : State × List Byte :=
  if 6 < group.toNat ∨ count.toNat = 0 ∨ 26 < count.toNat
      ∨ (s.setup.group group.toNat).length < first.toNat + count.toNat then answer .badTable s
  else (s, [Result.ok.code, group, first, count] ++ (readValues group.toNat first.toNat count.toNat s).flatMap bytes16)

end Sys2Proof.Machine
end

