-- ==== Sys2Proof/Machine/StatusReply.lean ====
section
/-! DEFINITION. How STATUS is taken, and its reply body (R173, Table 11-6). -/

namespace Sys2Proof.Machine

/-- A wheel speed in two bytes. One outside the signed 16-bit range has no stated bytes (assumption log 5). -/
def wheelBytes (v : Int) : List Byte :=
  if -32768 ≤ v ∧ v ≤ 32767 then bytes16 v else wordBytes (Config.wideWheelSpeed v)

/-- A consumer's three bytes: grant in the upper twelve bits, share in the lower twelve. -/
def consumerBytes (c : ConsumerRec) : List Byte :=
  let w : BitVec 24 := (BitVec.ofInt 12 c.grant ++ BitVec.ofInt 12 c.share)
  [w.extractLsb' 16 8, w.extractLsb' 8 8, w.extractLsb' 0 8]

/-- The posture byte of a unit. -/
def postureOf (a : ArmUnit) : Byte := postureByte a.reach a.height a.spin

/-- The flags byte: report lost in bit 0, overrun in bit 1. -/
def statusFlags (s : State) : Byte :=
  byte ((if s.link.lost then 1 else 0) + (if s.drive.overrun then 2 else 0))

/-- The 56 bytes of Table 11-6. -/
def statusBody (s : State) : List Byte :=
  [Result.ok.code, byte s.mc.mode.number, byte s.mc.target.number]
    ++ bytes32 s.pcu.odometer
    ++ bytes16 s.pcu.sample
    ++ wheelBytes s.pcu.wl.speed ++ wheelBytes s.pcu.wr.speed
    ++ bytes16 s.drive.ramped
    ++ bytes16 s.drive.dispOut
    ++ bytes16 s.arb.budget
    ++ allConsumers.flatMap (fun c => consumerBytes (s.arb.consumers.get c))
    ++ bytes16 s.pcu.brushRpm.l ++ bytes16 s.pcu.brushRpm.r ++ bytes16 s.pcu.brushRpm.m
    ++ [postureOf s.arms.units.l, postureOf s.arms.units.r, postureOf s.arms.units.m]
    ++ [s.arms.units.l.activity.code, s.arms.units.r.activity.code, s.arms.units.m.activity.code]
    ++ [byte (s.recipes.depth * 32 + s.recipes.top.source), byte s.recipes.zones.length]
    ++ [byte s.cond.presentCount, byte s.cond.latchedCount]
    ++ bytes16 s.link.errors
    ++ [statusFlags s]

/-- STATUS taken: the reply carries the report-lost flag, and the flag is cleared (R169, R173). -/
def takeStatus (s : State) : State × List Byte :=
  ({ s with link := { s.link with lost := false } }, statusBody s)

end Sys2Proof.Machine
end

