-- ==== Sys2Proof/Machine/Power.lean ====
section
/-! DEFINITION. Resets, waking, STANDBY, how SET_MODE and RESTART are judged, and the events of the link line, with the
commands HARDWARE_RESET, WAKE_ACTIVE, WAKE_INACTIVE, FRAME_RECEIVED, INTER_BYTE_GAP_TIMEOUT, LEN_ABOVE_56_DISCARD and
FRAME_TRANSMIT_END. -/

namespace Sys2Proof.Machine

/-! ## STANDBY and waking (R4, R10) -/

/-- Entry to STANDBY: the mode and its report, then every block's reaction. -/
def enterStandby (s : State) : State :=
  sensorsStandby (arbiterStandby (sprayStandby (armsStandby (brushStandby (driveEnterStandby
    (pulseStandby (modeReport (takeMode .standby s))))))))

/-- Waking (R4): SETTLE and its report, then every block's reaction, the Monitor's tests (R164) and the tank test
(R107). -/
def wake (s : State) : State :=
  tankTest (formWanted (loopTest (oilTest (sensorsWake (arbiterWake (armsWake (brushWake (driveWake
    (pulseWake (enterSettle s))))))))))

/-- The hardware reset (R3, R165): every block at its reset value; the baud rate from the straps. The pins, the present
time, the counter of free values and the queue of commands are not the part's and stay (assumption log 16). -/
def afterReset (s : State) : State :=
  { State.reset with
    pins := s.pins
    clock := s.clock
    free := s.free
    pending := s.pending
    link := { LinkPort.reset with baud :=
      match s.pins.baud1, s.pins.baud0 with
      | false, false => 57600
      | false, true => 115200
      | true, false => 230400
      | true, true => 460800 } }

/-- The hardware reset ends: WAKE found active wakes the part at once (R3). -/
def hardwareReset (s : State) : State := if s.pins.wake then wake (afterReset s) else afterReset s

/-- The WAKE line goes active (R4): a change from inactive wakes the part in STANDBY and has no effect elsewhere. -/
def wakeLineActive (s : State) : State :=
  if s.pins.wake then s
  else
    let s := { s with pins := { s.pins with wake := true } }
    if s.mc.mode = .standby then wake s else s

/-! ## SET_MODE (R6 to R10) -/

/-- SET_MODE TRANSPORT or WORK in PARK (R7). -/
def leavePark (m : Mode) (s : State) : State × List Byte :=
  if s.cond.stopRecorded then answer .refusedCond s
  else if m = .transport ∧ !s.allStowed then answer .notStowed s
  else answer .ok (enterTravel m s)

/-- SET_MODE judged, outside SETTLE and STANDBY (Table 1-10). -/
def takeSetMode (m : Nat) (s : State) : State × List Byte :=
  match s.mc.mode, m with
  | .park, 0 => answer .ok (enterStandby s)
  | .park, 2 => answer .ok s
  | .park, 3 => leavePark .transport s
  | .park, 4 => leavePark .work s
  | .transport, 2 => answer .ok (enterTravel .parking s)
  | .transport, 3 => answer .ok s
  | .transport, 4 => answer .ok (enterTravel .work s)
  | .work, 2 => answer .ok (enterTravel .parking s)
  | .work, 3 => answer .ok (enterTravel (if s.allStowed then .transport else .stowing) s)
  | .work, 4 => answer .ok s
  | .stowing, 2 => answer .ok (enterTravel .parking s)
  | .stowing, 3 => answer .ok s
  | .stowing, 4 => answer .ok (enterTravel .work s)
  | .parking, 2 => answer .ok s
  | .parking, 3 => answer .busy s
  | .parking, 4 => answer .busy s
  | _, _ => answer .refusedMode s

/-! ## RESTART (R13) -/

/-- What RESTART empties before the blocks act: the report queue with its lost flag (R174), and the condition table
(R164). -/
def restartClear (s : State) : State :=
  { s with link := { s.link with reports := [], lost := false }, cond := CondTable.clear }

/-- An accepted RESTART: the report queue and the conditions are cleared, SETTLE is entered with its report, and every
block acts; the stack's return to slot 0 is announced; the channels start afresh; the Monitor's tests and the tank test
follow (R164, R107). The order of the blocks is the model's choice (assumption log 9): the last tests are made on
the substitutes, and a SENSED that a substitute takes is kept. -/
def performRestart (s : State) : State :=
  tankTest (loopTest (oilTest (sensorsRestart (recipesRestart (arbiterRestart (sprayRestart (armsRestart (brushRestart
    (driveRestart (pulseRestart (enterSettle (restartClear s))))))))))))

/-- RESTART judged, outside SETTLE and STANDBY. -/
def takeRestart (s : State) : State × List Byte :=
  if s.mc.mode = .park ∨ s.stopped then answer .ok (performRestart s) else answer .refusedMode s

/-! ## The link line (R166, R167) -/

/-- A frame is discarded: the error count rises and the receiver waits for a SYNC. -/
def discardFrame (l : LinkPort) : LinkPort := { countError l with receiver := .waitSync }

/-- The bytes a link frame's CRC is computed over. -/
def checkedBytes (kind tag : Byte) (body : List Byte) : List Byte := byte body.length :: kind :: tag :: body

/-- A complete request arrives (R4, R166, R167): it takes a place or is discarded, and wakes the part in STANDBY either
way. -/
def requestArrived (kind tag : Byte) (body : List Byte) (s : State) : State :=
  let s := { s with link := s.link.place kind tag body }
  if s.mc.mode = .standby then wake s else s

/-- A frame received to its last byte (R166): discarded for its length or its CRC, and otherwise complete. -/
def frameArrived (kind tag : Byte) (body : List Byte) (crc : Word16) (s : State) : State :=
  if 56 < body.length ∨ crc ≠ crc16 (checkedBytes kind tag body) then { s with link := discardFrame s.link }
  else requestArrived kind tag body s

/-- A gap within a frame (R166): the frame is discarded, and the byte that ends the gap is examined as a SYNC. -/
def gapDiscard (next : Byte) (s : State) : State :=
  { s with link := { countError s.link with receiver := if next = 0xC3 then .inFrame else .waitSync } }

/-- A LEN byte arrived (R166): the frame is discarded when it is above 56. -/
def lenArrived (len : Byte) (s : State) : State :=
  if 56 < len.toNat then { s with link := discardFrame s.link } else s

/-! ## Commands -/

/-- HARDWARE_RESET (R3). -/
def execHardwareReset (s : State) : Host.Outcome State Fault Refusal := finish (hardwareReset s)

/-- WAKE_ACTIVE (R4). -/
def execWakeActive (s : State) : Host.Outcome State Fault Refusal := finish (wakeLineActive s)

/-- WAKE_INACTIVE (R4): the line's level changes, and nothing else. -/
def execWakeInactive (s : State) : Host.Outcome State Fault Refusal :=
  finish { s with pins := { s.pins with wake := false } }

/-- FRAME_RECEIVED (R166). -/
def execFrameReceived (kind tag : Byte) (body : List Byte) (crc : Word16) (s : State) :
    Host.Outcome State Fault Refusal := finish (frameArrived kind tag body crc s)

/-- INTER_BYTE_GAP_TIMEOUT (R166). -/
def execInterByteGapTimeout (next : Byte) (s : State) : Host.Outcome State Fault Refusal := finish (gapDiscard next s)

/-- LEN_ABOVE_56_DISCARD (R166). -/
def execLenAbove56Discard (len : Byte) (s : State) : Host.Outcome State Fault Refusal := finish (lenArrived len s)

/-- FRAME_TRANSMIT_END (R170). -/
def execFrameTransmitEnd (s : State) : Host.Outcome State Fault Refusal := finish { s with link := s.link.endFrame }

end Sys2Proof.Machine
end

