-- ==== Sys2Proof/Machine/Requests.lean ====
section
/-! DEFINITION. The taking of a request (R167), and the meanings of the 27 requests of Table 11-4 and of UNKNOWN_KIND: each
request's KIND, the length of its body, and the judgement of the block that owns it. -/

namespace Sys2Proof.Machine

/-! ## Taking a request -/

/-- The taking of a request (R4, R167). The request that stands oldest untaken in the receive buffer is judged in the mode in
force. A request that has no place yet is received in the same step, which wakes the part in STANDBY: it takes a place and is
judged, in SETTLE when it woke the part, when no other waits untaken before it; it waits its turn when one does; and it is
discarded when both places are occupied (assumption log 3). -/
def takeRequest (kind tag : Byte) (body : List Byte) (act : State → State × List Byte) (s : State) : State :=
  if s.link.inTurn kind tag body then judge act s
  else
    let arrived := requestArrived kind tag body s
    if s.link.untaken.isNone ∧ s.link.rx.length < 2 then judge act arrived else arrived

/-- The KINDs of Table 11-4. -/
def knownKind (kind : Byte) : Bool := decide (1 ≤ kind.toNat) && decide (kind.toNat ≤ 0x18)

/-! ## Commands -/

/-- STATUS (R173), taken in every mode. -/
def execStatus (tag : Byte) (body : List Byte) (s : State) : Host.Outcome State Fault Refusal :=
  finish (takeRequest 0x01 tag body
    (fun s => if body.isEmpty then takeStatus s else answer .badLength s) s)

/-- SET_MODE (R6). -/
def execSetMode (tag : Byte) (body : List Byte) (s : State) : Host.Outcome State Fault Refusal :=
  finish (takeRequest 0x02 tag body
    (fun s =>
      match body with
      | [m] => guarded true (notInStandby (takeSetMode m.toNat)) s
      | _ => guarded false (answer .ok) s) s)

/-- TRAVEL (R28). -/
def execTravel (tag : Byte) (body : List Byte) (s : State) : Host.Outcome State Fault Refusal :=
  finish (takeRequest 0x03 tag body
    (fun s =>
      match body with
      | [hi, lo] => guarded true (notInStandby (takeTravel (i16 hi lo))) s
      | _ => guarded false (answer .ok) s) s)

/-- SUPPLY (R112). -/
def execSupply (tag : Byte) (body : List Byte) (s : State) : Host.Outcome State Fault Refusal :=
  finish (takeRequest 0x04 tag body
    (fun s =>
      match body with
      | [hi, lo] => guarded true (notInStandby (takeSupply (u16 hi lo))) s
      | _ => guarded false (answer .ok) s) s)

/-- SETUP_WRITE (R172). -/
def execSetupWrite (tag : Byte) (body : List Byte) (s : State) : Host.Outcome State Fault Refusal :=
  finish (takeRequest 0x05 tag body
    (fun s =>
      match body with
      | group :: rest =>
        match listBody rest with
        | some pairs => guarded true (takeSetupWrite group.toNat pairs) s
        | none => guarded false (answer .ok) s
      | [] => guarded false (answer .ok) s) s)

/-- SETUP_READ (R172). -/
def execSetupRead (tag : Byte) (body : List Byte) (s : State) : Host.Outcome State Fault Refusal :=
  finish (takeRequest 0x06 tag body
    (fun s =>
      match body with
      | [group, first, count] => guarded true (takeSetupRead group first count) s
      | _ => guarded false (answer .ok) s) s)

/-- RECIPE_WRITE (R128). -/
def execRecipeWrite (tag : Byte) (body : List Byte) (s : State) : Host.Outcome State Fault Refusal :=
  finish (takeRequest 0x07 tag body
    (fun s =>
      match body with
      | slot :: rest =>
        match listBody rest with
        | some pairs => guarded true (takeRecipeWrite slot pairs) s
        | none => guarded false (answer .ok) s
      | [] => guarded false (answer .ok) s) s)

/-- RECIPE_READ (R129). -/
def execRecipeRead (tag : Byte) (body : List Byte) (s : State) : Host.Outcome State Fault Refusal :=
  finish (takeRequest 0x08 tag body
    (fun s =>
      match body with
      | [type, number] => guarded true (takeRecipeRead type number) s
      | _ => guarded false (answer .ok) s) s)

/-- RECIPE_COPY (R130). -/
def execRecipeCopy (tag : Byte) (body : List Byte) (s : State) : Host.Outcome State Fault Refusal :=
  finish (takeRequest 0x09 tag body
    (fun s =>
      match body with
      | [source, destination] => guarded true (takeRecipeCopy source destination) s
      | _ => guarded false (answer .ok) s) s)

/-- RECIPE_ERASE (R131). -/
def execRecipeErase (tag : Byte) (body : List Byte) (s : State) : Host.Outcome State Fault Refusal :=
  finish (takeRequest 0x0A tag body
    (fun s =>
      match body with
      | [slot] => guarded true (takeRecipeErase slot) s
      | _ => guarded false (answer .ok) s) s)

/-- REFRESH (R135). -/
def execRefresh (tag : Byte) (body : List Byte) (s : State) : Host.Outcome State Fault Refusal :=
  finish (takeRequest 0x0B tag body
    (fun s =>
      match body with
      | [slot, groups] => guarded true (takeRefresh slot groups) s
      | _ => guarded false (answer .ok) s) s)

/-- PACE_WRITE (R50). -/
def execPaceWrite (tag : Byte) (body : List Byte) (s : State) : Host.Outcome State Fault Refusal :=
  finish (takeRequest 0x0C tag body
    (fun s =>
      match body with
      | [table, h1, h0, count,
          a1, a0, b1, b0, c1, c0, d1, d0, e1, e0, f1, f0, g1, g0, i1, i0, j1, j0, k1, k0, l1, l0, m1, m0] =>
        guarded true (takePaceWrite table.toNat (i16 h1 h0) count.toNat
          [i16 a1 a0, i16 c1 c0, i16 e1 e0, i16 g1 g0, i16 j1 j0, i16 l1 l0]
          [i16 b1 b0, i16 d1 d0, i16 f1 f0, i16 i1 i0, i16 k1 k0, i16 m1 m0]) s
      | _ => guarded false (answer .ok) s) s)

/-- PACE_READ (R51). -/
def execPaceRead (tag : Byte) (body : List Byte) (s : State) : Host.Outcome State Fault Refusal :=
  finish (takeRequest 0x0D tag body
    (fun s =>
      match body with
      | [table] => guarded true (takePaceRead table) s
      | _ => guarded false (answer .ok) s) s)

/-- ZONE_ADD (R138). -/
def execZoneAdd (tag : Byte) (body : List Byte) (s : State) : Host.Outcome State Fault Refusal :=
  finish (takeRequest 0x0E tag body
    (fun s =>
      match body with
      | [a, b, c, d, slot, zoneTag] => guarded true (takeZoneAdd (u32 a b c d) slot zoneTag) s
      | _ => guarded false (answer .ok) s) s)

/-- ZONE_CLEAR (R139). -/
def execZoneClear (tag : Byte) (body : List Byte) (s : State) : Host.Outcome State Fault Refusal :=
  finish (takeRequest 0x0F tag body (guarded body.isEmpty takeZoneClear) s)

/-- ZONE_LIST (R139). -/
def execZoneList (tag : Byte) (body : List Byte) (s : State) : Host.Outcome State Fault Refusal :=
  finish (takeRequest 0x10 tag body (guarded body.isEmpty takeZoneList) s)

/-- PUSH (R133). -/
def execPush (tag : Byte) (body : List Byte) (s : State) : Host.Outcome State Fault Refusal :=
  finish (takeRequest 0x11 tag body
    (fun s =>
      match body with
      | [slot] => guarded true (takePush slot) s
      | _ => guarded false (answer .ok) s) s)

/-- POP (R134). -/
def execPop (tag : Byte) (body : List Byte) (s : State) : Host.Outcome State Fault Refusal :=
  finish (takeRequest 0x12 tag body (guarded body.isEmpty takePop) s)

/-- SET_LIFT (R77). A UNIT request is judged by the unit and operation bytes of its body. -/
def execSetLift (tag : Byte) (body : List Byte) (s : State) : Host.Outcome State Fault Refusal :=
  finish (takeRequest 0x13 tag body (judgeUnit body) s)

/-- RELEASE_LIFT (R77). -/
def execReleaseLift (tag : Byte) (body : List Byte) (s : State) : Host.Outcome State Fault Refusal :=
  finish (takeRequest 0x13 tag body (judgeUnit body) s)

/-- RELEASE_SENSED (R77). -/
def execReleaseSensed (tag : Byte) (body : List Byte) (s : State) : Host.Outcome State Fault Refusal :=
  finish (takeRequest 0x13 tag body (judgeUnit body) s)

/-- RELEASE_KNOCK (R77). -/
def execReleaseKnock (tag : Byte) (body : List Byte) (s : State) : Host.Outcome State Fault Refusal :=
  finish (takeRequest 0x13 tag body (judgeUnit body) s)

/-- SPRAY (R95). -/
def execSpray (tag : Byte) (body : List Byte) (s : State) : Host.Outcome State Fault Refusal :=
  finish (takeRequest 0x14 tag body
    (fun s =>
      match body with
      | [v] => guarded true (takeSpray v) s
      | _ => guarded false (answer .ok) s) s)

/-- CLEAR (R161). -/
def execClear (tag : Byte) (body : List Byte) (s : State) : Host.Outcome State Fault Refusal :=
  finish (takeRequest 0x15 tag body
    (fun s =>
      match body with
      | [k] => guarded true (takeClear k.toNat) s
      | _ => guarded false (answer .ok) s) s)

/-- SET_ODOMETER (R25). -/
def execSetOdometer (tag : Byte) (body : List Byte) (s : State) : Host.Outcome State Fault Refusal :=
  finish (takeRequest 0x16 tag body
    (fun s =>
      match body with
      | [a, b, c, d] => guarded true (notInStandby (takeSetOdometer (u32 a b c d))) s
      | _ => guarded false (answer .ok) s) s)

/-- SENSOR_READ (R153). -/
def execSensorRead (tag : Byte) (body : List Byte) (s : State) : Host.Outcome State Fault Refusal :=
  finish (takeRequest 0x17 tag body
    (fun s =>
      match body with
      | [n] => guarded true (takeSensorRead n) s
      | _ => guarded false (answer .ok) s) s)

/-- RESTART (R13). -/
def execRestart (tag : Byte) (body : List Byte) (s : State) : Host.Outcome State Fault Refusal :=
  finish (takeRequest 0x18 tag body (guarded body.isEmpty (notInStandby takeRestart)) s)

/-- UNKNOWN_KIND (R167). A KIND of Table 11-4 is no such request: nothing happens. -/
def execUnknownKind (kind tag : Byte) (body : List Byte) (s : State) : Host.Outcome State Fault Refusal :=
  finish (if knownKind kind then s else takeRequest kind tag body (answer .unknownKind) s)

end Sys2Proof.Machine
end

