-- ==== Sys2Proof/Machine/Dispatch.lean ====
section
/-! DEFINITION. Dispatch of a command to its meaning. -/

namespace Sys2Proof.Machine

def exec (i : Instr) (s : State) : Host.Outcome State Fault Refusal :=
  match i with
  | .hardwareReset => Sys2Proof.Machine.execHardwareReset s
  | .wakeActive => Sys2Proof.Machine.execWakeActive s
  | .settleTimerExpiry => Sys2Proof.Machine.execSettleTimerExpiry s
  | .parkStopTimerExpiry => Sys2Proof.Machine.execParkStopTimerExpiry s
  | .pulseEdge ch rising bHigh => Sys2Proof.Machine.execPulseEdge ch rising bHigh s
  | .wheelGateClose => Sys2Proof.Machine.execWheelGateClose s
  | .brushGateClose => Sys2Proof.Machine.execBrushGateClose s
  | .requestTimerExpiry => Sys2Proof.Machine.execRequestTimerExpiry s
  | .drivePeriodExpiry => Sys2Proof.Machine.execDrivePeriodExpiry s
  | .dwellTimerExpiry => Sys2Proof.Machine.execDwellTimerExpiry s
  | .brushRampTimerExpiry u => Sys2Proof.Machine.execBrushRampTimerExpiry u s
  | .stallTimerExpiry u => Sys2Proof.Machine.execStallTimerExpiry u s
  | .lagTimerExpiry u => Sys2Proof.Machine.execLagTimerExpiry u s
  | .endSwitchChange sw active => Sys2Proof.Machine.execEndSwitchChange sw active s
  | .spacingTimerExpiry => Sys2Proof.Machine.execSpacingTimerExpiry s
  | .cylinderTimeoutExpiry => Sys2Proof.Machine.execCylinderTimeoutExpiry s
  | .spinDownTimerExpiry u => Sys2Proof.Machine.execSpinDownTimerExpiry u s
  | .releaseTimerExpiry u => Sys2Proof.Machine.execReleaseTimerExpiry u s
  | .waterRampTimerExpiry => Sys2Proof.Machine.execWaterRampTimerExpiry s
  | .valveLeadTimerExpiry => Sys2Proof.Machine.execValveLeadTimerExpiry s
  | .valveLagTimerExpiry => Sys2Proof.Machine.execValveLagTimerExpiry s
  | .supplyHoldTimerExpiry => Sys2Proof.Machine.execSupplyHoldTimerExpiry s
  | .arbiterPeriodExpiry => Sys2Proof.Machine.execArbiterPeriodExpiry s
  | .roundPeriodTimerExpiry => Sys2Proof.Machine.execRoundPeriodTimerExpiry s
  | .masterFrameSent => Sys2Proof.Machine.execMasterFrameSent s
  | .sensorReplyComplete address code high low check => Sys2Proof.Machine.execSensorReplyComplete address code high low check s
  | .replyWindowClose => Sys2Proof.Machine.execReplyWindowClose s
  | .turnaroundExpiry => Sys2Proof.Machine.execTurnaroundExpiry s
  | .frameReceived kind tag body crc => Sys2Proof.Machine.execFrameReceived kind tag body crc s
  | .interByteGapTimeout next => Sys2Proof.Machine.execInterByteGapTimeout next s
  | .frameTransmitEnd => Sys2Proof.Machine.execFrameTransmitEnd s
  | .unknownKind kind tag body => Sys2Proof.Machine.execUnknownKind kind tag body s
  | .status tag body => Sys2Proof.Machine.execStatus tag body s
  | .setMode tag body => Sys2Proof.Machine.execSetMode tag body s
  | .travel tag body => Sys2Proof.Machine.execTravel tag body s
  | .supply tag body => Sys2Proof.Machine.execSupply tag body s
  | .setupWrite tag body => Sys2Proof.Machine.execSetupWrite tag body s
  | .setupRead tag body => Sys2Proof.Machine.execSetupRead tag body s
  | .recipeWrite tag body => Sys2Proof.Machine.execRecipeWrite tag body s
  | .recipeRead tag body => Sys2Proof.Machine.execRecipeRead tag body s
  | .recipeCopy tag body => Sys2Proof.Machine.execRecipeCopy tag body s
  | .recipeErase tag body => Sys2Proof.Machine.execRecipeErase tag body s
  | .refresh tag body => Sys2Proof.Machine.execRefresh tag body s
  | .paceWrite tag body => Sys2Proof.Machine.execPaceWrite tag body s
  | .paceRead tag body => Sys2Proof.Machine.execPaceRead tag body s
  | .zoneAdd tag body => Sys2Proof.Machine.execZoneAdd tag body s
  | .zoneClear tag body => Sys2Proof.Machine.execZoneClear tag body s
  | .zoneList tag body => Sys2Proof.Machine.execZoneList tag body s
  | .push tag body => Sys2Proof.Machine.execPush tag body s
  | .pop tag body => Sys2Proof.Machine.execPop tag body s
  | .setLift tag body => Sys2Proof.Machine.execSetLift tag body s
  | .releaseLift tag body => Sys2Proof.Machine.execReleaseLift tag body s
  | .releaseSensed tag body => Sys2Proof.Machine.execReleaseSensed tag body s
  | .releaseKnock tag body => Sys2Proof.Machine.execReleaseKnock tag body s
  | .spray tag body => Sys2Proof.Machine.execSpray tag body s
  | .clear tag body => Sys2Proof.Machine.execClear tag body s
  | .setOdometer tag body => Sys2Proof.Machine.execSetOdometer tag body s
  | .sensorRead tag body => Sys2Proof.Machine.execSensorRead tag body s
  | .restart tag body => Sys2Proof.Machine.execRestart tag body s
  | .wakeInactive => Sys2Proof.Machine.execWakeInactive s
  | .lenAbove56Discard len => Sys2Proof.Machine.execLenAbove56Discard len s

end Sys2Proof.Machine
end

