-- ==== Sys2Proof/Safety.lean ====
section
/-! DEFINITION. The terms in which statements about the 3620 are made: the manual's own laws of its records, as predicates
of a state, and what it means for a request to be taken and answered. -/

namespace Sys2Proof.Machine

/-! ## The laws of the records -/

/-- The Mode Control record agrees with Table 1-8 (R1): the target follows from the mode, the settle timer runs in SETTLE
alone, and the park-stop timer runs exactly in PARKING while the vehicle is stopped. -/
structure ModeRecordOk (s : State) : Prop where
  target : s.mc.target = s.mc.mode.target
  settle : s.mc.settleTimer.isSome = true ↔ s.mc.mode = .settle
  parkStop : s.mc.parkStopTimer.isSome = true ↔ s.mc.mode = .parking ∧ s.stopped = true

/-- The brake is released in the travel modes alone (R43), and outside them the drive's target, ramped target, correction,
command, demand and output are 0 with the clamp and overrun flags no (R30, R46). -/
structure DriveRestOk (s : State) : Prop where
  brake : s.drive.brk = s.mc.mode.travels
  rest : s.mc.mode.travels = false → s.drive = s.drive.zeroed

/-- The bounds of the Link Port: two places, sixteen reports, an error count up to 65535 (R166, R167, R169). -/
structure LinkOk (s : State) : Prop where
  places : s.link.rx.length ≤ 2
  reports : s.link.reports.length ≤ 16
  errors : s.link.errors ≤ 65535

/-- Each of the 23 fields lies in its range of Table 8-1, and a mask names no member beyond its set (R128). -/
def FieldsInRange (f : RecipeFields) : Prop :=
  ∀ i : Fin 23, match fieldLimits[i.val]? with
    | some (.range lo hi) => lo ≤ f[i] ∧ f[i] ≤ hi
    | some (.mask width) => 0 ≤ f[i] ∧ f[i] < 2 ^ width
    | none => False

/-- The properties the recipe table and the recipe stack have at all times (R127, R128, R132): slot 0 is valid, an invalid slot
holds the default fields and no dirty marks, the depth is 1 to 4, and every field of a slot or a stack entry lies in its
range. -/
structure RecipesOk (s : State) : Prop where
  slotZero : s.recipes.slots[0].valid = true
  invalid : ∀ n : Fin 32, s.recipes.slots[n].valid = false → s.recipes.slots[n] = Slot.invalid
  depth : 1 ≤ s.recipes.depth ∧ s.recipes.depth ≤ 4
  slots : ∀ n : Fin 32, FieldsInRange s.recipes.slots[n].fields
  entries : ∀ e ∈ s.recipes.base :: s.recipes.overrides, FieldsInRange e.fields

/-- Every stored parameter lies in the range its table gives it (R172), and each unit's stop_rpm lies below its start_rpm
(R66). -/
structure SetupOk (s : State) : Prop where
  range : ∀ (g n : Nat) (v : Int) (r : Int × Int),
    (s.setup.group g)[n]? = some v → setupRange g n = some r → r.1 ≤ v ∧ v ≤ r.2
  stops : ∀ u, s.setup.stopRpm u < s.setup.startRpm u

/-- The zone queue's law (R137): at most eight entries, in strictly ascending distance ahead of the odometer, each less
than 2^31 mm ahead; the reference is the odometer of the last update, which has been handled. -/
structure ZonesOk (s : State) : Prop where
  count : s.recipes.zones.length ≤ 8
  order : s.recipes.zones.Pairwise fun a b =>
    distanceAhead s.pcu.odometer a.mark < distanceAhead s.pcu.odometer b.mark
  ahead : ∀ z ∈ s.recipes.zones, distanceAhead s.pcu.odometer z.mark < 2 ^ 31
  reference : s.recipes.reference = s.pcu.odometer

/-- The law of the water (R96, R98, R100 to R103): in DRY and in LAG the command is 0, with every valve closed in DRY, and the
lag timer runs in LAG alone; in LEAD and FLOWING the command is above 0 and the valves are those of the wanted set; the pump is
driven in FLOWING alone; a command stands above 0 only under a flow target above 0, such a target only with a group wanted, and
none is wanted with the tank empty. The step, the dose and the flows lie in their ranges. -/
structure WaterOk (s : State) : Prop where
  dry : s.spray.seq = .dry → s.spray.command = 0 ∧ s.spray.valves = ⟨false, false, false, false⟩
  lag : s.spray.seq = .lag → s.spray.command = 0
  lagging : s.spray.lagTimer ≠ none → s.spray.seq = .lag
  wet : s.spray.seq = .lead ∨ s.spray.seq = .flowing → 0 < s.spray.command ∧ s.spray.valves = s.spray.wanted
  pump : s.spray.wpump ≠ 0 → s.spray.seq = .flowing
  target : 0 < s.spray.command → 0 < s.spray.q
  asked : s.spray.q ≠ 0 → 0 < s.spray.q ∧ s.spray.wanted ≠ ⟨false, false, false, false⟩
  tank : s.spray.wanted ≠ ⟨false, false, false, false⟩ → s.spray.empty = false
  ranges : 0 < s.spray.waterStep ∧ 0 ≤ s.spray.idleFlow ∧ 0 ≤ s.spray.doseMax ∧ 0 ≤ s.setup.flowFull

/-- The law of the arms: a posture is valid (R69); a spin action stands with a spin that is not OFF (R86, R87); no hold source
stands twice, and M holds LIFT and STALL alone (R73); a goal is what its base goal and its holds give (R72, R73); the manifold
queue holds at most one entry per unit, so at most three, and each of a unit that is WAITING (R80, R81); and where the
planner does not run no entry waits, no action is in progress, and every unit is IDLE or in FAULT (R91, R92). -/
structure ArmsOk (s : State) : Prop where
  posture : ∀ u, (s.armOf u).spin ≠ .off → (s.armOf u).height = .down
  spins : ∀ u, (s.armOf u).activity = .spinningUp ∨ (s.armOf u).activity = .spinningDown → (s.armOf u).spin ≠ .off
  holds : ∀ u, (s.armOf u).holds.Nodup
  broom : ∀ h ∈ (s.armOf .m).holds, h = .lift ∨ h = .stall
  goal : ∀ u, (s.armOf u).goal = goalOf u (s.armOf u).baseWorking (s.armOf u).holds
  single : (s.arms.queue.map QueueEntry.unit).Nodup
  three : s.arms.queue.length ≤ 3
  waiting : ∀ e ∈ s.arms.queue, (s.armOf e.unit).activity = .waiting
  rest : s.mc.mode = .standby ∨ s.mc.mode = .settle → s.arms.queue = [] ∧ s.arms.action = none ∧
    ∀ u, (s.armOf u).activity = .idle ∨ (s.armOf u).activity = .fault

/-! ## Requests -/

/-- The request is judged, in the mode in force, when it is taken now: it stands as the oldest request not yet taken, or no
request waits untaken, a place of the receive buffer is free for it, and its arrival does not wake the part (R167, assumption
log 3). -/
def Ready (kind tag : Byte) (body : List Byte) (s : State) : Prop :=
  s.link.untaken = some ⟨kind, tag, body, none⟩ ∨
    (s.link.untaken = none ∧ s.link.rx.length < 2 ∧ s.mc.mode ≠ .standby)

/-- The Link Port with the request in its receive buffer: where it stands already, or in the next place, with the frame
that brought it ended. -/
def LinkPort.holding (kind tag : Byte) (body : List Byte) (l : LinkPort) : LinkPort :=
  if l.untaken = some ⟨kind, tag, body, none⟩ then l
  else { l with rx := l.rx ++ [⟨kind, tag, body, none⟩], receiver := .waitSync }

/-- The Link Port at the end of a command that posted some reports: they have joined the queue, and the transmitter has
begun its next frame if it was free. -/
def LinkPort.reported (posted : List Report) (l : LinkPort) : LinkPort := (posted.foldl LinkPort.post l).transmit

/-- The Link Port at the end of a request: its reply stands with it in the receive buffer. -/
def LinkPort.answered (kind tag : Byte) (body reply : List Byte) (posted : List Report) (l : LinkPort) : LinkPort :=
  LinkPort.reported posted
    { l.holding kind tag body with rx := attachReply reply (l.holding kind tag body).rx }

/-- A state whose step has ended: the transmitter has begun its next frame if it was free. -/
def State.sent (s : State) : State := { s with link := s.link.transmit }

/-- The state with a request in its receive buffer. -/
def State.holding (kind tag : Byte) (body : List Byte) (s : State) : State :=
  { s with link := s.link.holding kind tag body }

/-- The state after a request's action and the attaching of its reply. -/
def State.replied (reply : List Byte) (s : State) : State :=
  { s with link := { s.link with rx := attachReply reply s.link.rx } }

/-- The state after a request that changed nothing else than to be answered. -/
def State.onlyAnswered (kind tag : Byte) (body reply : List Byte) (s : State) : State :=
  { s with link := s.link.answered kind tag body reply [] }

/-! ## What a command leaves alone, and what waking leaves -/

/-- Everything outside the arms, the brushes, the water, the conditions with the arbiter's two condition flags, and the
link port agrees. -/
structure SameAround (s t : State) : Prop where
  pins : t.pins = s.pins
  setup : t.setup = s.setup
  mc : t.mc = s.mc
  pcu : t.pcu = s.pcu
  drive : t.drive = s.drive
  arb : t.arb = { s.arb with derate := t.arb.derate, stop := t.arb.stop }
  recipes : t.recipes = s.recipes
  sensors : t.sensors = s.sensors
  clock : t.clock = s.clock
  free : t.free = s.free
  pending : t.pending = s.pending

/-- What waking leaves (R4, R17, R46, R67, R92, R107, R123, R146, R164), outside the pins, the postures of the arms, the
water's set and flow, the other conditions and the link port: the Monitor's tests and the tank test are made on the values
for use, which waking keeps, and a hold set stays. -/
structure Woken (s t : State) : Prop where
  mc : t.mc = ⟨.settle, .park, some (s.clock + if s.pins.settleStrap then 1000000 else 100000), none⟩
  pcu : t.pcu = { s.pcu with
    wl := ⟨0, 0, s.pcu.wl.included, 0, 0⟩
    wr := ⟨0, 0, s.pcu.wr.included, 0, 0⟩
    brushCount := ⟨0, 0, 0⟩
    sample := 0
    direction := .still
    remainder := 0
    brushRpm := ⟨0, 0, 0⟩
    wheelGateTimer := some (s.clock + 20000)
    brushGateTimer := some (s.clock + 100000) }
  drive : t.drive = { s.drive.zeroed with
    dwell := none, brk := false, requested := 0, requestTimer := none, held := none, overspeed := false
    periodTimer := some (s.clock + 10000) }
  segments : ∀ u, (t.brushOf u).index = 0 ∧ (t.brushOf u).reselect = (s.brushOf u).reselect
  arb : t.arb = { s.arb with
    periodTimer := some (s.clock + 10000), stale := true, derate := t.arb.derate, stop := t.arb.stop }
  roundTimer : t.sensors.roundTimer = some (s.clock + s.setup.roundPeriod.toNat * 1000)
  channels : t.sensors.channels = s.sensors.channels
  round : t.sensors = (sensorsWake s).sensors
  holds : ∀ u, (t.armOf u).holds = (s.armOf u).holds
  oilHigh : t.cond.oilHigh =
    if s.cond.oilHigh = .clear ∧ s.setup.oilHigh ≤ s.sensor .oilT then .present
    else if s.cond.oilHigh = .present ∧ s.sensor .oilT < s.setup.oilHigh - s.setup.oilHyst then .clear
    else s.cond.oilHigh
  oilOver : t.cond.oilOver =
    if s.cond.oilOver ≠ .present ∧ s.setup.oilOver ≤ s.sensor .oilT then .present
    else if s.cond.oilOver = .present ∧ s.sensor .oilT < s.setup.oilOver - s.setup.oilHyst then .latched
    else s.cond.oilOver
  loopOver : t.cond.loopOver =
    if s.cond.loopOver = .clear ∧
      (s.setup.loopOver ≤ s.sensor .drivePA ∨ s.setup.loopOver ≤ s.sensor .drivePB) then .present
    else if s.cond.loopOver = .present ∧ s.sensor .drivePA < s.setup.loopOver - s.setup.loopHyst ∧
      s.sensor .drivePB < s.setup.loopOver - s.setup.loopHyst then .clear
    else s.cond.loopOver
  low : t.spray.low = if s.spray.low then !decide (s.setup.tankLow + s.setup.tankHyst < s.sensor .tank)
    else decide (s.sensor .tank ≤ s.setup.tankLow)
  empty : t.spray.empty = if s.spray.empty then !decide (s.setup.tankEmpty + s.setup.tankHyst < s.sensor .tank)
    else decide (s.sensor .tank ≤ s.setup.tankEmpty)
  tankLow : t.cond.tankLow = if t.spray.low = s.spray.low then s.cond.tankLow
    else if t.spray.low then .present else if s.cond.tankLow = .present then .clear else s.cond.tankLow
  tankEmpty : t.cond.tankEmpty = if t.spray.empty = s.spray.empty then s.cond.tankEmpty
    else if t.spray.empty then .present else if s.cond.tankEmpty = .present then .clear else s.cond.tankEmpty
  setup : t.setup = s.setup
  recipes : t.recipes = s.recipes
  clock : t.clock = s.clock
  free : t.free = s.free
  pending : t.pending = s.pending

/-- The line after a RESTART (R154): a transaction in progress runs to its end, with its outcome to be discarded. -/
def discardedLine : Line → Line
  | .idle => .idle
  | .sending tx frame due => .sending { tx with orphan := true, discard := true } frame due
  | .window tx due => .window { tx with orphan := true, discard := true } due
  | .turnaround due => .turnaround due

/-- The round that an accepted RESTART begins (R146, R147, R152, R154): it uses the counter 0, so that every role with an address is
due in it. With none due it ends at once, and the counter is 1. On an idle line the first due role's IDENTIFY begins at
once, the channel being UNKNOWN and not identified; on any other line the round waits for it. -/
def RestartedRound (s : State) (m : SensorMaster) : Prop :=
  let due := [Role.drivePA, .drivePB, .auxP, .oilT, .tank, .dust, .curbL, .curbR].filter fun r => s.setup.address r ≠ 0
  let of (r : Role) : PollSettings := ⟨s.setup.queryFirst r, s.setup.holdWarming r⟩
  let begun (waiting : List Role) : Round :=
    ⟨waiting, none, ⟨of .drivePA, of .drivePB, of .auxP, of .oilT, of .tank, of .dust, of .curbL, of .curbR⟩, false⟩
  (due = [] → m.counter = 1 ∧ m.round = none ∧ m.line = discardedLine s.sensors.line) ∧
  (due ≠ [] → s.sensors.line ≠ .idle →
    m.counter = 0 ∧ m.round = some (begun due) ∧ m.line = discardedLine s.sensors.line) ∧
  (∀ r rest, due = r :: rest → s.sensors.line = .idle →
    let address : Byte := BitVec.ofNat 8 (s.setup.address r).toNat
    m.counter = 0 ∧ m.round = some (begun rest) ∧
    m.line = .sending ⟨r, .identify, address, s.setup.holdWarming r, false, false⟩
      [address, 0x10, 0x00, crc8 [address, 0x10, 0x00]] (s.clock + 160))

/-- What an accepted RESTART leaves (R13, R26, R45, R48, R60, R67, R72, R73, R92, R107, R111, R124, R142, R146, R151, R154, R159),
outside the conditions, the tank flags, the hold sets and the link port, and whether the ARMS demand counts as read. -/
structure Restarted (s t : State) : Prop where
  mc : t.mc = ⟨.settle, .park, some (s.clock + if s.pins.settleStrap then 1000000 else 100000), none⟩
  pcu : t.pcu = { s.pcu with
    wl := ⟨0, 0, true, 0, 0⟩
    wr := ⟨0, 0, true, 0, 0⟩
    brushCount := ⟨0, 0, 0⟩
    sample := 0
    direction := .still
    remainder := 0
    brushRpm := ⟨0, 0, 0⟩
    wheelGateTimer := some (s.clock + 20000)
    brushGateTimer := some (s.clock + 100000) }
  drive : t.drive = { s.drive.zeroed with
    dwell := none, brk := false, requested := 0, requestTimer := none, held := none, stale := false
    overspeed := false
    speedCap := fieldSpeedCap s.recipes.slots[0].fields
    accelStep := fieldAccelStep s.recipes.slots[0].fields
    decelStep := fieldDecelStep s.recipes.slots[0].fields }
  brush : ∀ u, (t.brushOf u).t = 0 ∧ (t.brushOf u).c = 0 ∧ (t.brushOf u).out = 0 ∧ (t.brushOf u).output = 0 ∧
    (t.brushOf u).demand = 0 ∧ (t.brushOf u).rampTimer = none ∧ (t.brushOf u).stallTimer = none ∧
    (t.brushOf u).lagTimer = none ∧ (t.brushOf u).starved = false ∧ (t.brushOf u).stalled = false ∧
    (t.brushOf u).lagging = false ∧ (t.brushOf u).index = 0 ∧
    (t.brushOf u).table = fieldTable s.recipes.slots[0].fields u ∧
    (t.brushOf u).reselect = (fieldTable s.recipes.slots[0].fields u != (s.brushOf u).table)
  brushCopies : ∀ u,
    ((s.brushOf u).spin = (s.armOf u).spin → (t.brushOf u).spin = .off) ∧
    (((s.brushOf u).heightDown = true ↔ (s.armOf u).height = .down) →
      ((t.brushOf u).heightDown = true ↔ (t.armOf u).height = .down))
  brushRates : t.brush.step = fieldStep s.recipes.slots[0].fields ∧ t.brush.upRate = fieldUpRate s.recipes.slots[0].fields ∧
    t.brush.downRate = fieldDownRate s.recipes.slots[0].fields
  posture : ∀ u, (t.armOf u).spin = .off ∧ (t.armOf u).reach = (s.pins.switches.get u).reach u ∧
    (t.armOf u).height = (s.pins.switches.get u).height
  activity : ∀ u, (t.armOf u).activity =
    if pairsClear (s.pins.switches.get u) then Activity.idle else Activity.fault
  goals : ∀ u, (t.armOf u).baseWorking = false ∧ (t.armOf u).goal = ⟨false, false, false⟩
  armTimers : ∀ u, (t.armOf u).spinDownTimer = none ∧ (t.armOf u).releaseTimer = none
  lastEnd : ∀ k, t.arms.lastEnd.get k =
    match s.arms.action with
    | some c => if c.kind = k then some s.clock else s.arms.lastEnd.get k
    | none => s.arms.lastEnd.get k
  manifold : t.arms.queue = [] ∧ t.arms.action = none ∧ t.arms.spacingTimer = none ∧ t.arms.demand = 0 ∧
    t.arms.unitsMask = fieldUnitsMask s.recipes.slots[0].fields
  water : t.spray =
    { enable := false
      brushOn := ⟨false, false, false⟩
      wanted := ⟨false, false, false, false⟩
      q := 0
      command := 0
      rampTimer := none
      seq := .dry
      leadTimer := none
      lagTimer := none
      valves := ⟨false, false, false, false⟩
      demand := 0
      pumpFlow := 0
      wpump := 0
      low := t.spray.low
      empty := t.spray.empty
      dose := fieldDose s.recipes.slots[0].fields
      doseMax := fieldDoseMax s.recipes.slots[0].fields
      dustBase := fieldDustBase s.recipes.slots[0].fields
      ctUp := fieldCtUp s.recipes.slots[0].fields
      ctDn := fieldCtDn s.recipes.slots[0].fields
      idleFlow := fieldIdleFlow s.recipes.slots[0].fields
      waterStep := fieldWaterStep s.recipes.slots[0].fields
      mask := fieldNozzleMask s.recipes.slots[0].fields }
  arb : t.arb.supply = s.arb.supply ∧ t.arb.stale = true ∧ t.arb.holdTimer = none ∧ t.arb.budget = 0 ∧
    t.arb.periodTimer = some (s.clock + 10000) ∧
    t.arb.consumers = recipeLevels s.recipes.slots[0].fields
      (s.arb.consumers.map fun c => { c with grant := 0, share := 1000 })
  reactions : (t.arb.derate = true ↔ t.cond.oilHigh = .present ∨ t.cond.loopOver = .present) ∧
    (t.arb.stop = true ↔ t.cond.oilOver = .present)
  recipes : t.recipes = { s.recipes with
    base := ⟨0, s.recipes.slots[0].fields⟩, overrides := [], zones := [], reference := s.pcu.odometer }
  channels : ∀ r, t.sensors.channels.get r = Channel.fresh (if s.setup.address r = 0 then .unassigned else .unknown)
  roundTimer : t.sensors.roundTimer = some (s.clock + s.setup.roundPeriod.toNat * 1000)
  dustBase : t.sensors.dustBase = fieldDustBase s.recipes.slots[0].fields
  round : RestartedRound s t.sensors
  setup : t.setup = s.setup
  pins : t.pins = s.pins
  clock : t.clock = s.clock
  free : t.free = s.free
  pending : t.pending = s.pending

/-! ## The requests of Table 11-4 -/

/-- The KIND, TAG and BODY of a request of Table 11-4; none for an event and for a request of unknown KIND. -/
def request? : Instr → Option (Byte × Byte × List Byte)
  | .status tag body => some (0x01, tag, body)
  | .setMode tag body => some (0x02, tag, body)
  | .travel tag body => some (0x03, tag, body)
  | .supply tag body => some (0x04, tag, body)
  | .setupWrite tag body => some (0x05, tag, body)
  | .setupRead tag body => some (0x06, tag, body)
  | .recipeWrite tag body => some (0x07, tag, body)
  | .recipeRead tag body => some (0x08, tag, body)
  | .recipeCopy tag body => some (0x09, tag, body)
  | .recipeErase tag body => some (0x0A, tag, body)
  | .refresh tag body => some (0x0B, tag, body)
  | .paceWrite tag body => some (0x0C, tag, body)
  | .paceRead tag body => some (0x0D, tag, body)
  | .zoneAdd tag body => some (0x0E, tag, body)
  | .zoneClear tag body => some (0x0F, tag, body)
  | .zoneList tag body => some (0x10, tag, body)
  | .push tag body => some (0x11, tag, body)
  | .pop tag body => some (0x12, tag, body)
  | .setLift tag body => some (0x13, tag, body)
  | .releaseLift tag body => some (0x13, tag, body)
  | .releaseSensed tag body => some (0x13, tag, body)
  | .releaseKnock tag body => some (0x13, tag, body)
  | .spray tag body => some (0x14, tag, body)
  | .clear tag body => some (0x15, tag, body)
  | .setOdometer tag body => some (0x16, tag, body)
  | .sensorRead tag body => some (0x17, tag, body)
  | .restart tag body => some (0x18, tag, body)
  | _ => none

/-- The length Table 11-4 gives the body of a KIND. -/
def lengthFits (kind : Byte) (len : Nat) : Bool :=
  match kind.toNat with
  | 0x01 | 0x0F | 0x10 | 0x12 | 0x18 => len == 0
  | 0x02 | 0x0A | 0x0D | 0x11 | 0x14 | 0x15 | 0x17 => len == 1
  | 0x03 | 0x04 | 0x08 | 0x09 | 0x0B | 0x13 => len == 2
  | 0x06 => len == 3
  | 0x16 => len == 4
  | 0x0E => len == 6
  | 0x0C => len == 28
  | 0x05 | 0x07 => len % 3 == 1 && decide (4 ≤ len) && decide (len ≤ 55)
  | _ => false

end Sys2Proof.Machine
end

