-- ==== Sys2Proof/Certificates/Slice0/Obligations.lean ====
section
/-! DEFINITION. The statements about the 3620 that are to be proved. The manual's numbered rules are named in the docstrings; a
clause that rests on a choice of the model names its assumption log entry. -/

open Sys2Proof Sys2Proof.Machine

/-! ## The queue of commands, and what every command does -/

/-- One step takes the command at the front of the queue and runs it on the state with the queue's rest. With no command
waiting a millisecond passes on the present time and nothing else changes. The model's choice (assumption log 6): every
timed effect of the manual arrives as an expiry command of its own. -/
def Obligations.StepTakesTheFrontCommand : Prop :=
  (∀ (s : State) (c : Instr) (rest : List Instr), s.pending = c :: rest →
     step s = exec c { s with pending := rest }) ∧
  (∀ s : State, s.pending = [] → step s = .next { s with clock := s.clock + 1000 })

/-- Every command answers a next state, leaves the queue of waiting commands to the step, and never turns the present time
back. The manual gives every command an effect; that none ever stops or is refused, an ill-formed command and the expiry
of a stopped timer included, is the model's choice (assumption logs 8, 22 and 24), as are that the time never runs back
(log 7) and that a hardware reset keeps the queue and the time (log 16). -/
def Obligations.EveryCommandAnswersANextState : Prop :=
  ∀ (c : Instr) (s : State), ∃ t, exec c s = .next t ∧ t.pending = s.pending ∧ s.clock ≤ t.clock

/-- The records that requests own are written by their own requests and by the reset alone: the setup (R172), the input
pins, the baud rate (R165), the odometer (R20, R25), the recipe slots (R127), the pace tables (R49), the recipe stack
(R132), the zone queue with its reference (R137), and the model's counter of free values (assumption log 4). -/
def Obligations.RecordsAreWrittenByTheirOwnCommands : Prop :=
  ∀ (c : Instr) (s t : State), exec c s = .next t →
    (match c with
      | .setupWrite _ _ | .hardwareReset => True
      | _ => t.setup = s.setup) ∧
    (match c with
      | .wakeActive | .wakeInactive | .endSwitchChange _ _ => True
      | _ => t.pins = s.pins) ∧
    (match c with
      | .hardwareReset => True
      | _ => t.link.baud = s.link.baud) ∧
    (match c with
      | .wheelGateClose | .setOdometer _ _ | .hardwareReset => True
      | _ => t.pcu.odometer = s.pcu.odometer) ∧
    (match c with
      | .recipeWrite _ _ | .recipeCopy _ _ | .recipeErase _ _ | .refresh _ _ | .hardwareReset => True
      | _ => t.recipes.slots = s.recipes.slots) ∧
    (match c with
      | .paceWrite _ _ | .hardwareReset => True
      | _ => t.recipes.pace = s.recipes.pace) ∧
    (match c with
      | .push _ _ | .pop _ _ | .refresh _ _ | .restart _ _ | .wheelGateClose | .setOdometer _ _ | .hardwareReset => True
      | _ => t.recipes.base = s.recipes.base ∧ t.recipes.overrides = s.recipes.overrides) ∧
    (match c with
      | .zoneAdd _ _ | .zoneClear _ _ | .restart _ _ | .wheelGateClose | .setOdometer _ _ | .hardwareReset => True
      | _ => t.recipes.zones = s.recipes.zones ∧ t.recipes.reference = s.recipes.reference) ∧
    (match c with
      | .recipeRead _ _ => True
      | _ => t.free = s.free)

/-! ## The laws that every step keeps -/

/-- R1, R9: whatever the command, the Mode Control record stays one of the rows of Table 1-8, each mode with its one
target, with the settle timer running in SETTLE alone and the park-stop timer exactly in PARKING while the vehicle is
stopped. -/
def Obligations.ModeRecordStaysARowOfTheTable : Prop :=
  ∀ s t : State, ModeRecordOk s → step s = .next t → ModeRecordOk t ∧
    ((t.mc.mode = .standby ∧ t.mc.target = .standby) ∨ (t.mc.mode = .settle ∧ t.mc.target = .park) ∨
      (t.mc.mode = .park ∧ t.mc.target = .park) ∨ (t.mc.mode = .transport ∧ t.mc.target = .transport) ∨
      (t.mc.mode = .work ∧ t.mc.target = .work) ∨ (t.mc.mode = .stowing ∧ t.mc.target = .transport) ∨
      (t.mc.mode = .parking ∧ t.mc.target = .park))

/-- R30, R43, R46: whatever the command, the brake is released in the travel modes alone, and in STANDBY, SETTLE and PARK
the drive's target, ramped target, correction, command, demand and output stay 0 with the clamp and overrun flags no. -/
def Obligations.DriveStaysAtRestOutsideTravelModes : Prop :=
  ∀ s t : State, DriveRestOk s → step s = .next t → DriveRestOk t

/-- R166, R167, R169: whatever the command, the receive buffer holds at most two requests, the report queue at most
sixteen reports, and the link error count stays at most 65535. -/
def Obligations.LinkBuffersStayWithinTheirSizes : Prop :=
  ∀ s t : State, LinkOk s → step s = .next t → LinkOk t

/-- R127, R128, R132: whatever the command, slot 0 stays valid, an invalid slot holds the default fields and no dirty
marks, every field of a slot or a stack entry stays in its range of Table 8-1, and the depth of the recipe stack stays
between 1 and 4. -/
def Obligations.RecipeTableAndStackStayLawful : Prop :=
  ∀ s t : State, RecipesOk s → step s = .next t → RecipesOk t

/-- R172, R66: whatever the command, every stored setup parameter stays in its range, and each unit's stop_rpm below its
start_rpm. R172, Table 11-5: the range of every parameter, by group and number; SENSOR numbers 24 and 36 are not listed
(R152), nor is any number beyond a group's last or any group above 6. -/
def Obligations.SetupStaysInRange : Prop :=
  (∀ s t : State, SetupOk s → step s = .next t → SetupOk t) ∧
  ([0, 1, 2, 3, 4, 5, 6].map setupRanges = [
     [some (1000, 11000), some (0, 100), some (0, 500), some (1, 500), some (0, 2000), some (100, 2000), some (10, 2000)],
     [some (1, 300), some (1, 300), some (1, 300), some (0, 299), some (0, 299), some (0, 299),
       some (50, 300), some (50, 300), some (50, 300), some (50, 2000), some (50, 2000), some (50, 2000),
       some (500, 10000), some (0, 300), some (500, 30000), some (1, 64)],
     [some (50, 600), some (1, 50), some (0, 2000), some (0, 5000), some (0, 4000), some (0, 4000), some (0, 500)],
     [some (200, 10000), some (0, 2000), some (0, 500), some (10, 100), some (1, 100)],
     [some (10, 100),
       some (0, 15), some (0, 1), some (0, 1), some (0, 4), some (1, 16), some (0, 5000),
       some (0, 15), some (0, 1), some (0, 1), some (0, 4), some (1, 16), some (0, 5000),
       some (0, 15), some (0, 1), some (0, 1), some (0, 4), some (1, 16), some (0, 5000),
       some (0, 15), some (0, 1), some (0, 1), some (0, 4), some (1, 16), none,
       some (0, 15), some (0, 1), some (0, 1), some (0, 4), some (1, 16), some (0, 4000),
       some (0, 15), some (0, 1), some (0, 1), some (0, 4), some (1, 16), none,
       some (0, 15), some (0, 1), some (0, 1), some (0, 4), some (1, 16), some (0, 2000),
       some (0, 15), some (0, 1), some (0, 1), some (0, 4), some (1, 16), some (0, 2000)],
     [some (1000, 11000), some (300, 6000), some (0, 3000), some (-40, 150), some (-40, 150), some (0, 20), some (0, 5000),
       some (0, 1000)],
     [some (0, 2000), some (0, 1000), some (0, 10000), some (500, 20000), some (500, 20000), some (500, 20000),
       some (100, 10000), some (0, 2000),
       some (0, 5000), some (0, 5000), some (0, 5000), some (0, 5000), some (0, 5000), some (0, 5000), some (0, 5000),
       some (0, 5000), some (0, 5000), some (0, 5000), some (0, 5000), some (0, 5000), some (0, 5000), some (0, 5000),
       some (0, 5000), some (0, 5000)]] ∧
   (∀ g n : Nat, setupRange g n = if g ≤ 6 then ((setupRanges g)[n]?).join else none))

/-- R137: whatever the command, the zone queue holds at most eight entries in strictly ascending distance ahead of the
odometer, each less than 2^31 mm ahead, and the reference odometer is the odometer last handled. -/
def Obligations.ZoneQueueStaysInOrderOfDistance : Prop :=
  ∀ s t : State, ZonesOk s → step s = .next t → ZonesOk t

/-- R69, R72, R73, R80, R81, R91: whatever the command, the arms stay lawful. A unit's spin is other than OFF only while
its height is DOWN, and a unit in a spin action has not lost its spin; no source stands twice in a hold set, and M has
neither SENSED nor KNOCK; a unit's goal is the one that its base goal and its hold set give; a unit has at most one entry
in the manifold queue, so that at most three stand in it, and it is WAITING while it has one; and in STANDBY and SETTLE
nothing waits, no cylinder moves, and every unit is IDLE or in FAULT. -/
def Obligations.ArmsStayLawful : Prop :=
  ∀ s t : State, ArmsOk s → step s = .next t → ArmsOk t

/-- The state after a reset obeys the laws that every step keeps. -/
def Obligations.ResetObeysTheLaws : Prop :=
  ModeRecordOk State.reset ∧ DriveRestOk State.reset ∧ LinkOk State.reset ∧ RecipesOk State.reset ∧
    SetupOk State.reset ∧ ZonesOk State.reset ∧ WaterOk State.reset ∧ ArmsOk State.reset

/-! ## Resets, waking and STANDBY -/

/-- R3, R24, R26, R48, R67, R92, R107, R124, R127, R142, R154, R164, R174, Tables 4-2, 8-1 and 11-5: what a hardware reset
leaves in the blocks, record by record: the default of every setup parameter, the four pace tables, the fields of the
slots and of the blocks' copies of slot 0, and every field of every block. The model's own: the demand read of each
consumer, 0 (assumption log 40); the places 24 and 36 of the SENSOR group, which hold 0 (log 27); that the ARMS demand
counts as read (log 13); the last announced dust_base of the Sensor Link Master (log 32); the main broom's reach ABSENT,
the sensor line idle, the receiver that waits for a SYNC and the free transmitter (log 33). The pins' levels, from which
57600 is read here, and the present time are the model's (logs 2, 16). R3, R165, R174: HARDWARE_RESET puts every block at
its reset value and reads the baud rate from the straps; with WAKE inactive the part stays in STANDBY, and with WAKE
active it is taken as the line going active. The pins, the present time, the counter of free values and the queue of
commands are not the part's and stay (assumption log 16). -/
def Obligations.HardwareResetLeavesTheStatedValues : Prop :=
  (let fields : Vector Int 23 :=
     #v[2500, 5, 10, 0, 0, 0, 10, 1, 1, 5, 30, 80, 500, 2, 1, 20, 20, 13, 1, 2, 2, 2, 1]
   State.reset.setup = {
     drive := #v[6000, 20, 150, 120, 300, 300, 100]
     brush := #v[40, 40, 40, 20, 20, 20, 150, 150, 250, 400, 400, 600, 2000, 20, 5000, 6]
     water := #v[500, 8, 200, 500, 400, 50, 30]
     power := #v[2000, 150, 20, 70, 10]
     sensor := #v[10, 1, 1, 0, 1, 1, 4200, 2, 1, 0, 1, 1, 4200, 3, 1, 0, 1, 1, 2000, 4, 0, 0, 3, 5, 0,
       5, 0, 0, 4, 10, 0, 6, 0, 0, 3, 2, 0, 7, 0, 0, 0, 1, 2000, 8, 0, 0, 0, 1, 2000]
     limits := #v[11000, 5000, 1500, 85, 100, 5, 4000, 200]
     arms := #v[150, 100, 500, 4000, 3000, 3000, 1500, 40, 300, 300, 200, 200, 300, 300, 200, 200,
       250, 250, 150, 400, 250, 250, 400, 150] } ∧
   (∀ k : Fin 4, State.reset.recipes.pace[k] = ⟨5, #v[0, 500, 1000, 2000, 3000, 0], #v[40, 60, 80, 100, 120, 0], 150⟩) ∧
   State.reset.mc = ⟨.standby, .standby, none, none⟩ ∧
   State.reset.pcu = {
     wl := ⟨0, 0, true, 0, 0⟩, wr := ⟨0, 0, true, 0, 0⟩, brushCount := ⟨0, 0, 0⟩, sample := 0, direction := .still
     odometer := 0, remainder := 0, brushRpm := ⟨0, 0, 0⟩, wheelGateTimer := none, brushGateTimer := none } ∧
   State.reset.drive = {
     requested := 0, requestTimer := none, stale := false, target := 0, held := none, dwell := none, ramped := 0
     correction := 0, clampFlag := false, dispCmd := 0, demand := 0, overrun := false, dispOut := 0, overspeed := false
     speedCap := 2500, accelStep := 5, decelStep := 10, periodTimer := none, brk := false } ∧
   (∀ u, State.reset.brushOf u = {
     table := 0, index := 0, reselect := false, spin := .off, heightDown := false, t := 0, c := 0, rampTimer := none
     demand := 0, out := 0, output := 0, stallTimer := none, lagTimer := none, starved := false, stalled := false
     lagging := false }) ∧
   State.reset.brush.step = 10 ∧ State.reset.brush.upRate = 1 ∧ State.reset.brush.downRate = 1 ∧
   (∀ u, State.reset.armOf u = {
     reach := if u = .m then .absent else .unknown, height := .unknown, spin := .off, baseWorking := false, holds := []
     goal := ⟨false, false, false⟩, activity := .idle, spinDownTimer := none, releaseTimer := none }) ∧
   State.reset.arms = {
     units := State.reset.arms.units, queue := [], action := none, lastEnd := ⟨none, none, none, none⟩, spacingTimer := none
     demand := 0, demandRead := true, unitsMask := ⟨true, false, true⟩ } ∧
   State.reset.spray = {
     enable := false, brushOn := ⟨false, false, false⟩, wanted := ⟨false, false, false, false⟩, q := 0, command := 0
     rampTimer := none, seq := .dry, leadTimer := none, lagTimer := none, valves := ⟨false, false, false, false⟩
     demand := 0, pumpFlow := 0, wpump := 0, low := false, empty := false, dose := 30, doseMax := 80, dustBase := 500
     ctUp := 2, ctDn := 1, idleFlow := 20, waterStep := 20, mask := ⟨true, false, true, true⟩ } ∧
   State.reset.arb = {
     supply := 0, stale := true, holdTimer := none, derate := false, stop := false, budget := 0, periodTimer := none
     consumers := ⟨⟨3, 0, 0, 1000⟩, ⟨1, 0, 0, 1000⟩, ⟨2, 0, 0, 1000⟩, ⟨2, 0, 0, 1000⟩, ⟨2, 0, 0, 1000⟩, ⟨1, 0, 0, 1000⟩⟩ } ∧
   (∀ n : Fin 32, State.reset.recipes.slots[n] = ⟨decide (n = 0), fields, Vector.replicate 23 false⟩) ∧
   State.reset.recipes.base = ⟨0, fields⟩ ∧ State.reset.recipes.overrides = [] ∧
   State.reset.recipes.zones = [] ∧ State.reset.recipes.reference = 0 ∧
   (∀ r, State.reset.sensors.channels.get r = ⟨.unknown, false, 0, 0, 0, 0, 0, none⟩) ∧
   State.reset.sensors = {
     channels := State.reset.sensors.channels, counter := 0, roundTimer := none, round := none, line := .idle
     dustBase := 500 } ∧
   (∀ k, State.reset.cond.get k = if k = .supplyStale then .present else .clear) ∧
   State.reset.cond.presentCount = 1 ∧ State.reset.cond.latchedCount = 0 ∧
   State.reset.link = {
     baud := 57600, receiver := .waitSync, rx := [], reports := [], lost := false, errors := 0, tx := none } ∧
   State.reset.attn = false) ∧
  (∀ s : State,
     let baud := match s.pins.baud1, s.pins.baud0 with
       | false, false => 57600
       | false, true => 115200
       | true, false => 230400
       | true, true => 460800
     let restored := { State.reset with
       pins := s.pins, clock := s.clock, free := s.free, pending := s.pending,
       link := { State.reset.link with baud := baud } }
     (s.pins.wake = false → exec .hardwareReset s = .next restored) ∧
     (s.pins.wake = true → exec .hardwareReset s = exec .wakeActive { restored with pins := { s.pins with wake := false } }))

/-- R4, R17, R46, R67, R92, R107, R123, R146, R164: what waking leaves: the records of the blocks, the hold sets as they
were, a round begun, and the tests of the oil, the loop and the tank made on the values for use. The WAKE line going
active wakes the part in STANDBY. That the MODE report stands before the other reports of the waking, and that a round
which still waits for its last transaction ends at the waking, are the model's choices (assumption logs 9, 14). R4: the
WAKE line has no effect but on its own level when it goes inactive, when it stands active already, and in every mode other
than STANDBY. The frame that ends at the transmitter's next turn is no effect of the line. R91, R88: what a unit's
switches show. One active switch of a pair gives its value, none and both give UNKNOWN; the reach of M, which has no such
pair, is ABSENT. R91, R88, Table 5-9: at waking every unit's spin is OFF and its reach and height are what its switches
show, with the unit in FAULT when both switches of a pair are active, when that raised its switch condition, or while one
of its two latching conditions stands; the timers of the arms are stopped, the manifold rests, and the last end times and
the units mask are kept. The premise is what entry to STANDBY leaves: no cylinder action and no entry waits. -/
def Obligations.WakeLineWakesThePartInStandby : Prop :=
  (∀ s : State, s.mc.mode = .standby → s.pins.wake = false →
     ∃ t more, exec .wakeActive s = .next t ∧ Woken s t ∧ t.pins = { s.pins with wake := true } ∧
       t.link = s.link.reported (.mode .settle .park :: more)) ∧
  (∀ s : State,
     exec .wakeInactive s = .next { s with pins := { s.pins with wake := false }, link := s.link.transmit } ∧
     (s.pins.wake = true → exec .wakeActive s = .next s.sent) ∧
     (s.mc.mode ≠ .standby →
       exec .wakeActive s = .next { s with pins := { s.pins with wake := true }, link := s.link.transmit })) ∧
  (∀ w : Switches,
     (∀ u : BrushUnit, u ≠ .m →
       (w.reach u = .isIn ↔ w.isIn = true ∧ w.out = false) ∧
       (w.reach u = .out ↔ w.isIn = false ∧ w.out = true) ∧
       (w.reach u = .unknown ↔ w.isIn = w.out)) ∧
     w.reach .m = .absent ∧
     (w.height = .up ↔ w.up = true ∧ w.down = false) ∧
     (w.height = .down ↔ w.up = false ∧ w.down = true) ∧
     (w.height = .unknown ↔ w.up = w.down)) ∧
  (∀ (s t : State) (u : BrushUnit), s.mc.mode = .standby → s.pins.wake = false → s.arms.queue = [] →
     s.arms.action = none → exec .wakeActive s = .next t →
     let w := s.pins.switches.get u
     (t.armOf u).spin = .off ∧ (t.armOf u).reach = w.reach u ∧ (t.armOf u).height = w.height ∧
     (t.armOf u).spinDownTimer = none ∧ (t.armOf u).releaseTimer = none ∧ t.arms.spacingTimer = none ∧
     t.arms.queue = [] ∧ t.arms.action = none ∧ t.arms.lastEnd = s.arms.lastEnd ∧ t.arms.unitsMask = s.arms.unitsMask ∧
     (s.arms.demand = 0 → t.arms.demand = 0) ∧
     ((w.isIn = true ∧ w.out = true ∨ w.up = true ∧ w.down = true) →
       (t.armOf u).activity = .fault ∧ t.cond.switch.get u = .present) ∧
     (¬(w.isIn = true ∧ w.out = true ∨ w.up = true ∧ w.down = true) →
       (t.armOf u).activity = (if t.cond.armTimeout.get u = .clear ∧ t.cond.switch.get u = .clear then .idle else .fault)))

/-- R5, R9, R14: the settle timer's expiry enters PARK from SETTLE and the park-stop timer's expiry enters PARK from
PARKING, each with its MODE report, the drive at rest and the brake applied (R43, R46), and, from SETTLE, the requested
speed 0 and the request timer started (R29). Every record outside the arms, the brushes, the water and the conditions
keeps its value. R91, R107, R72, R79: spraying is not allowed in PARK, so no group is wanted and the flow target is 0; the
goals of L, R and M are then formed, and from SETTLE the planner runs for L, R and M in that order. That the MODE report
stands before the other reports of the entry, and the order in which the goals are formed, are the model's choices
(assumption log 9). -/
def Obligations.SettleAndParkStopExpiriesEnterPark : Prop :=
  ∀ (s : State) (due : Nat),
    let dry : Nozzles := ⟨false, false, false, false⟩
    let goals (x : State) := reformGoal .m (reformGoal .r (reformGoal .l x))
    let planned (x : State) := replan .m (replan .r (replan .l x))
    let entered (around x : State) : Prop := SameAround around x ∧ x.arms = s.arms ∧ x.brush = s.brush ∧
      x.spray.wanted = dry ∧ x.spray.q = 0 ∧
      ∃ told : List Report, x.link = (Report.mode .park .park :: told).foldl LinkPort.post s.link
    (s.mc.settleTimer = some due →
      let parked := { s with
        clock := Nat.max s.clock due
        mc := ⟨.park, .park, none, none⟩
        drive := { s.drive.zeroed with
          dwell := none, brk := false, overspeed := false, requested := 0,
          requestTimer := some (Nat.max s.clock due + s.setup.requestTimeout.toNat * 1000) } }
      ∃ x t more, entered parked x ∧ t = (planned (goals x)).sent ∧ exec .settleTimerExpiry s = .next t ∧
        SameAround parked t ∧ t.spray.wanted = dry ∧ t.spray.q = 0 ∧
        t.link = s.link.reported (.mode .park .park :: more)) ∧
    (s.mc.parkStopTimer = some due →
      let parked := { s with
        clock := Nat.max s.clock due
        mc := ⟨.park, .park, none, none⟩
        drive := { s.drive.zeroed with dwell := none, brk := false, overspeed := false } }
      ∃ x t more, entered parked x ∧ t = (goals x).sent ∧ exec .parkStopTimerExpiry s = .next t ∧
        SameAround parked t ∧ t.spray.wanted = dry ∧ t.spray.q = 0 ∧
        t.link = s.link.reported (.mode .park .park :: more))

/-- R6, R8, R9, R10, R14 and Table 1-10: SET_MODE outside SETTLE and STANDBY, for every mode and every number. A change of
mode is the entry that its own statement describes; everything else leaves the part as it is but for the reply. R7: the
two checks of a SET_MODE in PARK. A STOP-class record is OIL_OVER alone, PRESENT or LATCHED; and every unit is STOWED when
L and R are IN, UP and OFF and M is UP and OFF, whatever their masks and activities. R8, R9, R14, R42, R43: entering
TRANSPORT, WORK, STOWING or PARKING sets the mode with its target, stops the settle timer, starts the park-stop timer of
500 ms in PARKING when the vehicle is stopped, posts the MODE report, releases the brake and, in PARKING, clears the
overspeed flag with its notice, which clears a PRESENT overspeed record with its report, behind the MODE report (the
model's order, assumption log 9); the drive keeps everything else. The wanted set is formed: spraying is allowed in WORK
and STOWING alone. The goals of L, R and M are then formed in that order (log 9). -/
def Obligations.SetModeFollowsItsTable : Prop :=
  (∀ (s : State) (tag m : Byte), Ready 0x02 tag [m] s → s.mc.mode ≠ .settle → s.mc.mode ≠ .standby →
     let h := s.holding 0x02 tag [m]
     let answered (r : Result) (x : State) := (x.replied [r.code]).sent
     let result : State :=
       if m.toNat = 0 then
         if s.mc.mode = .park then answered .ok (enterStandby h) else answered .refusedMode h
       else if m.toNat = 2 then
         if s.mc.mode = .park ∨ s.mc.mode = .parking then answered .ok h else answered .ok (enterTravel .parking h)
       else if m.toNat = 3 then
         if s.mc.mode = .park then
           if s.cond.stopRecorded then answered .refusedCond h
           else if s.allStowed then answered .ok (enterTravel .transport h) else answered .notStowed h
         else if s.mc.mode = .parking then answered .busy h
         else if s.mc.mode = .work then
           answered .ok (if s.allStowed then enterTravel .transport h else enterTravel .stowing h)
         else answered .ok h
       else if m.toNat = 4 then
         if s.mc.mode = .park then
           if s.cond.stopRecorded then answered .refusedCond h else answered .ok (enterTravel .work h)
         else if s.mc.mode = .parking then answered .busy h
         else if s.mc.mode = .work then answered .ok h
         else answered .ok (enterTravel .work h)
       else answered .refusedMode h
     exec (.setMode tag [m]) s = .next result) ∧
  (∀ s : State,
     (s.cond.stopRecorded = true ↔ s.cond.get .oilOver = .present ∨ s.cond.get .oilOver = .latched) ∧
     (s.allStowed = true ↔
       (∀ u : BrushUnit, (s.armOf u).height = .up ∧ (s.armOf u).spin = .off) ∧
       (s.armOf .l).reach = .isIn ∧ (s.armOf .r).reach = .isIn)) ∧
  (∀ (s : State) (m : Mode), m.travels = true →
     let t := enterTravelBlocks m s
     let told := m = .parking ∧ s.drive.overspeed = true ∧ s.cond.get .overspeed = .present
     t.mc = ⟨m, m.target, none, if m = .parking ∧ s.stopped then some (s.clock + 500000) else none⟩ ∧
     t.drive = { s.drive with brk := true, overspeed := if m = .parking then false else s.drive.overspeed } ∧
     (¬ told → t.link = s.link.post (.mode m m.target) ∧ t.cond = s.cond) ∧
     (told → t.cond = s.cond.set .overspeed .clear ∧ t.link = (s.link.post (.mode m m.target)).post
       (.condition .overspeed .present .clear t.cond.presentCount t.cond.latchedCount)) ∧
     t.arb = s.arb ∧
     (m ≠ .work → m ≠ .stowing → t.spray.wanted = ⟨false, false, false, false⟩ ∧ t.spray.q = 0) ∧
     t.spray = (formWanted { s with mc := t.mc }).spray ∧
     t.pins = s.pins ∧ t.setup = s.setup ∧ t.pcu = s.pcu ∧ t.brush = s.brush ∧ t.arms = s.arms ∧
     t.recipes = s.recipes ∧ t.sensors = s.sensors ∧ t.clock = s.clock ∧
     enterTravel m s = reformGoal .m (reformGoal .r (reformGoal .l t)))

/-- R10, R14, R17, R42, R46, R67, R91, R107, R123, R146: what entry to STANDBY leaves: the MODE report posted, every
output at rest, every timer of the blocks stopped and the queue of the manifold empty. The starved, stalled and lagging
flags and the overspeed flag that were yes are no with their notices, so that a PRESENT record becomes CLEAR, or LATCHED
for a stall; every other record of the condition table stays. The round ends with the counter advanced, or, while a
transaction is in progress, waits for its end with no further role due. Postures, hold sets, the last end times of other
kinds, the supply, the levels, the channel records, the recipes and the odometer are kept. That the MODE report stands
before the other reports is the model's choice (assumption log 9). -/
def Obligations.EnteringStandbyBringsEveryBlockToRest : Prop :=
  ∀ s : State,
    let t := enterStandby s
    let busy := (∃ tx frame due, s.sensors.line = .sending tx frame due) ∨ ∃ tx due, s.sensors.line = .window tx due
    (∃ more : List Report, t.link = (Report.mode .standby .standby :: more).foldl LinkPort.post s.link) ∧
    (∀ k, t.cond.get k = match k with
      | .brushStarved u => if (s.brushOf u).starved = true ∧ s.cond.get k = .present then .clear else s.cond.get k
      | .brushLag u => if (s.brushOf u).lagging = true ∧ s.cond.get k = .present then .clear else s.cond.get k
      | .brushStall u => if (s.brushOf u).stalled = true ∧ s.cond.get k = .present then .latched else s.cond.get k
      | .overspeed => if s.drive.overspeed = true ∧ s.cond.get k = .present then .clear else s.cond.get k
      | k => s.cond.get k) ∧
    t.mc = ⟨.standby, .standby, none, none⟩ ∧
    t.pcu = { s.pcu with wheelGateTimer := none, brushGateTimer := none } ∧
    t.drive = { s.drive.zeroed with
      dwell := none, brk := false, overspeed := false, requested := 0, requestTimer := none, periodTimer := none } ∧
    (∀ u, (t.brushOf u).t = 0 ∧ (t.brushOf u).c = 0 ∧ (t.brushOf u).out = 0 ∧ (t.brushOf u).output = 0 ∧
      (t.brushOf u).demand = 0 ∧ (t.brushOf u).rampTimer = none ∧ (t.brushOf u).stallTimer = none ∧
      (t.brushOf u).lagTimer = none ∧ (t.brushOf u).starved = false ∧ (t.brushOf u).stalled = false ∧
      (t.brushOf u).lagging = false ∧ (t.brushOf u).index = (s.brushOf u).index ∧ (t.brushOf u).spin = (s.brushOf u).spin) ∧
    (∀ u, (t.armOf u).reach = (s.armOf u).reach ∧ (t.armOf u).height = (s.armOf u).height ∧
      (t.armOf u).spin = (s.armOf u).spin ∧ (t.armOf u).holds = (s.armOf u).holds ∧
      (t.armOf u).activity = (if (s.armOf u).activity = .fault then .fault else .idle) ∧
      (t.armOf u).baseWorking = false ∧ (t.armOf u).spinDownTimer = none ∧ (t.armOf u).releaseTimer = none) ∧
    t.arms.queue = [] ∧ t.arms.action = none ∧ t.arms.spacingTimer = none ∧ t.arms.demand = 0 ∧
    (∀ k, t.arms.lastEnd.get k =
      match s.arms.action with
      | some c => if c.kind = k then some s.clock else s.arms.lastEnd.get k
      | none => s.arms.lastEnd.get k) ∧
    t.spray.q = 0 ∧ t.spray.command = 0 ∧ t.spray.demand = 0 ∧ t.spray.pumpFlow = 0 ∧ t.spray.wpump = 0 ∧
    t.spray.seq = .dry ∧ t.spray.valves = ⟨false, false, false, false⟩ ∧ t.spray.rampTimer = none ∧
    t.spray.leadTimer = none ∧ t.spray.lagTimer = none ∧ t.spray.enable = s.spray.enable ∧ t.spray.low = s.spray.low ∧
    t.spray.empty = s.spray.empty ∧
    t.arb.periodTimer = none ∧ t.arb.holdTimer = none ∧ t.arb.budget = 0 ∧ t.arb.supply = s.arb.supply ∧
    t.arb.stale = s.arb.stale ∧
    (∀ c, t.arb.consumers.get c = { s.arb.consumers.get c with grant := 0, share := 1000 }) ∧
    (s.sensors.round = none → t.sensors = { s.sensors with roundTimer := none }) ∧
    (∀ x, s.sensors.round = some x → busy → t.sensors = { s.sensors with
      roundTimer := none, round := some { x with due := [], follow := none, closing := true } }) ∧
    (s.sensors.round ≠ none → ¬ busy → t.sensors = { s.sensors with
      roundTimer := none, round := none, counter := (s.sensors.counter + 1) % 65536 }) ∧
    t.recipes = s.recipes ∧ t.setup = s.setup ∧ t.pins = s.pins ∧ t.clock = s.clock

/-- R13, R171: RESTART is refused with REFUSED_MODE in STANDBY and, outside PARK, while the vehicle moves, with nothing
else changed; otherwise it is accepted with OK. Accepted, it enters SETTLE, and the MODE report is the first in the
emptied report queue (R174); setup, the recipe slots, the pace tables, the odometer and the link error count are kept, and
every record takes its values of Tables 1-11, 2-3, 3-6, 4-7, 5-9, 6-5, 7-6, 8-2 and 9-6. A sensor transaction in progress
runs on with its outcome discarded, and a round with counter 0 begins, which ends at once, with the counter 1, when no
role is due. R164, R92, R104, R111, R154, R157, R158: the condition table is cleared and tested again: OIL_HIGH and
SUPPLY_STALE are PRESENT, a switch kind is when both switches of a pair are active, and every other kind but OIL_OVER,
LOOP_OVER and the tank kinds is CLEAR. The model's choices: the MODE report stands before the others (assumption log 9);
the channels start afresh behind the Spray Controller's and the arms' own resets and before the last tests, in role order,
each role's readers told before the next (logs 9 and 39), so that TANK_LOW, TANK_EMPTY with the tank flags, OIL_OVER and
LOOP_OVER follow the substitutes, and a SENSED that an arm's curb channel, usable before, takes again by its substitute is
kept. R107 lets the blocks take the RESTART in either order: an old reading tested first may leave TANK_LOW or TANK_EMPTY
PRESENT under a substitute within the hysteresis, or OIL_OVER LATCHED. -/
def Obligations.RestartIsAcceptedInParkOrStopped : Prop :=
  ∀ (s : State) (tag : Byte), Ready 0x18 tag [] s → s.mc.mode ≠ .settle →
    let h := s.holding 0x18 tag []
    (s.mc.mode = .standby ∨ (s.mc.mode ≠ .park ∧ s.stopped = false) →
      exec (.restart tag []) s = .next (h.replied [0x11]).sent) ∧
    (s.mc.mode = .park ∨ (s.mc.mode ≠ .standby ∧ s.stopped = true) →
      ∃ t more, exec (.restart tag []) s = .next t ∧ Restarted s t ∧
        (∀ u, (t.armOf u).holds = if u ≠ .m ∧ s.usable (curbRole u) = true ∧
          s.setup.storedSubstitute (curbRole u) < s.setup.obstacle then [.sensed] else []) ∧
        (SetupOk s →
          let raised (p : Bool) : CondState := if p then .present else .clear
          let w (u : BrushUnit) := s.pins.switches.get u
          let loop := max (s.setup.storedSubstitute .drivePA) (s.setup.storedSubstitute .drivePB)
          t.spray.low = decide (s.setup.storedSubstitute .tank ≤ s.setup.tankLow) ∧
          t.spray.empty = decide (s.setup.storedSubstitute .tank ≤ s.setup.tankEmpty) ∧
          (∀ k, k ≠ .loopOver → t.cond.get k = raised (match k with
            | .oilHigh | .supplyStale => true
            | .oilOver => decide (s.setup.oilOver ≤ s.setup.oilHigh)
            | .tankLow => decide (s.setup.storedSubstitute .tank ≤ s.setup.tankLow)
            | .tankEmpty => decide (s.setup.storedSubstitute .tank ≤ s.setup.tankEmpty)
            | .switch u => ((w u).isIn && (w u).out) || ((w u).up && (w u).down)
            | _ => false)) ∧
          (s.setup.loopOver ≤ loop → t.cond.loopOver = .present) ∧
          (loop < s.setup.loopOver - s.setup.loopHyst → t.cond.loopOver = .clear)) ∧
        t.link = LinkPort.reported (.mode .settle .park :: more)
          { h.link with rx := attachReply [0x00] h.link.rx, reports := [], lost := false })

/-! ## The link port -/

/-- R166, R167, R4: a frame received to its last byte. It is discarded, with the error count raised, for a length above 56
or a wrong CRC; otherwise it takes a place, or is discarded with the count raised when both are occupied, and in STANDBY
it wakes the part either way. That the MODE report is the first of the waking is the model's choice (assumption log 9).
R166: a gap within a frame and a LEN above 56 discard the frame and raise the error count, which stops at 65535; after a
gap the byte that ends it is examined as a SYNC. That an event of a LEN of 56 or less discards nothing is the model's
choice (assumption log 22). R166, R167, R4 (assumption log 3, the model's choice: a request's row that has no place yet is
its arrival): outside STANDBY a request that arrives with another waiting untaken takes the free place and waits its turn,
and one that finds both places occupied is discarded with the error count raised; either way its frame has ended, so that
the receiver waits for a SYNC; nothing else changes in that step. R4, R5, R166, R167: in STANDBY the arrival of a request
wakes the part, placed or discarded, and ends its frame; with no other untaken it is then judged in SETTLE: BAD_LENGTH or
UNKNOWN_KIND as in every mode, STATUS answered with the values after the waking, and every other BUSY. -/
def Obligations.ReceivedFrameTakesAPlaceOrIsDiscarded : Prop :=
  (∀ (s : State) (kind tag : Byte) (body : List Byte) (crc : Word16),
     let raised := Nat.min 65535 (s.link.errors + 1)
     let arrived : LinkPort :=
       if s.link.rx.length < 2 then
         { s.link with rx := s.link.rx ++ [⟨kind, tag, body, none⟩], receiver := .waitSync }
       else { s.link with errors := raised, receiver := .waitSync }
     let good := body.length ≤ 56 ∧ crc = crc16 (byte body.length :: kind :: tag :: body)
     (¬ good → exec (.frameReceived kind tag body crc) s =
       .next { s with link := LinkPort.transmit { s.link with errors := raised, receiver := .waitSync } }) ∧
     (good → s.mc.mode ≠ .standby →
       exec (.frameReceived kind tag body crc) s = .next { s with link := arrived.transmit }) ∧
     (good → s.mc.mode = .standby →
       ∃ t more, exec (.frameReceived kind tag body crc) s = .next t ∧ Woken s t ∧ t.pins = s.pins ∧
         t.link = arrived.reported (.mode .settle .park :: more))) ∧
  (∀ (s : State) (b : Byte),
     let raised := Nat.min 65535 (s.link.errors + 1)
     exec (.interByteGapTimeout b) s = .next { s with link := LinkPort.transmit { s.link with
       errors := raised, receiver := if b = 0xC3 then .inFrame else .waitSync } } ∧
     (56 < b.toNat → exec (.lenAbove56Discard b) s = .next { s with link := LinkPort.transmit { s.link with
       errors := raised, receiver := .waitSync } }) ∧
     (b.toNat ≤ 56 → exec (.lenAbove56Discard b) s = .next s.sent)) ∧
  (∀ (c : Instr) (s : State) (kind tag : Byte) (body : List Byte),
     request? c = some (kind, tag, body) ∨ (c = .unknownKind kind tag body ∧ (kind.toNat = 0 ∨ 0x18 < kind.toNat)) →
     s.link.untaken ≠ some ⟨kind, tag, body, none⟩ → s.mc.mode ≠ .standby →
     (s.link.untaken ≠ none → s.link.rx.length < 2 →
       exec c s = .next { s with link := LinkPort.transmit { s.link with
         rx := s.link.rx ++ [⟨kind, tag, body, none⟩], receiver := .waitSync } }) ∧
     (2 ≤ s.link.rx.length →
       exec c s = .next { s with link := LinkPort.transmit { s.link with
         errors := Nat.min 65535 (s.link.errors + 1), receiver := .waitSync } })) ∧
  (∀ (c : Instr) (s : State) (kind tag : Byte) (body : List Byte),
     request? c = some (kind, tag, body) ∨ (c = .unknownKind kind tag body ∧ (kind.toNat = 0 ∨ 0x18 < kind.toNat)) →
     s.link.untaken ≠ some ⟨kind, tag, body, none⟩ → s.mc.mode = .standby →
     let placed : LinkPort :=
       if s.link.rx.length < 2 then
         { s.link with rx := s.link.rx ++ [⟨kind, tag, body, none⟩], receiver := .waitSync }
       else { s.link with errors := Nat.min 65535 (s.link.errors + 1), receiver := .waitSync }
     ∃ (w : State) (more : List Report), Woken s w ∧ w.pins = s.pins ∧
       w.link = (Report.mode .settle .park :: more).foldl LinkPort.post placed ∧
       (s.link.untaken ≠ none ∨ 2 ≤ s.link.rx.length → exec c s = .next w.sent) ∧
       (s.link.untaken = none → s.link.rx.length < 2 →
         (request? c = none → exec c s = .next (w.replied [0x1F]).sent) ∧
         (request? c ≠ none → lengthFits kind body.length = false → exec c s = .next (w.replied [0x1E]).sent) ∧
         (request? c ≠ none → lengthFits kind body.length = true → kind ≠ 0x01 →
           exec c s = .next (w.replied [0x10]).sent) ∧
         (request? c ≠ none → lengthFits kind body.length = true → kind = 0x01 →
           exec c s = .next (State.replied (statusBody w) { w with link := { w.link with lost := false } }).sent)))

/-- R165 and Table 11-1: a link frame is SYNC, LEN, KIND, TAG, the body and a CRC of two bytes, high byte first; the CRC
is the remainder rule of x^16 + x^12 + x^5 + 1 from FFFFh, byte by byte and most significant bit first, over LEN, KIND,
TAG and body. -/
def Obligations.FramesCarryTheirChecks : Prop :=
  (∀ (kind tag : Byte) (body : List Byte),
    frameBytes kind tag body =
      [0xC3, BitVec.ofNat 8 body.length, kind, tag] ++ body ++
        [(crc16 (BitVec.ofNat 8 body.length :: kind :: tag :: body)).extractLsb' 8 8,
          (crc16 (BitVec.ofNat 8 body.length :: kind :: tag :: body)).extractLsb' 0 8]) ∧
  crc16 [] = 0xFFFF ∧
  (∀ (bytes : List Byte) (b : Byte), crc16 (bytes ++ [b]) =
    (List.range 8).foldl
      (fun (c : Word16) _ => if c.getMsbD 0 then (c <<< 1) ^^^ 0x1021 else c <<< 1)
      (crc16 bytes ^^^ (b ++ (0 : Byte)))) ∧
  crc8 [] = 0 ∧
  (∀ (bytes : List Byte) (b : Byte), crc8 (bytes ++ [b]) =
    (List.range 8).foldl (fun (c : Byte) _ => if c.getMsbD 0 then (c <<< 1) ^^^ 0x07 else c <<< 1) (crc8 bytes ^^^ b))

/-- R169, R170, R167: FRAME_TRANSMIT_END always answers a next state. The end of a frame frees the transmitter, and the
place of the request whose reply was sent; the oldest pending reply is then sent, with KIND + 80h and its request's TAG,
or else the report at the head of the queue, which leaves the queue and clears the report-lost flag. With no frame in
transmission it ends none, and the transmitter begins its next frame: the model's choice (assumption log 8). Table 11-8,
R169: the KINDs 40h to 44h and the bodies of the five reports. Byte 0 is the flags byte, with the report-lost flag in bit
0 and 0 in the other bits, which is the model's choice (assumption log 46). The numbers of modes, conditions, units,
postures, activities and holds are those of Tables 1-8, 10-1 and 11-7; a value of four bytes stands high byte first. R169:
a report joins the queue behind those waiting; with sixteen waiting it is dropped and the report-lost flag is set. ATTN is
active exactly while the queue holds a report. R167, R170: the oldest pending reply, and the place that is freed when it
has been sent, with no, one or two places occupied. R168, R166: the reply to a request that is judged carries the
request's KIND + 80h and TAG when the transmitter is free and no older reply is pending. For an unknown KIND of 80h or
above the sum is taken modulo 256: the model's choice (assumption log 45). After any command the transmitter is free only
when no reply is pending and no report waits. That the transmitter begins its next frame at the end of every command is
the model's choice (assumption log 25). -/
def Obligations.TransmitterSendsRepliesBeforeReports : Prop :=
  (∀ s : State,
     (s.link.tx = none → exec .frameTransmitEnd s = .next s.sent) ∧
     (∀ was : Transmission, s.link.tx = some was →
       let rx := if was.isReply then freePlace s.link.rx else s.link.rx
       let free : LinkPort := { s.link with tx := none, rx := rx }
       (∀ (p : Place) (reply : List Byte), free.pendingReply = some (p, reply) →
         exec .frameTransmitEnd s = .next { s with link := { free with
           tx := some ⟨true, frameBytes (p.kind + 0x80) p.tag reply⟩ } }) ∧
       (free.pendingReply = none → s.link.reports = [] → exec .frameTransmitEnd s = .next { s with link := free }) ∧
       (∀ (r : Report) (rest : List Report), free.pendingReply = none → s.link.reports = r :: rest →
         exec .frameTransmitEnd s = .next { s with link := { free with
           tx := some ⟨false, frameBytes r.kind 0 (r.body s.link.lost)⟩, reports := rest, lost := false } }))) ∧
  (∀ lost : Bool,
     let flags : Byte := if lost then 1 else 0
     let mode (m : Mode) : Byte := match m with
       | .standby => 0 | .settle => 1 | .park => 2 | .transport => 3 | .work => 4 | .stowing => 5 | .parking => 6
     let record (c : CondState) : Byte := match c with
       | .clear => 0 | .present => 1 | .latched => 2
     let unit (u : BrushUnit) : Byte := match u with
       | .l => 0 | .r => 1 | .m => 2
     let hold (h : Hold) : Byte := match h with
       | .sensed => 0 | .knock => 1 | .lift => 2 | .stall => 3
     let cause (c : UnitCause) : List Byte := match c with
       | .goal => [0, 0xFF] | .fault => [1, 0xFF] | .holdTaken h => [2, hold h] | .holdReleased h => [3, hold h]
     let reach (x : Reach) : Nat := match x with
       | .isIn => 0 | .out => 1 | .unknown => 2 | .absent => 3
     let height (x : Height) : Nat := match x with
       | .up => 0 | .down => 1 | .unknown => 2
     let spin (x : Spin) : Nat := match x with
       | .off => 0 | .spinningUp => 1 | .on => 2 | .spinningDown => 3
     let activity (x : Activity) : Byte := match x with
       | .idle => 0 | .waiting => 1 | .moving .swingOut => 2 | .moving .swingIn => 3 | .moving .lift => 4
       | .moving .lower => 5 | .spinningUp => 6 | .spinningDown => 7 | .fault => 8
     let sends (r : Report) (kind : Byte) (body : List Byte) : Prop := r.kind = kind ∧ r.body lost = flags :: body
     (∀ m t, sends (.mode m t) 0x40 [mode m, mode t]) ∧
     (∀ k before after present latched, sends (.condition k before after present latched) 0x41
       [BitVec.ofNat 8 k.number, record before, record after, BitVec.ofNat 8 present, BitVec.ofNat 8 latched]) ∧
     (∀ tag (slot : Fin 32) (mark : Word32) outcome, sends (.zone tag slot mark outcome) 0x42
       [tag, BitVec.ofNat 8 slot.val, BitVec.ofNat 8 (mark.toNat / 16777216), BitVec.ofNat 8 (mark.toNat / 65536),
         BitVec.ofNat 8 (mark.toNat / 256), BitVec.ofNat 8 mark.toNat,
         match outcome with | .entered => 0 | .skipped => 1 | .dropped => 2]) ∧
     (∀ u c x y z act holds, sends (.unit u c x y z act holds) 0x43
       ([unit u] ++ cause c ++ [BitVec.ofNat 8 (64 * reach x + 16 * height y + spin z), activity act,
         BitVec.ofNat 8 holds.length] ++ (holds.map hold ++ [0xFF, 0xFF, 0xFF, 0xFF]).take 4)) ∧
     (∀ depth (top : Fin 32) c, sends (.recipe depth top c) 0x44
       [BitVec.ofNat 8 depth, BitVec.ofNat 8 top.val, match c with | .push => 0 | .pop => 1 | .refresh => 2 | .zone => 3]) ∧
     (([.oilHigh, .oilOver, .loopOver, .tankLow, .tankEmpty, .brushStall .l, .brushStall .r, .brushStall .m, .brushLag .l,
       .brushLag .r, .brushLag .m, .brushStarved .l, .brushStarved .r, .brushStarved .m, .armTimeout .l, .armTimeout .r,
       .armTimeout .m, .switch .l, .switch .r, .switch .m, .sensorLost .drivePA, .sensorLost .drivePB, .sensorLost .auxP,
       .sensorLost .oilT, .sensorLost .tank, .sensorLost .dust, .sensorLost .curbL, .sensorLost .curbR, .wheelPickup,
       .supplyStale, .requestStale, .overspeed] : List CondKind).map CondKind.number = List.range 32)) ∧
  (∀ (s : State) (r : Report),
     (s.link.reports.length < 16 → s.post r = { s with link := { s.link with reports := s.link.reports ++ [r] } }) ∧
     (16 ≤ s.link.reports.length → s.post r = { s with link := { s.link with lost := true } }) ∧
     (s.attn = true ↔ s.link.reports ≠ [])) ∧
  (∀ (l : LinkPort),
     (l.rx = [] → l.pendingReply = none) ∧
     (∀ p, l.rx = [p] →
       (p.reply = none → l.pendingReply = none ∧ freePlace l.rx = [p]) ∧
       (∀ a, p.reply = some a → l.pendingReply = some (p, a) ∧ freePlace l.rx = [])) ∧
     (∀ p q, l.rx = [p, q] →
       (p.reply = none → q.reply = none → l.pendingReply = none ∧ freePlace l.rx = [p, q]) ∧
       (∀ a, p.reply = some a → l.pendingReply = some (p, a) ∧ freePlace l.rx = [q]) ∧
       (∀ a, p.reply = none → q.reply = some a → l.pendingReply = some (q, a) ∧ freePlace l.rx = [p]))) ∧
  (∀ (l : LinkPort) (kind tag : Byte) (body reply : List Byte), l.tx = none → l.rx = [] →
     l.answered kind tag body reply [] =
       { l with
         rx := [⟨kind, tag, body, some reply⟩], receiver := .waitSync
         tx := some ⟨true, frameBytes (kind + 0x80) tag reply⟩ }) ∧
  (∀ (c : Instr) (s t : State), exec c s = .next t → t.link.tx = none → t.link.pendingReply = none ∧ t.link.reports = [])

/-- R167, R168: a request of unknown KIND is answered UNKNOWN_KIND in every mode, with the code alone, and changes
nothing. R167, R168, Table 11-4: a request whose body has another length than its kind's is answered BAD_LENGTH in every
mode, with the code alone, and changes nothing. R5, R171: in SETTLE every request of a correct body length other than
STATUS is answered BUSY, with the code alone, and changes nothing. R171, Table 11-3: SET_MODE, TRAVEL, SUPPLY,
SET_ODOMETER and RESTART are refused with REFUSED_MODE in STANDBY, and SETUP_WRITE outside STANDBY, PARK and SETTLE; the
code stands alone and nothing changes. -/
def Obligations.RequestsAreCheckedBeforeTheyAreJudged : Prop :=
  (∀ (s : State) (kind tag : Byte) (body : List Byte), kind.toNat = 0 ∨ 0x18 < kind.toNat → Ready kind tag body s →
     exec (.unknownKind kind tag body) s = .next (s.onlyAnswered kind tag body [0x1F])) ∧
  (∀ (c : Instr) (s : State) (kind tag : Byte) (body : List Byte),
     request? c = some (kind, tag, body) → lengthFits kind body.length = false → Ready kind tag body s →
     exec c s = .next (s.onlyAnswered kind tag body [0x1E])) ∧
  (∀ (c : Instr) (s : State) (kind tag : Byte) (body : List Byte),
     request? c = some (kind, tag, body) → kind ≠ 0x01 → lengthFits kind body.length = true → Ready kind tag body s →
     s.mc.mode = .settle → exec c s = .next (s.onlyAnswered kind tag body [0x10])) ∧
  (∀ (c : Instr) (s : State) (kind tag : Byte) (body : List Byte),
     request? c = some (kind, tag, body) → lengthFits kind body.length = true → Ready kind tag body s →
     (s.mc.mode = .standby → kind ∈ ([0x02, 0x03, 0x04, 0x16, 0x18] : List Byte) →
       exec c s = .next (s.onlyAnswered kind tag body [0x11])) ∧
     (s.mc.mode ≠ .standby → s.mc.mode ≠ .park → s.mc.mode ≠ .settle → kind = 0x05 →
       exec c s = .next (s.onlyAnswered kind tag body [0x11])))

/-- R173, R169, Tables 1-8, 11-6 and 11-7: STATUS is taken in every mode; it answers the 56 bytes that stand when it is
taken, with the report-lost flag in bit 0 of the last, and clears that flag. A consumer's three bytes hold the grant in
the upper twelve bits and the share in the lower twelve; a posture byte holds reach, height and spin in bits 7 to 6, 5 to
4 and 1 to 0; a value of two bytes or four stands high byte first. -/
def Obligations.StatusAnswersTheStandingValues : Prop :=
  ∀ (s : State) (tag : Byte), Ready 0x01 tag [] s →
    let h := s.holding 0x01 tag []
    let number (m : Mode) : Byte := match m with
      | .standby => 0 | .settle => 1 | .park => 2 | .transport => 3 | .work => 4 | .stowing => 5 | .parking => 6
    let three (c : Consumer) : List Byte :=
      let g := (s.arb.consumers.get c).grant
      let p := (s.arb.consumers.get c).share
      [BitVec.ofInt 8 (g / 16), BitVec.ofInt 8 (g % 16 * 16 + p / 256 % 16), BitVec.ofInt 8 p]
    let posture (u : BrushUnit) : Byte :=
      let reach : Nat := match (s.armOf u).reach with
        | .isIn => 0 | .out => 1 | .unknown => 2 | .absent => 3
      let height : Nat := match (s.armOf u).height with
        | .up => 0 | .down => 1 | .unknown => 2
      let spin : Nat := match (s.armOf u).spin with
        | .off => 0 | .spinningUp => 1 | .on => 2 | .spinningDown => 3
      BitVec.ofNat 8 (64 * reach + 16 * height + spin)
    let activity (u : BrushUnit) : Byte := match (s.armOf u).activity with
      | .idle => 0 | .waiting => 1 | .moving .swingOut => 2 | .moving .swingIn => 3 | .moving .lift => 4
      | .moving .lower => 5 | .spinningUp => 6 | .spinningDown => 7 | .fault => 8
    (∀ v : Int, bytes16 v = [BitVec.ofInt 8 (v / 256), BitVec.ofInt 8 v]) ∧
    (∀ w : Word32, bytes32 w = [BitVec.ofNat 8 (w.toNat / 16777216), BitVec.ofNat 8 (w.toNat / 65536),
      BitVec.ofNat 8 (w.toNat / 256), BitVec.ofNat 8 w.toNat]) ∧
    exec (.status tag []) s = .next ((State.replied (statusBody s) { h with link := { h.link with lost := false } }).sent) ∧
    (statusBody s).length = 56 ∧
    (statusBody s)[0]? = some 0x00 ∧
    (statusBody s)[1]? = some (number s.mc.mode) ∧
    (statusBody s)[2]? = some (number s.mc.target) ∧
    ((statusBody s).drop 3).take 4 = bytes32 s.pcu.odometer ∧
    ((statusBody s).drop 7).take 2 = bytes16 s.pcu.sample ∧
    (-32768 ≤ s.pcu.wl.speed → s.pcu.wl.speed ≤ 32767 → ((statusBody s).drop 9).take 2 = bytes16 s.pcu.wl.speed) ∧
    (-32768 ≤ s.pcu.wr.speed → s.pcu.wr.speed ≤ 32767 → ((statusBody s).drop 11).take 2 = bytes16 s.pcu.wr.speed) ∧
    ((statusBody s).drop 13).take 2 = bytes16 s.drive.ramped ∧
    ((statusBody s).drop 15).take 2 = bytes16 s.drive.dispOut ∧
    ((statusBody s).drop 17).take 2 = bytes16 s.arb.budget ∧
    ((statusBody s).drop 19).take 18 =
      three .arms ++ three .drive ++ three .broomM ++ three .brushL ++ three .brushR ++ three .water ∧
    ((statusBody s).drop 37).take 6 =
      bytes16 s.pcu.brushRpm.l ++ bytes16 s.pcu.brushRpm.r ++ bytes16 s.pcu.brushRpm.m ∧
    ((statusBody s).drop 43).take 3 = [posture .l, posture .r, posture .m] ∧
    ((statusBody s).drop 46).take 3 = [activity .l, activity .r, activity .m] ∧
    (statusBody s)[49]? = some (BitVec.ofNat 8 (s.recipes.depth * 32 + s.recipes.top.source.val)) ∧
    (statusBody s)[50]? = some (BitVec.ofNat 8 s.recipes.zones.length) ∧
    (statusBody s)[51]? = some (BitVec.ofNat 8 s.cond.presentCount) ∧
    (statusBody s)[52]? = some (BitVec.ofNat 8 s.cond.latchedCount) ∧
    ((statusBody s).drop 53).take 2 = bytes16 s.link.errors ∧
    (statusBody s)[55]? =
      some (BitVec.ofNat 8 ((if s.link.lost then 1 else 0) + (if s.drive.overrun then 2 else 0)))

/-! ## The Pulse Capture Unit -/

/-- R16, R17: an edge on a wheel channel's A line counts +1 when it rises with B low or falls with B high, and −1
otherwise, saturating at −32768 and 32767, where a count stays until its gate ends; a rising edge on a brush channel
counts 1, saturating at 65535, and a falling edge nothing; in STANDBY every edge is ignored. Nothing else changes. -/
def Obligations.PulseEdgesAreCountedBySignAndSaturate : Prop :=
  ∀ (s : State) (rising bHigh : Bool),
    let n : Int := if (rising && !bHigh) || (!rising && bHigh) then 1 else -1
    let counted (w : Wheel) : Wheel :=
      if w.count ≤ -32768 ∨ 32767 ≤ w.count then w else { w with count := w.count + n }
    (s.mc.mode = .standby → ∀ ch, exec (.pulseEdge ch rising bHigh) s = .next s.sent) ∧
    (s.mc.mode ≠ .standby →
      exec (.pulseEdge .wl rising bHigh) s =
        .next { s with pcu := { s.pcu with wl := counted s.pcu.wl }, link := s.link.transmit } ∧
      exec (.pulseEdge .wr rising bHigh) s =
        .next { s with pcu := { s.pcu with wr := counted s.pcu.wr }, link := s.link.transmit } ∧
      (rising = false → ∀ ch ∈ [PulseChannel.bl, .br, .bm], exec (.pulseEdge ch rising bHigh) s = .next s.sent) ∧
      (rising = true → ∀ p ∈ [(PulseChannel.bl, BrushUnit.l), (.br, .r), (.bm, .m)],
        exec (.pulseEdge p.1 rising bHigh) s = .next { s with
          pcu := { s.pcu with brushCount :=
            s.pcu.brushCount.set p.2 (min 65535 (s.pcu.brushCount.get p.2 + 1)) }
          link := s.link.transmit }))

/-- R21, R22: the exclusion and readmission tests of a wheel at a gate close, by the counts and by whether the two wheels
were included before it: exclusion after 50 gates in a row with count 0 beside a partner that counts 3 or more,
readmission after five gates in a row with a count. A wheel is not tested while its partner is excluded. R17, R18, R20,
R21, R22: the close of a wheel gate. Both wheels are tested, each by both wheels' states before the gate: the model's
choice (assumption log 35); each wheel's speed is its count × 50000 / ppm toward zero; the sample is the halved sum of the
included wheels toward zero, saturated; the direction follows it; the increment joins the remainder and the whole
millimetres the odometer; the counts are cleared and the gate runs again for 20 ms. The tests of L and R then give their
WHEEL_PICKUP notices, the sample reaches the overspeed test (R42), the brushes L, R, M (R53), the flow target (R96) and
the park-stop test (R9), and the odometer update the Recipe Unit (R19, R140), in the model's order (assumption log 9).
R20: no distance is lost at a gate: with 1 or more pulses per metre, the whole millimetres taken and the remainder left
make up the old remainder and the increment, the remainder has the sign of their total and a magnitude below 2 × ppm, and
the odometer moves by the whole millimetres modulo 2^32. -/
def Obligations.WheelGateFormsSpeedAndDistance : Prop :=
  (∀ w partner : Wheel,
     (w.included = true → partner.included = false → wheelTest w partner = (w, .none)) ∧
     (w.included = true → partner.included = true →
       (w.count = 0 ∧ 3 ≤ |partner.count| →
         (w.faultRun + 1 < 50 → wheelTest w partner = ({ w with faultRun := w.faultRun + 1 }, .none)) ∧
         (50 ≤ w.faultRun + 1 →
           wheelTest w partner = ({ w with included := false, faultRun := 0, readmitRun := 0 }, .excluded))) ∧
       (¬ (w.count = 0 ∧ 3 ≤ |partner.count|) → wheelTest w partner = ({ w with faultRun := 0 }, .none))) ∧
     (w.included = false →
       (w.count = 0 → wheelTest w partner = ({ w with readmitRun := 0 }, .none)) ∧
       (w.count ≠ 0 → w.readmitRun + 1 < 5 →
         wheelTest w partner = ({ w with readmitRun := w.readmitRun + 1 }, .none)) ∧
       (w.count ≠ 0 → 5 ≤ w.readmitRun + 1 →
         wheelTest w partner = ({ w with included := true, faultRun := 0, readmitRun := 0 }, .readmitted)))) ∧
  (∀ (s : State) (due : Nat), s.pcu.wheelGateTimer = some due →
     let ppm := s.setup.ppm
     let wl := (wheelTest s.pcu.wl s.pcu.wr).1
     let wr := (wheelTest s.pcu.wr s.pcu.wl).1
     let vl := (s.pcu.wl.count * 50000).tdiv ppm
     let vr := (s.pcu.wr.count * 50000).tdiv ppm
     let plain := if wl.included && wr.included then (vl + vr).tdiv 2 else if wl.included then vl else vr
     let sample := max (-32768) (min 32767 plain)
     let increment := if wl.included && wr.included then (s.pcu.wl.count + s.pcu.wr.count) * 1000
       else if wl.included then 2 * s.pcu.wl.count * 1000 else 2 * s.pcu.wr.count * 1000
     let total := s.pcu.remainder + increment
     let whole := total.tdiv (2 * ppm)
     let gated := { s.atTime due with pcu := { s.pcu with
       wl := { wl with count := 0, speed := vl }
       wr := { wr with count := 0, speed := vr }
       sample := sample
       direction := if 50 ≤ sample then .forward else if sample ≤ -50 then .reverse else .still
       odometer := s.pcu.odometer + BitVec.ofInt 32 whole
       remainder := total - whole * (2 * ppm)
       wheelGateTimer := some (Nat.max s.clock due + 20000) } }
     let told (news : WheelNews) (x : State) : State := match news with
       | .none => x
       | .excluded => notice .wheelPickup true x
       | .readmitted => notice .wheelPickup false x
     let stands (x : State) : State :=
       if x.mc.mode = .parking then { x with mc := { x.mc with parkStopTimer :=
         if |x.pcu.sample| < 50 then (if x.mc.parkStopTimer = none then some (x.clock + 500000) else x.mc.parkStopTimer)
         else none } }
       else x
     let sampled := overspeedTest (told (wheelTest s.pcu.wr s.pcu.wl).2 (told (wheelTest s.pcu.wl s.pcu.wr).2 gated))
     let t := odometerUpdate (stands (evaluateFlow
       (brushSpeedSample .m (brushSpeedSample .r (brushSpeedSample .l sampled)))))
     exec .wheelGateClose s = .next t.sent ∧ t.pcu = gated.pcu ∧
       t.recipes.reference = t.pcu.odometer ∧ t.clock = Nat.max s.clock due ∧ t.setup = s.setup ∧ t.pins = s.pins) ∧
  (∀ (ppm increment : Int) (p : PulseCapture), 0 < ppm →
     ∃ whole : Int,
       (addTravel ppm increment p).odometer = p.odometer + BitVec.ofInt 32 whole ∧
       whole * (2 * ppm) + (addTravel ppm increment p).remainder = p.remainder + increment ∧
       |(addTravel ppm increment p).remainder| < 2 * ppm ∧
       0 ≤ (addTravel ppm increment p).remainder * (p.remainder + increment) ∧
       (addTravel ppm increment p).wl = p.wl ∧ (addTravel ppm increment p).wr = p.wr ∧
       (addTravel ppm increment p).sample = p.sample)

/-- R23, R17: the close of a brush gate gives each brush count × 600 / ppr rpm, rounded down and saturated at 300, clears
the counts and runs the gate again for 100 ms; the sample then reaches the stall and lag tests of the three units and
after them their spin actions, each in the order L, R, M: the model's order (assumption log 9). R86, R87: at a brush
sample a SPIN_UP completes at stop_rpm or more and a SPIN_DOWN with the command and the rpm at 0, and the planner runs;
every other unit is left alone. The spin-down timer's expiry completes a SPIN_DOWN in progress, and changes nothing else
when none is. -/
def Obligations.BrushGateMeasuresTheBrushes : Prop :=
  (∀ (s : State) (due : Nat), s.pcu.brushGateTimer = some due → 0 < s.setup.ppr →
     let gated := { s.atTime due with pcu := { s.pcu with
       brushRpm := ⟨min 300 (s.pcu.brushCount.l * 600 / s.setup.ppr), min 300 (s.pcu.brushCount.r * 600 / s.setup.ppr),
         min 300 (s.pcu.brushCount.m * 600 / s.setup.ppr)⟩
       brushCount := ⟨0, 0, 0⟩
       brushGateTimer := some (Nat.max s.clock due + 100000) } }
     exec .brushGateClose s = .next (forUnits armBrushSample (forUnits brushSample gated)).sent) ∧
  (∀ (s : State) (u : BrushUnit),
     let a := s.armOf u
     let rpm := s.pcu.brushRpm.get u
     let ended (x : State) := runPlanner u (setSpin u .off (x.putArm u { a with spinDownTimer := none }))
     (a.activity = .spinningUp → s.setup.stopRpm u ≤ rpm → armBrushSample u s = runPlanner u (setSpin u .on s)) ∧
     (a.activity = .spinningUp → rpm < s.setup.stopRpm u → armBrushSample u s = s) ∧
     (a.activity = .spinningDown → (s.brushOf u).c = 0 ∧ rpm = 0 → armBrushSample u s = ended s) ∧
     (a.activity = .spinningDown → ¬ ((s.brushOf u).c = 0 ∧ rpm = 0) → armBrushSample u s = s) ∧
     (a.activity ≠ .spinningUp → a.activity ≠ .spinningDown → armBrushSample u s = s) ∧
     (∀ due, a.spinDownTimer = some due →
       (a.activity = .spinningDown → exec (.spinDownTimerExpiry u) s = .next (ended (s.atTime due)).sent) ∧
       (a.activity ≠ .spinningDown → exec (.spinDownTimerExpiry u) s =
         .next ((s.atTime due).putArm u { a with spinDownTimer := none }).sent)))

/-- R25: SET_ODOMETER is refused with BUSY while the zone queue holds an entry; otherwise the odometer takes the value,
the remainder becomes 0 and the reply is OK. With an empty queue the update reaches the reference and changes nothing
else. -/
def Obligations.SetOdometerNeedsAnEmptyZoneQueue : Prop :=
  ∀ (s : State) (tag a b c d : Byte), Ready 0x16 tag [a, b, c, d] s →
    (s.mc.mode = .settle → exec (.setOdometer tag [a, b, c, d]) s = .next (s.onlyAnswered 0x16 tag [a, b, c, d] [0x10])) ∧
    (s.mc.mode = .standby → exec (.setOdometer tag [a, b, c, d]) s = .next (s.onlyAnswered 0x16 tag [a, b, c, d] [0x11])) ∧
    (s.mc.mode ≠ .settle → s.mc.mode ≠ .standby → s.recipes.zones ≠ [] →
      exec (.setOdometer tag [a, b, c, d]) s = .next (s.onlyAnswered 0x16 tag [a, b, c, d] [0x10])) ∧
    (s.mc.mode ≠ .settle → s.mc.mode ≠ .standby → s.recipes.zones = [] →
      exec (.setOdometer tag [a, b, c, d]) s = .next { s with
        pcu := { s.pcu with odometer := a ++ b ++ c ++ d, remainder := 0 }
        recipes := { s.recipes with reference := a ++ b ++ c ++ d }
        link := s.link.answered 0x16 tag [a, b, c, d] [0x00] [] })

/-! ## The Drive Regulator -/

/-- R28: TRAVEL outside SETTLE and STANDBY stores the speed, clamped to −3000 and 11000 with the reply CLAMPED, starts the
request timer again, and clears the stale flag with its notice when it was yes. R29: the request timer's expiry sets the
requested speed to 0 and leaves the timer stopped; the stale flag becomes yes with its notice when it was no, and no
notice is given when it was yes. -/
def Obligations.TravelStoresTheRequestedSpeed : Prop :=
  (∀ (s : State) (tag hi lo : Byte), Ready 0x03 tag [hi, lo] s →
     let v : Int := (hi ++ lo : BitVec 16).toInt
     let stored := max (-3000) (min 11000 v)
     let taken := { s.holding 0x03 tag [hi, lo] with drive := { s.drive with
       requested := stored, requestTimer := some (s.clock + s.setup.requestTimeout.toNat * 1000), stale := false } }
     (s.mc.mode = .settle → exec (.travel tag [hi, lo]) s = .next (s.onlyAnswered 0x03 tag [hi, lo] [0x10])) ∧
     (s.mc.mode = .standby → exec (.travel tag [hi, lo]) s = .next (s.onlyAnswered 0x03 tag [hi, lo] [0x11])) ∧
     (s.mc.mode ≠ .settle → s.mc.mode ≠ .standby →
       exec (.travel tag [hi, lo]) s = .next
         (State.replied [if v < -3000 ∨ 11000 < v then 0x01 else 0x00]
           (if s.drive.stale then notice .requestStale false taken else taken)).sent)) ∧
  (∀ (s : State) (due : Nat), s.drive.requestTimer = some due →
     let expired := { s.atTime due with drive := { s.drive with requested := 0, requestTimer := none, stale := true } }
     exec .requestTimerExpiry s = .next (if s.drive.stale then expired else notice .requestStale true expired).sent)

/-- R30, R43: in SETTLE and PARK the drive period sets T, R, C, the command, the demand and the output to 0 and both flags
to no; in the travel modes it performs the stages in order. Either way the timer runs again for 10 ms, and nothing outside
the drive changes. R37, R38, R39: the feed-forward, the correction with its three cases in order and its limit, and the
command limited by the sign of R with the clamp flag; the command is 0 or of the sign of R. R40, R41: the demand is 0 for
a zero command and in overrun, and otherwise the working pressure × |disp_cmd| × Kd / 600000 toward zero, at most 2000;
the output is the command scaled by the share toward zero, never above the command and never of the other sign, and drives
PFWD when positive and PREV when negative. -/
def Obligations.DrivePeriodRunsTheStagesOrRests : Prop :=
  (∀ (s : State) (due : Nat), s.drive.periodTimer = some due →
     let x := s.atTime due
     (s.mc.mode = .settle ∨ s.mc.mode = .park →
       exec .drivePeriodExpiry s = .next { x with
         drive := { s.drive with
           target := 0, ramped := 0, correction := 0, dispCmd := 0, demand := 0, dispOut := 0, clampFlag := false,
           overrun := false, periodTimer := some (x.clock + 10000) }
         link := s.link.transmit }) ∧
     (s.mc.mode = .transport ∨ s.mc.mode = .work ∨ s.mc.mode = .stowing ∨ s.mc.mode = .parking →
       exec .drivePeriodExpiry s = .next { x with
         drive := { outputStage x (demandStage x (commandStage x (correctionStage x (rampStage (directionStage x s.drive)))))
           with periodTimer := some (x.clock + 10000) }
         link := s.link.transmit })) ∧
  (∀ (s : State) (d : Drive), 0 ≤ s.setup.corrMax →
     let c := correctionStage s d
     let m := commandStage s d
     let sum := (d.ramped * 1000).tdiv s.setup.vFull + d.correction
     (d.ramped = 0 → s.stopped = true → c = { d with correction := 0 }) ∧
     (¬ (d.ramped = 0 ∧ s.stopped = true) → s.arb.consumers.drive.share < 1000 ∨ d.clampFlag = true → c = d) ∧
     (¬ (d.ramped = 0 ∧ s.stopped = true) → 1000 ≤ s.arb.consumers.drive.share → d.clampFlag = false →
       c = { d with correction := max (-s.setup.corrMax) (min s.setup.corrMax
         (d.correction + ((d.ramped - s.pcu.sample) * s.setup.ki).tdiv 1000)) }) ∧
     (0 < d.ramped → m = { d with
       dispCmd := max 0 (min 1000 sum), clampFlag := decide (max 0 (min 1000 sum) ≠ sum) }) ∧
     (d.ramped < 0 → m = { d with
       dispCmd := max (-1000) (min 0 sum), clampFlag := decide (max (-1000) (min 0 sum) ≠ sum) }) ∧
     (d.ramped = 0 → m = { d with dispCmd := 0, clampFlag := decide (0 ≠ sum) }) ∧
     0 ≤ m.dispCmd * d.ramped) ∧
  (∀ (s : State) (d : Drive), 0 ≤ s.arb.consumers.drive.share → s.arb.consumers.drive.share ≤ 1000 →
     let a := s.sensor .drivePA
     let b := s.sensor .drivePB
     let working := if 0 < d.dispCmd then a else b
     let other := if 0 < d.dispCmd then b else a
     let o := outputStage s d
     (d.dispCmd = 0 → demandStage s d = { d with demand := 0, overrun := false }) ∧
     (d.dispCmd ≠ 0 → working < other → demandStage s d = { d with demand := 0, overrun := true }) ∧
     (d.dispCmd ≠ 0 → other ≤ working → demandStage s d = { d with
       demand := min 2000 ((working * |d.dispCmd| * s.setup.kd).tdiv 600000), overrun := false }) ∧
     o = { d with dispOut := (d.dispCmd * s.arb.consumers.drive.share).tdiv 1000 } ∧
     |o.dispOut| ≤ |d.dispCmd| ∧ 0 ≤ o.dispOut * d.dispCmd ∧
     State.pfwd { s with drive := o } = max o.dispOut 0 ∧ State.prev { s with drive := o } = max (-o.dispOut) 0)

/-- R32, R33, R34: the target and direction stages. The requested speed is clamped to the mode's range; it becomes T
unless it reverses the direction of travel, and then T is 0 and a dwell starts once the vehicle stands with R at 0. The
caps are assumed not below 0, as their setup ranges have them. R35: the dwell timer's expiry gives the held direction the
direction of the dwell and ends the dwell; nothing else changes. -/
def Obligations.ReversalWaitsForStandstillAndDwell : Prop :=
  (∀ s : State, 0 ≤ s.cap → 0 ≤ s.reverseLimit →
     let capped := max (-s.reverseLimit) (min s.cap s.drive.requested)
     let opposed (h : Option Heading) := (h = some .forward ∧ capped < 0) ∨ (h = some .reverse ∧ 0 < capped)
     let towards : Heading := if 0 < capped then .forward else .reverse
     let moving : Option Heading := match s.pcu.direction with
       | .forward => some .forward
       | .reverse => some .reverse
       | .still => none
     let d := if s.stopped then s.drive.held else moving
     (¬ opposed d → directionStage s s.drive = { s.drive with
       target := capped, dwell := if capped = 0 ∧ s.stopped = true then s.drive.dwell else none }) ∧
     (opposed d → s.stopped = false → directionStage s s.drive = { s.drive with target := 0, dwell := none }) ∧
     (opposed d → s.stopped = true → s.drive.dwell ≠ none → directionStage s s.drive = { s.drive with target := 0 }) ∧
     (opposed d → s.stopped = true → s.drive.dwell = none → s.drive.ramped ≠ 0 →
       directionStage s s.drive = { s.drive with target := 0 }) ∧
     (opposed d → s.stopped = true → s.drive.dwell = none → s.drive.ramped = 0 → s.setup.dwell ≠ 0 →
       directionStage s s.drive = { s.drive with
         target := 0, dwell := some ⟨towards, s.clock + s.setup.dwell.toNat * 1000⟩ }) ∧
     (opposed d → s.stopped = true → s.drive.dwell = none → s.drive.ramped = 0 → s.setup.dwell = 0 →
       directionStage s s.drive = { s.drive with target := capped, held := some towards })) ∧
  (∀ (s : State) (w : Dwell), s.drive.dwell = some w →
     exec .dwellTimerExpiry s = .next { s with
       clock := Nat.max s.clock w.due
       drive := { s.drive with held := some w.toward, dwell := none }
       link := s.link.transmit })

/-- R36, Table 3-3: the ramp moves R toward T by at most one step, accel_step away from 0 and decel_step toward 0, never
past T and never across 0; a nonzero R gives the held direction its sign. The steps are positive, as their ranges have
them. -/
def Obligations.RampMovesTowardTheTarget : Prop :=
  ∀ d : Drive, 0 < d.accelStep → 0 < d.decelStep →
    let r := d.ramped
    let t := d.target
    let new := (rampStage d).ramped
    rampStage d = { d with
      ramped := new, held := if 0 < new then some .forward else if new < 0 then some .reverse else d.held } ∧
    (t = r → new = r) ∧
    (r = 0 → t ≠ 0 → |t| ≤ d.accelStep → new = t) ∧
    (r = 0 → 0 < t → d.accelStep < |t| → new = d.accelStep) ∧
    (r = 0 → t < 0 → d.accelStep < |t| → new = -d.accelStep) ∧
    (0 < r → r < t → new = min t (r + d.accelStep)) ∧
    (r < 0 → t < r → new = max t (r - d.accelStep)) ∧
    (0 < r → 0 ≤ t → t < r → new = max t (r - d.decelStep)) ∧
    (r < 0 → t ≤ 0 → r < t → new = min t (r + d.decelStep)) ∧
    (0 < r → t < 0 → new = max 0 (r - d.decelStep)) ∧
    (r < 0 → 0 < t → new = min 0 (r + d.decelStep)) ∧
    0 ≤ r * new

/-- R42: the overspeed test at a speed sample in TRANSPORT, WORK and STOWING: raised beyond the cap or reverse limit by
more than its tenth, cleared within them, left alone between; each change gives its notice. In the other modes nothing is
tested. That the cap is the one of the mode and the recipe copy as they stand at the sample is the model's choice
(assumption log 41). -/
def Obligations.OverspeedHasATenthOfHysteresis : Prop :=
  ∀ s : State,
    let x := s.pcu.sample
    let above := s.cap + s.cap.tdiv 10
    let below := -(s.reverseLimit + s.reverseLimit.tdiv 10)
    let flagged (f : Bool) := { s with drive := { s.drive with overspeed := f } }
    (s.mc.mode = .transport ∨ s.mc.mode = .work ∨ s.mc.mode = .stowing →
      (s.drive.overspeed = false → above < x ∨ x < below → overspeedTest s = notice .overspeed true (flagged true)) ∧
      (s.drive.overspeed = false → ¬ (above < x ∨ x < below) → overspeedTest s = s) ∧
      (s.drive.overspeed = true → -s.reverseLimit ≤ x → x ≤ s.cap → overspeedTest s = notice .overspeed false (flagged false)) ∧
      (s.drive.overspeed = true → x < -s.reverseLimit ∨ s.cap < x → overspeedTest s = s)) ∧
    (¬ (s.mc.mode = .transport ∨ s.mc.mode = .work ∨ s.mc.mode = .stowing) → overspeedTest s = s) ∧
    s.cap = (match s.mc.mode with
      | .transport => s.setup.transportMax
      | .work | .stowing => min s.drive.speedCap s.setup.workMax
      | _ => 0) ∧
    s.reverseLimit = (match s.mc.mode with
      | .transport | .work | .stowing => s.setup.reverseCap
      | _ => 0)

/-! ## The Brush Speed Unit and the pace tables -/

/-- R53, R54: the segment selection at a speed sample. The rises and falls end in the one segment the manual's repeated
tests end in: either the index stays where no test applies, or it has risen to the last boundary reached, or it has fallen
to the first segment that the speed has not left. A pending reselection makes the plain lookup instead. The premises are
the table's own: boundaries that rise strictly from 0, a hysteresis not below 0, and an index inside the table. R53, R54,
R55, R57: a speed sample at one unit: the index by the selection or, with a reselection pending, by the lookup, which
clears the mark; then t, which is the segment's rpm limited to rpm_full while the spin is SPINNING_UP or ON and 0
otherwise. A t that keeps its value changes nothing more; a t that changes re-examines the ramp. R57, R59: what a change
of t does to a unit's ramp: a settled unit stops its timer; with DIRECT as the rate of the needed direction the timer
stops and the command takes its value at once; otherwise a timer that runs in the needed direction keeps its expiry, and
any other starts afresh with the interval of that rate. The intervals are those of Table 4-4. -/
def Obligations.SpeedSampleSelectsSegmentAndTarget : Prop :=
  (∀ (p : PaceTable) (v : Int) (i : Nat), 0 ≤ v → 1 ≤ p.count → p.count ≤ 6 → i < p.count → p.bound 0 = 0 →
     0 ≤ p.hysteresis → (∀ j k, j < k → k < p.count → p.bound j < p.bound k) →
     let j := selectIndex p v i
     j < p.count ∧
     (j + 1 < p.count → v < p.bound (j + 1)) ∧
     (0 < j → p.bound j - p.hysteresis ≤ v) ∧
     (i < j → p.bound j ≤ v) ∧
     (j < i → v < p.bound (j + 1) - p.hysteresis) ∧
     lookupIndex p v < p.count ∧ p.bound (lookupIndex p v) ≤ v ∧
     (lookupIndex p v + 1 < p.count → v < p.bound (lookupIndex p v + 1))) ∧
  (∀ (s : State) (u : BrushUnit),
     let b := s.brushOf u
     let p := s.recipes.pace[b.table]
     let v := |s.pcu.sample|
     let index := if b.reselect then lookupIndex p v else selectIndex p v b.index
     let t := if b.spin = .spinningUp ∨ b.spin = .on then min (p.rate index) (s.setup.rpmFull u) else 0
     let sampled := { b with index := index, reselect := false }
     (t = b.t → brushSpeedSample u s = s.putBrush u sampled) ∧
     (t ≠ b.t → brushSpeedSample u s = examineRamp u (s.putBrush u { sampled with t := t }))) ∧
  (∀ (s : State) (u : BrushUnit),
     let b := s.brushOf u
     let isSettled := b.c = b.t ∨ (b.c = 0 ∧ b.t < s.setup.startRpm u)
     let dir : RampDir := if b.c < b.t then .up else .down
     let interval := if b.c < b.t then rateInterval s.brush.upRate else rateInterval s.brush.downRate
     let direct : Int :=
       if b.c < b.t then b.t else if b.t < s.setup.stopRpm u then 0 else b.t
     (isSettled → examineRamp u s = s.putBrush u { b with rampTimer := none }) ∧
     (¬ isSettled →
       (interval = none →
         examineRamp u s = setBrushCommand u direct (s.putBrush u { b with rampTimer := none })) ∧
       (∀ ms, interval = some ms →
         (∀ due, b.rampTimer = some ⟨dir, due⟩ → examineRamp u s = s) ∧
         ((∀ due, b.rampTimer ≠ some ⟨dir, due⟩) →
           examineRamp u s = s.putBrush u { b with rampTimer := some ⟨dir, s.clock + ms.toNat * 1000⟩ }))) ∧
     [0, 1, 2, 3, 4].map rateInterval = [some 500, some 200, some 100, some 50, none])

/-- R57, R58: the ramp timer's expiry takes one step: the kick from 0 to start_rpm, a step up to at most t, or a step down
to at least t with the cut below stop_rpm; a settled unit leaves the timer stopped, and another runs it again with the
interval of the direction then needed. R57, R59, Table 4-4: what the restart of a unit's ramp timer is. With a rate of 2,
5, 10 or 20 per second in the direction then needed, the timer runs that way for 500, 200, 100 or 50 ms, whatever it did
before; with DIRECT it is stopped and the command takes its value at once. R61, R62: a new command sets the demand to
AUX_P × c × Vm / 600000 toward zero, at most 2000, and updates the output; a command that keeps its value changes nothing.
-/
def Obligations.BrushRampTakesOneStep : Prop :=
  (∀ (s : State) (u : BrushUnit) (r : RampTimer), (s.brushOf u).rampTimer = some r →
     let b := s.brushOf u
     let down := max b.t (b.c - s.brush.step)
     let c : Int :=
       if b.c < b.t then
         if b.c = 0 then if s.setup.startRpm u ≤ b.t then s.setup.startRpm u else 0 else min b.t (b.c + s.brush.step)
       else if b.t < b.c then if down < s.setup.stopRpm u then 0 else down
       else b.c
     let stepped := setBrushCommand u c ((s.atTime r.due).putBrush u { b with rampTimer := none })
     let isSettled := (stepped.brushOf u).c = (stepped.brushOf u).t ∨
       ((stepped.brushOf u).c = 0 ∧ (stepped.brushOf u).t < s.setup.startRpm u)
     (isSettled → exec (.brushRampTimerExpiry u) s = .next stepped.sent) ∧
     (¬ isSettled → exec (.brushRampTimerExpiry u) s = .next (startRamp u stepped).sent)) ∧
  (∀ (s : State) (u : BrushUnit), (s.brushOf u).c ≠ (s.brushOf u).t →
     let b := s.brushOf u
     let rises := b.c < b.t
     let rate := if rises then s.brush.upRate else s.brush.downRate
     let timed (ms : Nat) := s.putBrush u { b with rampTimer := some ⟨if rises then .up else .down, s.clock + ms * 1000⟩ }
     let stopped := s.putBrush u { b with rampTimer := none }
     (rate = 0 → startRamp u s = timed 500) ∧
     (rate = 1 → startRamp u s = timed 200) ∧
     (rate = 2 → startRamp u s = timed 100) ∧
     (rate = 3 → startRamp u s = timed 50) ∧
     (rate = 4 → rises → b.c = 0 → b.t < s.setup.startRpm u → startRamp u s = stopped) ∧
     (rate = 4 → rises → (b.c ≠ 0 ∨ s.setup.startRpm u ≤ b.t) → startRamp u s = setBrushCommand u b.t stopped) ∧
     (rate = 4 → ¬ rises → b.t < s.setup.stopRpm u → startRamp u s = setBrushCommand u 0 stopped) ∧
     (rate = 4 → ¬ rises → s.setup.stopRpm u ≤ b.t → startRamp u s = setBrushCommand u b.t stopped)) ∧
  (∀ (s : State) (u : BrushUnit) (c : Int),
     (c = (s.brushOf u).c → setBrushCommand u c s = s) ∧
     (c ≠ (s.brushOf u).c → setBrushCommand u c s = updateOutput u (s.putBrush u { s.brushOf u with
       c := c, demand := min 2000 ((s.sensor .auxP * c * s.setup.vm u).tdiv 600000) })))

/-- R62, R64: the output update. The command scaled by the share toward zero drives the brush unless it lies above 0 and
below stop_rpm, which starves it; the value driven is out × 1000 / rpm_full toward zero, at most 1000; an out below
start_rpm stops the stall timer. With a share of 0 to 1000 the output is never above the command, and 0 for a command of
0. R63: once the starved flag has its value and its notice and the unit's record is written, the old and the new out go to
the water's notice. R63, R94: an output that changes between 0 and a nonzero value tells the water unit of the unit's
brush, and that all brushes rest when none drives; an output that changes between nonzero values, or not at all, tells
nothing. -/
def Obligations.BrushOutputIsScaledOrStarved : Prop :=
  (∀ (s : State) (u : BrushUnit),
     let b := s.brushOf u
     let share := brushShare s u
     let scaled := (b.c * share).tdiv 1000
     let out := if 0 < scaled ∧ scaled < s.setup.stopRpm u then 0 else scaled
     let starved := if 0 < scaled ∧ scaled < s.setup.stopRpm u then true
       else if b.c = 0 then false else if scaled = 0 then b.starved else false
     let n := (updateOutput u s).brushOf u
     n.out = out ∧ n.starved = starved ∧ n.output = min 1000 ((out * 1000).tdiv (s.setup.rpmFull u)) ∧
     n.stallTimer = (if out < s.setup.startRpm u then none else b.stallTimer) ∧ n.c = b.c ∧ n.t = b.t ∧
     (starved ≠ b.starved → (updateOutput u s).cond = (s.cond.set (.brushStarved u)
       ((s.cond.get (.brushStarved u)).noticed (.brushStarved u) starved))) ∧
     (starved = b.starved → (updateOutput u s).cond = s.cond) ∧
     (∀ v, v ≠ u → (updateOutput u s).brushOf v = s.brushOf v) ∧
     (let marked := if starved = b.starved then s
         else notice (.brushStarved u) starved (s.putBrush u { b with starved := starved })
      updateOutput u s = outputNotice u b.out out (marked.putBrush u n)) ∧
     (0 ≤ b.c → 0 ≤ share → share ≤ 1000 → 0 ≤ out ∧ out ≤ b.c)) ∧
  (∀ (s : State) (u : BrushUnit) (before : Int),
     let after := (s.brushOf u).out
     let told (flags : PerUnit Bool) := formWanted { s with spray := { s.spray with brushOn := flags } }
     ((before = 0 ↔ after = 0) → outputNotice u before after s = s) ∧
     (before = 0 → after ≠ 0 → outputNotice u before after s = told (s.spray.brushOn.set u true)) ∧
     (before ≠ 0 → after = 0 → (∃ v, (s.brushOf v).out ≠ 0) →
       outputNotice u before after s = told (s.spray.brushOn.set u false)) ∧
     (before ≠ 0 → (∀ v, (s.brushOf v).out = 0) → outputNotice u before after s = told ⟨false, false, false⟩))

/-- R64: at a brush sample a unit driven at start_rpm or more that shows 0 rpm starts its stall timer when it is stopped,
and a sample above 0 rpm stops it; a stalled unit that turns again, or is driven below start_rpm, is no longer stalled,
and its condition is told so. R64, R76, R160: the stall timer's expiry stops it, sets the stalled flag, makes
BRUSH_STALL_u present, and the unit takes the STALL hold unless the record was PRESENT already. The CONDITION report
stands before the hold's HOLD_TAKEN report, an order that R156 leaves open: the model's choice (assumption logs 31 and
49). R65: lag is watched at brush samples and reported by the lag timer's expiry, which stops the timer, sets the lagging
flag and makes BRUSH_LAG_u present. A brush sample makes both tests of a unit, that of the stall and then that of the lag:
their order is the model's choice (assumption log 9). -/
def Obligations.StallAndLagAreWatched : Prop :=
  (∀ (s : State) (u : BrushUnit),
     let b := s.brushOf u
     let rpm := s.pcu.brushRpm.get u
     let timer := if 0 < rpm then none
       else if s.setup.startRpm u ≤ b.out ∧ b.stallTimer = none then some (s.clock + s.setup.stallTime.toNat * 1000)
       else b.stallTimer
     let watched := s.putBrush u { b with stallTimer := timer }
     (b.stalled = true → (0 < rpm ∨ b.out < s.setup.startRpm u) →
       stallSample u s = notice (.brushStall u) false (s.putBrush u { b with stallTimer := timer, stalled := false })) ∧
     (¬ (b.stalled = true ∧ (0 < rpm ∨ b.out < s.setup.startRpm u)) → stallSample u s = watched)) ∧
  (∀ (s : State) (u : BrushUnit) (due : Nat), (s.brushOf u).stallTimer = some due →
     let stalled := notice (.brushStall u) true
       ((s.atTime due).putBrush u { s.brushOf u with stallTimer := none, stalled := true })
     (s.cond.get (.brushStall u) ≠ .present → exec (.stallTimerExpiry u) s = .next (takeHold u .stall stalled).sent) ∧
     (s.cond.get (.brushStall u) = .present → exec (.stallTimerExpiry u) s = .next stalled.sent)) ∧
  (∀ (s : State) (u : BrushUnit),
     let b := s.brushOf u
     let lags := s.pcu.brushRpm.get u < b.out - s.setup.lagMargin
     brushSample u s = lagSample u (stallSample u s) ∧
     (lags → lagSample u s = if b.lagTimer = none then
         s.putBrush u { b with lagTimer := some (s.clock + s.setup.lagTime.toNat * 1000) } else s) ∧
     (¬ lags → b.lagging = false → lagSample u s = s.putBrush u { b with lagTimer := none }) ∧
     (¬ lags → b.lagging = true →
       lagSample u s = notice (.brushLag u) false (s.putBrush u { b with lagTimer := none, lagging := false })) ∧
     (∀ due, b.lagTimer = some due → exec (.lagTimerExpiry u) s = .next
       (notice (.brushLag u) true ((s.atTime due).putBrush u { b with lagTimer := none, lagging := true })).sent))

/-- R56: a spin that becomes OFF sets t and c to 0 and stops the ramp timer, a height that stops being DOWN sets c to 0
and stops the ramp timer, and a spin that becomes SPINNING_DOWN sets t to 0. -/
def Obligations.SpinAndHeightNoticesCutTheCommand : Prop :=
  ∀ (s : State) (u : BrushUnit),
    let b := s.brushOf u
    ((spinNotice u .off s).brushOf u).t = 0 ∧ ((spinNotice u .off s).brushOf u).c = 0 ∧
    ((spinNotice u .off s).brushOf u).rampTimer = none ∧ ((spinNotice u .off s).brushOf u).spin = .off ∧
    ((heightNotice u false s).brushOf u).c = 0 ∧ ((heightNotice u false s).brushOf u).rampTimer = none ∧
    ((heightNotice u false s).brushOf u).heightDown = false ∧ ((heightNotice u false s).brushOf u).t = b.t ∧
    heightNotice u true s = s.putBrush u { b with heightDown := true } ∧
    ((spinNotice u .spinningDown s).brushOf u).t = 0 ∧
    (∀ sp, sp = .spinningUp ∨ sp = .on → b.reselect = true → spinNotice u sp s = s.putBrush u { b with spin := sp }) ∧
    (∀ sp, sp = .spinningUp ∨ sp = .on → b.reselect = false →
      ((spinNotice u sp s).brushOf u).t = min (s.recipes.pace[b.table].rate b.index) (s.setup.rpmFull u))

/-- R50, R51, R54: PACE_WRITE replaces a table by one whose used segments rise strictly from 0 within their ranges, with
the hysteresis clamped to 0 and 500 under CLAMPED, the places beyond the count 0, and a reselection pending for each unit
that names the table; anything else is refused with BAD_TABLE and changes nothing. R51: PACE_READ answers the table's
hysteresis, count and six places, those beyond the count as 0 when the table was written so; a number above 3 is refused
with BAD_TABLE, and reading changes nothing. -/
def Obligations.PaceTablesAreReplacedWholeAndRead : Prop :=
  (∀ (s : State) (tag table h1 h0 count : Byte) (places : Vector (Byte × Byte × Byte × Byte) 6),
     let body := [table, h1, h0, count] ++ places.toList.flatMap fun p => [p.1, p.2.1, p.2.2.1, p.2.2.2]
     let n := count.toNat
     let hyst := i16 h1 h0
     let bound (i : Nat) : Int := (places.toList.map fun p => i16 p.1 p.2.1)[i]?.getD 0
     let rate (i : Nat) : Int := (places.toList.map fun p => i16 p.2.2.1 p.2.2.2)[i]?.getD 0
     let lawful := table.toNat < 4 ∧ 1 ≤ n ∧ n ≤ 6 ∧ bound 0 = 0 ∧ (∀ i, i + 1 < n → bound i < bound (i + 1)) ∧
       (∀ i, i < n → bound i ≤ 11000) ∧ (∀ i, i < n → 0 ≤ rate i ∧ rate i ≤ 300)
     Ready 0x0C tag body s →
     (s.mc.mode = .settle → exec (.paceWrite tag body) s = .next (s.onlyAnswered 0x0C tag body [0x10])) ∧
     (s.mc.mode ≠ .settle → ¬ lawful → exec (.paceWrite tag body) s = .next (s.onlyAnswered 0x0C tag body [0x18])) ∧
     (s.mc.mode ≠ .settle → lawful → ∃ t, exec (.paceWrite tag body) s = .next t ∧
       (∀ k : Fin 4, k.val ≠ table.toNat → t.recipes.pace[k] = s.recipes.pace[k]) ∧
       (∀ k : Fin 4, k.val = table.toNat → t.recipes.pace[k].count = n ∧
         t.recipes.pace[k].hysteresis = max 0 (min 500 hyst) ∧
         (∀ i, t.recipes.pace[k].bound i = if i < n then bound i else 0) ∧
         (∀ i, t.recipes.pace[k].rate i = if i < n then rate i else 0)) ∧
       (∀ u, t.brushOf u = { s.brushOf u with
         reselect := (s.brushOf u).reselect || (s.brushOf u).table.val == table.toNat }) ∧
       t = { s with
         recipes := { s.recipes with pace := t.recipes.pace }
         brush := { s.brush with units := t.brush.units }
         link := s.link.answered 0x0C tag body [if hyst < 0 ∨ 500 < hyst then 0x01 else 0x00] [] })) ∧
  (∀ (s : State) (tag table : Byte), Ready 0x0D tag [table] s → s.mc.mode ≠ .settle →
     (3 < table.toNat → exec (.paceRead tag [table]) s = .next (s.onlyAnswered 0x0D tag [table] [0x18])) ∧
     (∀ k : Fin 4, k.val = table.toNat → ∃ reply, exec (.paceRead tag [table]) s =
         .next (s.onlyAnswered 0x0D tag [table] reply) ∧ reply.length = 29 ∧ reply.take 2 = [0x00, table] ∧
       (reply.drop 2).take 2 = bytes16 s.recipes.pace[k].hysteresis ∧
       reply[4]? = some (BitVec.ofNat 8 s.recipes.pace[k].count) ∧
       (∀ i, i < 6 → (reply.drop (5 + 4 * i)).take 4 =
         bytes16 (s.recipes.pace[k].bound i) ++ bytes16 (s.recipes.pace[k].rate i))))

/-! ## The Arm Sequencer -/

/-- R69, R8, R12: a change of reach, height or spin writes that component alone, but that a height that leaves DOWN takes
the spin to OFF with it. The Brush Speed Unit's copies follow, and its command is cut when the spin goes OFF or the height
leaves DOWN. Mode Control answers once the brushes have their notices: in STOWING with every unit STOWED it enters
TRANSPORT, and in TRANSPORT with a unit not STOWED it enters PARKING, each with its target and its MODE report as at any
entry to those modes, and with the park-stop timer started in PARKING when the vehicle is stopped; in every other case the
mode record stays. A component that keeps its value gives no notice. The other units, the manifold and the setup stay.
That the brushes have their notices, the spin's before the height's, before Mode Control has its own is the model's choice
(assumption log 43). -/
def Obligations.PostureChangesAreNotified : Prop :=
  ∀ (s : State) (u : BrushUnit) (h : Height) (r : Reach) (sp : Spin),
    let a := s.armOf u
    let answer (x : State) : State :=
      if x.mc.mode = .stowing ∧ x.allStowed = true then enterTravelBlocks .transport x
      else if x.mc.mode = .transport ∧ x.allStowed = false then enterTravelBlocks .parking x
      else x
    let answeredBy (t : State) : Prop :=
      (s.mc.mode = .stowing → t.allStowed = true → t.mc = ⟨.transport, .transport, none, none⟩ ∧ t.drive.brk = true ∧
        ∃ before after, t.link = (before ++ Report.mode .transport .transport :: after).foldl LinkPort.post s.link) ∧
      (s.mc.mode = .transport → t.allStowed = false →
        t.mc = ⟨.parking, .park, none, if s.stopped then some (s.clock + 500000) else none⟩ ∧
        t.drive.brk = true ∧ t.drive.overspeed = false ∧
        ∃ before after, t.link = (before ++ Report.mode .parking .park :: after).foldl LinkPort.post s.link) ∧
      (s.mc.mode ≠ .stowing ∨ t.allStowed = false → s.mc.mode ≠ .transport ∨ t.allStowed = true →
        t.mc = s.mc ∧ t.drive = s.drive) ∧
      (∀ v, v ≠ u → t.armOf v = s.armOf v) ∧ t.arms.queue = s.arms.queue ∧ t.arms.action = s.arms.action ∧
      t.pins = s.pins ∧ t.setup = s.setup ∧ t.pcu = s.pcu ∧ t.recipes = s.recipes ∧ t.sensors = s.sensors ∧
      t.clock = s.clock
    (h = a.height → setHeight u h s = s) ∧ (r = a.reach → setReach u r s = s) ∧ (sp = a.spin → setSpin u sp s = s) ∧
    (r ≠ a.reach → setReach u r s = answer (s.putArm u { a with reach := r }) ∧
      (setReach u r s).armOf u = { a with reach := r } ∧ (setReach u r s).brush = s.brush ∧
      answeredBy (setReach u r s)) ∧
    (sp ≠ a.spin → setSpin u sp s = answer (spinNotice u sp (s.putArm u { a with spin := sp })) ∧
      (setSpin u sp s).armOf u = { a with spin := sp } ∧ ((setSpin u sp s).brushOf u).spin = sp ∧
      (sp = .off → ((setSpin u sp s).brushOf u).c = 0 ∧ ((setSpin u sp s).brushOf u).t = 0) ∧
      answeredBy (setSpin u sp s)) ∧
    (h ≠ a.height →
      (let x := s.putArm u { a with height := h, spin := if a.height = .down then .off else a.spin }
       let y := if a.height = .down ∧ a.spin ≠ .off then spinNotice u .off x else x
       setHeight u h s = answer (if a.height = .down ∨ h = .down then heightNotice u (decide (h = .down)) y else y)) ∧
      (setHeight u h s).armOf u = { a with height := h, spin := if a.height = .down then .off else a.spin } ∧
      (a.height = .down ∨ h = .down → ((setHeight u h s).brushOf u).heightDown = decide (h = .down)) ∧
      (a.height = .down → ((setHeight u h s).brushOf u).c = 0) ∧
      (a.height = .down → a.spin ≠ .off → ((setHeight u h s).brushOf u).spin = .off) ∧
      answeredBy (setHeight u h s))

/-- R72, R73, Table 5-3: a unit's base goal is WORKING in WORK for a unit of the units mask and STOWED otherwise, and its
goal is the base goal with the overrides of the holds. A hold that is taken joins the end of the set, one that is released
leaves it with the others in order; each posts its UNIT report with the set as it then stands and the activity as it
stands before the goal is formed again (the model's reading, assumption log 11), and the goal is formed again. A hold held
already, or a release of one not held, changes nothing. R79: a goal formed again is written with its base goal, and the
planner runs for the unit when it is another goal than before, and not when it is the same. -/
def Obligations.HoldsShapeTheGoal : Prop :=
  ∀ (s : State) (u : BrushUnit) (h : Hold),
    let a := s.armOf u
    let works := s.mc.mode = .work ∧ s.arms.unitsMask.get u = true
    let shaped (t : State) (holds : List Hold) : Prop :=
      (t.armOf u).holds = holds ∧
      ((t.armOf u).goal.out = true ↔ works ∧ Hold.sensed ∉ holds ∧ Hold.knock ∉ holds ∧ (u = .m ∨ Hold.stall ∉ holds)) ∧
      ((t.armOf u).goal.down = true ↔ works ∧ Hold.lift ∉ holds) ∧
      ((t.armOf u).goal.on = true ↔ works ∧ Hold.lift ∉ holds ∧ Hold.stall ∉ holds) ∧
      ((t.armOf u).baseWorking = true ↔ works) ∧
      (∀ v, v ≠ u → (t.armOf v).holds = (s.armOf v).holds ∧ (t.armOf v).goal = (s.armOf v).goal) ∧
      t.arms.unitsMask = s.arms.unitsMask ∧ t.setup = s.setup ∧ t.pins = s.pins ∧ t.recipes = s.recipes
    let now : Goal := {
      out := decide (works ∧ Hold.sensed ∉ a.holds ∧ Hold.knock ∉ a.holds ∧ (u = .m ∨ Hold.stall ∉ a.holds))
      down := decide (works ∧ Hold.lift ∉ a.holds)
      on := decide (works ∧ Hold.lift ∉ a.holds ∧ Hold.stall ∉ a.holds) }
    let formed := s.putArm u { a with baseWorking := decide works, goal := now }
    shaped (reformGoal u s) a.holds ∧
    (now = a.goal → reformGoal u s = formed) ∧
    (now ≠ a.goal → reformGoal u s = replan u formed) ∧
    (h ∉ a.holds → takeHold u h s =
      reformGoal u ((s.putArm u { a with holds := a.holds ++ [h] }).post
        (.unit u (.holdTaken h) a.reach a.height a.spin a.activity (a.holds ++ [h])))) ∧
    (h ∈ a.holds → releaseHold u h s =
      reformGoal u ((s.putArm u { a with holds := a.holds.filter (· ≠ h) }).post
        (.unit u (.holdReleased h) a.reach a.height a.spin a.activity (a.holds.filter (· ≠ h))))) ∧
    (h ∈ a.holds → takeHold u h s = s) ∧
    (h ∉ a.holds → shaped (takeHold u h s) (a.holds ++ [h]) ∧ ∃ more : List Report,
      (takeHold u h s).link = more.foldl LinkPort.post (s.link.post
        (.unit u (.holdTaken h) a.reach a.height a.spin a.activity (a.holds ++ [h])))) ∧
    (h ∉ a.holds → releaseHold u h s = s) ∧
    (h ∈ a.holds → shaped (releaseHold u h s) (a.holds.filter (· ≠ h)) ∧ ∃ more : List Report,
      (releaseHold u h s).link = more.foldl LinkPort.post (s.link.post
        (.unit u (.holdReleased h) a.reach a.height a.spin a.activity (a.holds.filter (· ≠ h)))))

/-- R77: a UNIT request is judged by the unit and the operation its body names, whichever of the four rows carries it
(assumption log 19): BAD_UNIT for a unit above 2, an operation above 3, and RELEASE_SENSED or RELEASE_KNOCK of M, with
nothing changed; otherwise OK, with LIFT taken, or the named hold released. A release of SENSED stops the release timer,
and the curb value then read takes SENSED again when it lies below obstacle_mm; that the release forms the goal and runs
the planner before the curb value is read is the model's choice (assumption log 42). R74: the curb value of an arm, CURB_R
for R and CURB_L for L, takes SENSED below obstacle_mm; while SENSED is held, a usable reading at or above obstacle_mm +
release_mm starts the release timer when it is stopped, and a lower reading or an unusable channel stops it; the timer's
expiry releases SENSED. -/
def Obligations.HoldsAreTakenByHostAndCurb : Prop :=
  (∀ (s : State) (tag unit op : Byte) (c : Instr),
     c ∈ [Instr.setLift tag [unit, op], .releaseLift tag [unit, op], .releaseSensed tag [unit, op],
       .releaseKnock tag [unit, op]] →
     Ready 0x13 tag [unit, op] s → s.mc.mode ≠ .settle →
     let h := s.holding 0x13 tag [unit, op]
     (2 < unit.toNat ∨ 3 < op.toNat ∨ (unit = 2 ∧ 2 ≤ op.toNat) →
       exec c s = .next (s.onlyAnswered 0x13 tag [unit, op] [0x19])) ∧
     (∀ u : BrushUnit, unit.toNat = unitNumber u →
       (op = 0 → exec c s = .next ((takeHold u .lift h).replied [0x00]).sent) ∧
       (op = 1 → exec c s = .next ((releaseHold u .lift h).replied [0x00]).sent) ∧
       (u ≠ .m → op = 3 → exec c s = .next ((releaseHold u .knock h).replied [0x00]).sent) ∧
       (u ≠ .m → op = 2 → .sensed ∉ (s.armOf u).holds → exec c s = .next (h.replied [0x00]).sent) ∧
       (u ≠ .m → op = 2 → .sensed ∈ (s.armOf u).holds →
         let freed := releaseHold u .sensed (h.putArm u { s.armOf u with releaseTimer := none })
         (s.setup.obstacle ≤ freed.sensor (curbRole u) → exec c s = .next (freed.replied [0x00]).sent) ∧
         (freed.sensor (curbRole u) < s.setup.obstacle →
           exec c s = .next ((takeHold u .sensed freed).replied [0x00]).sent)))) ∧
  (∀ (s : State) (u : BrushUnit),
     let a := s.armOf u
     let v := s.sensor (curbRole u)
     let clear := s.usable (curbRole u) = true ∧ s.setup.obstacle + s.setup.releaseMm ≤ v
     curbRole .l = .curbL ∧ curbRole .r = .curbR ∧
     (.sensed ∉ a.holds → v < s.setup.obstacle → curbRead u s = takeHold u .sensed s) ∧
     (.sensed ∉ a.holds → s.setup.obstacle ≤ v → curbRead u s = s) ∧
     (.sensed ∈ a.holds → ¬ clear → curbRead u s = s.putArm u { a with releaseTimer := none }) ∧
     (.sensed ∈ a.holds → clear → a.releaseTimer ≠ none → curbRead u s = s) ∧
     (.sensed ∈ a.holds → clear → a.releaseTimer = none →
       curbRead u s = s.putArm u { a with releaseTimer := some (s.clock + s.setup.releaseMs.toNat * 1000) }) ∧
     (∀ due, a.releaseTimer = some due → exec (.releaseTimerExpiry u) s =
       .next (releaseHold u .sensed ((s.atTime due).putArm u { a with releaseTimer := none })).sent))

/-- R79, R80, R85, R86, R87, R89: the planner takes the first line of Table 5-5 that applies, with the reach of M ignored,
and acts: with nothing to do the unit's entry leaves the queue, its activity is IDLE and a GOAL report is posted when it
was not; a spin action starts at once, a SPIN_DOWN with its time limit; a cylinder action of a waiting unit changes its
entry's kind in place, and of another unit joins the end of the queue. The ARMS demand is then posted for the queue as it
stands; that a posting of the value that stands leaves the demand read, and that one of another value makes it unread, is
the model's reading (assumption log 13). R79, R86, R88: when a change of goal or posture runs the planner: in PARK and the
travel modes for an IDLE or WAITING unit; a SPIN_UP whose goal's spin is OFF gives way to a SPIN_DOWN; a unit that moves,
spins down, is in FAULT, or stands in STANDBY or SETTLE is left alone. -/
def Obligations.PlannerTakesTheFirstLineThatApplies : Prop :=
  (∀ (s : State) (u : BrushUnit),
     let a := s.armOf u
     let others := s.arms.queue.filter (fun e => e.unit ≠ u)
     let queued (q : List QueueEntry) := { s with arms := { s.arms with queue := q } }
     let reachGoal : Reach := if a.goal.out then .out else .isIn
     let heightGoal : Height := if a.goal.down then .down else .up
     let act := nextAction u a
     act = (if a.spin = .on ∧ a.goal.on = false then some .spinDown
       else if a.height ≠ heightGoal ∧ heightGoal = .up then some (.cyl .lift)
       else if u ≠ .m ∧ a.reach ≠ reachGoal then some (.cyl (if a.goal.out then .swingOut else .swingIn))
       else if a.height ≠ heightGoal ∧ heightGoal = .down then some (.cyl .lower)
       else if a.spin = .off ∧ a.goal.on = true then some .spinUp
       else none) ∧
     (act = none → a.activity = .idle → planStep u s = postArmsDemand (queued others)) ∧
     (act = none → a.activity ≠ .idle → planStep u s = postArmsDemand
       (((queued others).putArm u { a with activity := .idle }).post
         (.unit u .goal a.reach a.height a.spin .idle a.holds))) ∧
     (act = some .spinUp → planStep u s = postArmsDemand
       (setSpin u .spinningUp ((queued others).putArm u { a with activity := .spinningUp }))) ∧
     (act = some .spinDown → planStep u s = postArmsDemand
       (setSpin u .spinningDown ((queued others).putArm u { a with
         activity := .spinningDown, spinDownTimer := some (s.clock + s.setup.spinDownMs.toNat * 1000) }))) ∧
     (∀ k, act = some (.cyl k) → a.activity = .waiting → planStep u s = postArmsDemand
       (queued (s.arms.queue.map fun e => if e.unit = u then ⟨u, k⟩ else e))) ∧
     (∀ k, act = some (.cyl k) → a.activity ≠ .waiting → planStep u s = postArmsDemand
       ((queued (s.arms.queue ++ [⟨u, k⟩])).putArm u { a with activity := .waiting })) ∧
     (let d := if s.arms.queue = [] ∧ s.arms.action = none then 0 else s.setup.armReserve
      postArmsDemand s = if d = s.arms.demand then s
       else { s with arms := { s.arms with demand := d, demandRead := false } })) ∧
  (∀ (s : State) (u : BrushUnit),
     let a := s.armOf u
     (s.mc.mode = .standby ∨ s.mc.mode = .settle → replan u s = s ∧ runPlanner u s = s) ∧
     (s.mc.mode ≠ .standby → s.mc.mode ≠ .settle →
       runPlanner u s = runStartTest (planStep u s) ∧
       (a.activity = .idle ∨ a.activity = .waiting → replan u s = runPlanner u s) ∧
       (a.activity = .spinningUp → a.goal.on = true → replan u s = s) ∧
       (a.activity = .spinningUp → a.goal.on = false → replan u s = setSpin u .spinningDown (s.putArm u { a with
         activity := .spinningDown, spinDownTimer := some (s.clock + s.setup.spinDownMs.toNat * 1000) })) ∧
       (a.activity = .spinningDown ∨ a.activity = .fault ∨ (∃ k, a.activity = .moving k) → replan u s = s)))

/-- R82, R83: the start test for the head of the manifold queue. An empty queue stops the spacing timer; an action in
progress, or an ARMS share that is not 1000 or was formed before the demand was read as it stands, lets the head wait; an
unmet spacing term runs the spacing timer to the earliest time at which all are met; otherwise the head starts: its unit
moves, its timeout runs, and if its switch is active already it completes at once and the test is made again. The
completion records the end time of the kind, sets the component of Table 5-6 and runs the planner. The model's readings: a
test that fails on the share or on an action in progress leaves the spacing timer (assumption log 29), the share counts
once an allocation has read the demand as it stands (log 13), and the tests of one event are bounded by eight, of which
the repeated one has seven left (log 10). -/
def Obligations.HeadActionStartsWhenPowerAndSpacingAllow : Prop :=
  ∀ (s : State),
    let full := s.arb.consumers.arms.share = 1000 ∧ s.arms.demandRead = true
    let met (k : CylKind) := ∀ x e, s.arms.lastEnd.get x = some e → e + (s.setup.spacing x k).toNat * 1000 ≤ s.clock
    (s.arms.queue = [] → runStartTest s = { s with arms := { s.arms with spacingTimer := none } }) ∧
    (∀ e rest, s.arms.queue = e :: rest →
      (s.arms.action ≠ none ∨ ¬ full → runStartTest s = s) ∧
      (s.arms.action = none → full → ¬ met e.kind → ∃ due, s.clock < due ∧
        runStartTest s = { s with arms := { s.arms with spacingTimer := some due } } ∧
        (∀ x y, s.arms.lastEnd.get x = some y → y + (s.setup.spacing x e.kind).toNat * 1000 ≤ due) ∧
        (∃ x y, s.arms.lastEnd.get x = some y ∧ y + (s.setup.spacing x e.kind).toNat * 1000 = due)) ∧
      (s.arms.action = none → full → met e.kind →
        let started := State.putArm { s with arms := { s.arms with
            queue := rest
            action := some ⟨e.unit, e.kind, s.clock + (s.setup.cylTimeout e.kind).toNat * 1000⟩
            spacingTimer := if rest = [] then none else s.arms.spacingTimer } } e.unit
          { s.armOf e.unit with activity := .moving e.kind }
        (switchLevel s e.unit e.kind = false → runStartTest s = started) ∧
        (switchLevel s e.unit e.kind = true →
          runStartTest s = startTest 7 (completeAction e.unit e.kind started)))) ∧
    (∀ c, s.arms.action = some c → ∀ u k, completeAction u k s =
      planStep u (setComponent u k { s with arms := { s.arms with
        action := none, lastEnd := s.arms.lastEnd.set c.kind (some s.clock) } })) ∧
    (∀ u, setComponent u .swingOut s = setReach u .out s ∧ setComponent u .swingIn s = setReach u .isIn s ∧
      setComponent u .lift s = setHeight u .up s ∧ setComponent u .lower s = setHeight u .down s) ∧
    (∀ due, s.arms.spacingTimer = some due → exec .spacingTimerExpiry s =
      .next (runStartTest { s.atTime due with arms := { s.arms with spacingTimer := none } }).sent)

/-- R70, R71, R75, R83: an end switch takes a level. A level that the pin has already is no event, and in STANDBY only the
pin changes. A switch that becomes active beside the other of its pair is a switch fault with the component UNKNOWN; it
completes the unit's action of its kind; beside an action of the same component it changes nothing; and otherwise the
component takes its value. A switch that becomes inactive changes nothing while an action moves its component or the
component has another value; otherwise the component becomes UNKNOWN, with KNOCK taken for an arm that was OUT; and a pair
that comes apart tells the switch condition so. Tables 5-2 and 5-6, R70, R71, R79, R86: the ten switches are the IN, OUT,
UP and DOWN switches of their units; each has the value of its own component, that of SWING_IN, SWING_OUT, LIFT or LOWER,
and one other in its pair. A lost component is UNKNOWN. After a posture change by a switch the planner runs as after any
change of posture, but that a spin action whose spin went OFF has ended, with its time limit stopped, and the planner then
runs for the unit. R88, R89, R71: entry to FAULT, as at a switch fault once SWITCH_u is present and at a timeout. The
unit's action, if it owns the one in progress, ends with its end time recorded; its entry leaves the queue; its spin
action ends with its time limit stopped; its spin is OFF, with the notices of that; its activity is FAULT; and its UNIT
report with cause FAULT is posted with the values as they then stand, but for a unit in FAULT already. The ARMS demand is
posted, and the start test is made when the unit's entry or action has gone. The unit's reach, height, holds and goal
stay, and the queue keeps no entry of it. R84, R88: the timeout of the action in progress records its end, makes the
moving component UNKNOWN, leaves ARM_TIMEOUT_u LATCHED, and puts the unit in FAULT with spin OFF, no entry in the queue
and no spin action. -/
def Obligations.EndSwitchesAreFollowed : Prop :=
  (∀ (s : State) (sw : EndSwitch),
     let u := switchUnit sw
     let k := switchKind sw
     let set (v : Bool) := { s with pins := { s.pins with
       switches := s.pins.switches.set u ((s.pins.switches.get u).put k v) } }
     let other := switchLevel s u k.other
     let moves := ∃ c, s.arms.action = some c ∧ c.unit = u ∧ c.kind.movesHeight = k.movesHeight
     let completes := ∃ c, s.arms.action = some c ∧ c.unit = u ∧ c.kind = k
     let has := holdsValue (s.armOf u) k = true
     exec (.endSwitchChange sw (switchLevel s u k)) s = .next s.sent ∧
     (s.mc.mode = .standby → ∀ v, exec (.endSwitchChange sw v) s =
       .next (State.sent (if switchLevel s u k = v then s else set v))) ∧
     (s.mc.mode ≠ .standby → switchLevel s u k = false →
       (other = true → exec (.endSwitchChange sw true) s =
         .next (enterFault u (notice (.switch u) true (loseComponent u k (set true)))).sent) ∧
       (other = false → completes →
         exec (.endSwitchChange sw true) s = .next (runStartTest (completeAction u k (set true))).sent) ∧
       (other = false → ¬ completes → moves ∨ has → exec (.endSwitchChange sw true) s = .next (set true).sent) ∧
       (other = false → ¬ moves → ¬ has →
         exec (.endSwitchChange sw true) s = .next (switchReplan u (setComponent u k (set true))).sent)) ∧
     (s.mc.mode ≠ .standby → switchLevel s u k = true →
       let w := (s.pins.switches.get u).put k false
       let apart := if other = true ∧ ¬ (w.isIn ∧ w.out) ∧ ¬ (w.up ∧ w.down) then notice (.switch u) false (set false)
         else set false
       (moves ∨ ¬ has → exec (.endSwitchChange sw false) s = .next apart.sent) ∧
       (¬ moves → has → k ≠ .swingOut →
         exec (.endSwitchChange sw false) s = .next (switchReplan u (loseComponent u k apart)).sent) ∧
       (¬ moves → has → k = .swingOut →
         exec (.endSwitchChange sw false) s =
           .next (switchReplan u (takeHold u .knock (setReach u .unknown apart))).sent))) ∧
  ((([.sli, .slo, .slu, .sld, .sri, .sro, .sru, .srd, .smu, .smd] : List EndSwitch).map fun w => (switchUnit w, switchKind w)) =
     [(.l, .swingIn), (.l, .swingOut), (.l, .lift), (.l, .lower), (.r, .swingIn), (.r, .swingOut), (.r, .lift), (.r, .lower),
       (.m, .lift), (.m, .lower)] ∧
   (([.swingOut, .swingIn, .lift, .lower] : List CylKind).map fun k => (k.other, k.movesHeight)) =
     [(.swingIn, false), (.swingOut, false), (.lower, true), (.lift, true)] ∧
   (∀ (w : Switches) (v : Bool),
     w.level .swingIn = w.isIn ∧ w.level .swingOut = w.out ∧ w.level .lift = w.up ∧ w.level .lower = w.down ∧
     w.put .swingIn v = { w with isIn := v } ∧ w.put .swingOut v = { w with out := v } ∧
     w.put .lift v = { w with up := v } ∧ w.put .lower v = { w with down := v }) ∧
   (∀ a : ArmUnit,
     (holdsValue a .swingIn = true ↔ a.reach = .isIn) ∧ (holdsValue a .swingOut = true ↔ a.reach = .out) ∧
     (holdsValue a .lift = true ↔ a.height = .up) ∧ (holdsValue a .lower = true ↔ a.height = .down)) ∧
   (∀ (s : State) (u : BrushUnit),
     let a := s.armOf u
     let ended := (a.activity = .spinningUp ∨ a.activity = .spinningDown) ∧ a.spin = .off
     (∀ k, switchLevel s u k = (s.pins.switches.get u).level k) ∧
     loseComponent u .swingIn s = setReach u .unknown s ∧ loseComponent u .swingOut s = setReach u .unknown s ∧
     loseComponent u .lift s = setHeight u .unknown s ∧ loseComponent u .lower s = setHeight u .unknown s ∧
     (ended → switchReplan u s = runPlanner u (s.putArm u { a with spinDownTimer := none })) ∧
     (¬ ended → switchReplan u s = replan u s))) ∧
  (∀ (s : State) (u : BrushUnit),
     let a := s.armOf u
     let fallen := { a with spin := Spin.off, activity := Activity.fault, spinDownTimer := none }
     let gone := (∃ c, s.arms.action = some c ∧ c.unit = u) ∨ ∃ e ∈ s.arms.queue, e.unit = u
     let stopped := { s with arms := { s.arms with
       queue := s.arms.queue.filter fun e => decide (e.unit ≠ u)
       action := s.arms.action.bind fun c => if c.unit = u then none else some c
       lastEnd := match s.arms.action with
         | some c => if c.unit = u then s.arms.lastEnd.set c.kind (some s.clock) else s.arms.lastEnd
         | none => s.arms.lastEnd } }
     let faulted := (setSpin u .off (stopped.putArm u { a with spinDownTimer := none })).putArm u fallen
     let told := if a.activity = .fault then faulted
       else faulted.post (.unit u .fault a.reach a.height .off .fault a.holds)
     (gone → enterFault u s = runStartTest (postArmsDemand told)) ∧
     (¬ gone → enterFault u s = postArmsDemand told) ∧
     (enterFault u s).armOf u = fallen ∧ (∀ e ∈ (enterFault u s).arms.queue, e.unit ≠ u) ∧
     switchFault u s = enterFault u (notice (.switch u) true s)) ∧
  (∀ (s : State) (c : CylAction), s.arms.action = some c → ∃ t, exec .cylinderTimeoutExpiry s = .next t ∧
     t.clock = Nat.max s.clock c.due ∧
     (t.armOf c.unit).activity = .fault ∧ (t.armOf c.unit).spin = .off ∧ (t.armOf c.unit).spinDownTimer = none ∧
     (c.kind.movesHeight = true → (t.armOf c.unit).height = .unknown ∧ (t.armOf c.unit).reach = (s.armOf c.unit).reach) ∧
     (c.kind.movesHeight = false → (t.armOf c.unit).reach = .unknown ∧ (t.armOf c.unit).height = (s.armOf c.unit).height) ∧
     (t.armOf c.unit).holds = (s.armOf c.unit).holds ∧ (t.armOf c.unit).goal = (s.armOf c.unit).goal ∧
     t.arms.lastEnd.get c.kind = some t.clock ∧ (∀ e ∈ t.arms.queue, e.unit ≠ c.unit) ∧
     t.cond.get (.armTimeout c.unit) = .latched ∧
     t.pins = s.pins ∧ t.setup = s.setup ∧ t.pcu = s.pcu ∧ t.recipes = s.recipes ∧ t.sensors = s.sensors)

/-! ## The Spray Controller -/

/-- R94, R95, R96, R97, R101: SPRAY sets spray enable off for 0 and on for every other value, with CLAMPED above 1, and
the wanted set is formed. A group is wanted when spraying is enabled in WORK or STOWING with water in the tank, the group
is in the mask and its unit's brush is driven, for NF any brush. In LEAD and FLOWING with a group wanted the valves follow
the set, those of the groups that left closing at once, and the flow target is then evaluated; that a forming which also
makes the target 0 moves the valves before it enters LAG is the model's reading (assumption log 34). With no group left
they stay for the lag, as in LAG. The flow target is 0 with nothing wanted, idle_flow below 100 mm/s, and otherwise the
speed times the adjusted dose, each limited to flow_full. -/
def Obligations.SprayFormsTheWantedSetAndFlowTarget : Prop :=
  (∀ (s : State) (tag v : Byte), Ready 0x14 tag [v] s →
    (s.mc.mode = .settle → exec (.spray tag [v]) s = .next (s.onlyAnswered 0x14 tag [v] [0x10])) ∧
    (s.mc.mode ≠ .settle → exec (.spray tag [v]) s = .next (State.replied [if v.toNat ≤ 1 then 0x00 else 0x01]
      (formWanted { s.holding 0x14 tag [v] with spray := { s.spray with enable := decide (v ≠ 0) } })).sent)) ∧
  (∀ s : State,
    let p := s.spray
    let allowed := p.enable = true ∧ (s.mc.mode = .work ∨ s.mc.mode = .stowing) ∧ p.empty = false
    let t := formWanted s
    (t.spray.wanted.nl = true ↔ allowed ∧ p.mask.nl = true ∧ p.brushOn.l = true) ∧
    (t.spray.wanted.nr = true ↔ allowed ∧ p.mask.nr = true ∧ p.brushOn.r = true) ∧
    (t.spray.wanted.nm = true ↔ allowed ∧ p.mask.nm = true ∧ p.brushOn.m = true) ∧
    (t.spray.wanted.nf = true ↔ allowed ∧ p.mask.nf = true ∧ ∃ u, p.brushOn.get u = true) ∧
    let w := t.spray.wanted
    let nothing := w.nl = false ∧ w.nr = false ∧ w.nm = false ∧ w.nf = false
    let flows := p.seq = .lead ∨ p.seq = .flowing
    (flows → ¬ nothing → t = evaluateFlow { s with spray := { p with wanted := w, valves := w } }) ∧
    (¬ flows ∨ nothing → t = evaluateFlow { s with spray := { p with wanted := w } }) ∧
    (t.spray.seq = .lead ∨ t.spray.seq = .flowing → ¬ nothing ∨ WaterOk s → t.spray.valves = w) ∧
    (flows → ¬ nothing → t.spray.seq = .lag → t.spray.valves = w) ∧
    (¬ flows ∨ nothing → t.spray.seq = .lag → t.spray.valves = p.valves) ∧
    t.spray.q = flowTarget t ∧ t = { s with spray := t.spray }) ∧
  (∀ s : State, 0 ≤ s.spray.doseMax →
    let p := s.spray
    let d := s.sensor .dust
    let code := if p.dustBase < d then p.ctUp else p.ctDn
    let n : Int := if code = 0 then 0 else if code = 1 then 1 else if code = 2 then 2 else if code = 3 then 4 else 8
    let limited := max 0 (min p.doseMax ((p.dose * 80 + (d - p.dustBase) * n).tdiv 80))
    let dose := if p.low then limited / 2 else limited
    flowTarget s =
      if p.wanted = ⟨false, false, false, false⟩ then 0
      else if |s.pcu.sample| < 100 then min p.idleFlow s.setup.flowFull
      else min s.setup.flowFull ((|s.pcu.sample| * dose).tdiv 1000))

/-- R98, R99, R100, R102: an evaluation whose flow target keeps its value changes nothing. A new target of 0 takes the
command to 0 and stops the ramp timer; from 0 the command takes its first step at once; otherwise the timer is stopped at
the target, started when it was stopped, and left running when it ran. Each expiry takes one step of water_step toward the
target. A changed command restates the demand; at 0 the pump stops and the valves stay for valve_lag; from 0 the wanted
valves open and the pump waits for valve_lead; between nonzero values the pump follows. R100, R102, R103, R104: the lead
timer's expiry with a command above 0 enters FLOWING with the pump driven, and the lag timer's closes every valve and
enters DRY. The pump flow is the command scaled by the WATER share toward zero in FLOWING and 0 elsewhere, never above the
command, and WPUMP is its part of flow_full, at most 1000; a published share reaches the pump in FLOWING alone. The tank
test gives TANK_LOW and then TANK_EMPTY their values by threshold and hysteresis; a flag that changes is told to the
Condition Monitor, and the flow target, or the wanted set, is formed again. -/
def Obligations.WaterFollowsTargetLeadAndLag : Prop :=
  ((∀ s : State,
     let p := s.spray
     let q := flowTarget s
     let n := { p with q := q }
     let first := min q p.waterStep
     let e := (evaluateFlow s).spray
     evaluateFlow s = { s with spray := e } ∧
     (q = p.q → e = p) ∧
     (q ≠ p.q → q = 0 → e = { setCommand s 0 n with rampTimer := none }) ∧
     (q ≠ p.q → q ≠ 0 → p.command = 0 → e = { setCommand s first n with
       rampTimer := if first < q then some (s.clock + 100000) else none }) ∧
     (q ≠ p.q → q ≠ 0 → p.command ≠ 0 → e = { n with
       rampTimer := if q = p.command then none else if p.rampTimer = none then some (s.clock + 100000)
         else p.rampTimer })) ∧
   (∀ (s : State) (due : Nat), s.spray.rampTimer = some due →
     let x := s.atTime due
     let p := s.spray
     let c := if p.command < p.q then min p.q (p.command + p.waterStep)
       else if p.q < p.command then max p.q (p.command - p.waterStep) else p.command
     exec .waterRampTimerExpiry s = .next { x with
       spray := { setCommand x c p with rampTimer := if c = p.q then none else some (x.clock + 100000) }
       link := s.link.transmit }) ∧
   (∀ (s : State) (c : Int) (p : Spray),
     let m := { p with command := c, demand := (c * s.setup.kw).tdiv 100 }
     let stopped := { m with pumpFlow := 0, wpump := 0, leadTimer := none }
     let opened := { m with valves := p.wanted, lagTimer := none }
     (c = p.command → setCommand s c p = p) ∧
     (c ≠ p.command → c = 0 → setCommand s c p =
       if s.setup.valveLag = 0 then
         { stopped with seq := .dry, valves := ⟨false, false, false, false⟩, lagTimer := none }
       else { stopped with seq := .lag, lagTimer := some (s.clock + s.setup.valveLag.toNat * 1000) }) ∧
     (c ≠ p.command → p.command = 0 → setCommand s c p =
       if s.setup.valveLead = 0 then pumpUpdate s { opened with seq := .flowing, leadTimer := none }
       else { opened with
         seq := .lead, leadTimer := some (s.clock + s.setup.valveLead.toNat * 1000), pumpFlow := 0, wpump := 0 }) ∧
     (c ≠ p.command → c ≠ 0 → p.command ≠ 0 → setCommand s c p = pumpUpdate s m))) ∧
  (∀ s : State,
     let p := s.spray
     (∀ due, p.leadTimer = some due →
       (0 < p.command → exec .valveLeadTimerExpiry s = .next { s.atTime due with
         spray := pumpUpdate (s.atTime due) { p with leadTimer := none, seq := .flowing }, link := s.link.transmit }) ∧
       (p.command ≤ 0 → exec .valveLeadTimerExpiry s = .next { s.atTime due with
         spray := { p with leadTimer := none }, link := s.link.transmit })) ∧
     (∀ due, p.lagTimer = some due → exec .valveLagTimerExpiry s = .next { s.atTime due with
       spray := { p with seq := .dry, valves := ⟨false, false, false, false⟩, lagTimer := none, leadTimer := none }
       link := s.link.transmit }) ∧
     (∀ n : Spray,
       let share := s.arb.consumers.water.share
       let flow := if n.seq = .flowing then (n.command * share).tdiv 1000 else 0
       pumpUpdate s n = { n with pumpFlow := flow, wpump := min 1000 ((flow * 1000).tdiv s.setup.flowFull) } ∧
       (0 ≤ n.command → 0 ≤ share → share ≤ 1000 → 0 ≤ flow ∧ flow ≤ n.command)) ∧
     (p.seq = .flowing → waterShare s = { s with spray := pumpUpdate s p }) ∧
     (p.seq ≠ .flowing → waterShare s = s) ∧
     (let level := s.sensor .tank
      let low : Bool := if p.low then decide (level ≤ s.setup.tankLow + s.setup.tankHyst) else decide (level ≤ s.setup.tankLow)
      let empty : Bool :=
       if p.empty then decide (level ≤ s.setup.tankEmpty + s.setup.tankHyst) else decide (level ≤ s.setup.tankEmpty)
      let lowered := if low = p.low then s
       else evaluateFlow (notice .tankLow low { s with spray := { p with low := low } })
      tankTest s = if empty = p.empty then lowered
       else formWanted (notice .tankEmpty empty { lowered with spray := { lowered.spray with empty := empty } })))

/-- R101, R103: whatever the command, the law of the valve sequence holds on, and under it the water pump is driven only
into open valves and with water in the tank; the premise on the recipes is an invariant of its own
(RecipeTableAndStackStayLawful). The law also holds on through each operation of the Spray Controller: every evaluation of
the flow target, every forming of the wanted set, every tank test and every published share. -/
def Obligations.PumpRunsOnlyIntoOpenValves : Prop :=
  (∀ s t : State, WaterOk s → RecipesOk s → step s = .next t → WaterOk t) ∧
  WaterOk State.reset ∧
  (∀ s : State, WaterOk s →
    (s.spray.wpump ≠ 0 → s.spray.valves ≠ ⟨false, false, false, false⟩ ∧ s.spray.empty = false) ∧
    WaterOk (evaluateFlow s) ∧ WaterOk (formWanted s) ∧ WaterOk (tankTest s) ∧ WaterOk (waterShare s) ∧
    (∀ c t, (c = .waterRampTimerExpiry ∨ c = .valveLeadTimerExpiry ∨ c = .valveLagTimerExpiry ∨
      ∃ tag body, c = .spray tag body) → exec c s = .next t → WaterOk t))

/-! ## The Load Share Arbiter -/

/-- R111, R112, R113: SUPPLY stores its value, an unsigned number, up to 2000 with CLAMPED above that, starts the hold
timer again and ends a stale supply with its notice. The hold timer's expiry leaves it stopped and makes the supply stale,
with the notice when it was not. The supply in use is the stored value, or fallback_supply while it is stale. A recipe's
levels replace those of the brushes and the water, and that of the drive unless it is 0; ARMS keeps its level, and grants
and shares stay. -/
def Obligations.SupplyIsStoredAndGoesStale : Prop :=
  ∀ s : State,
    (∀ tag hi lo, Ready 0x04 tag [hi, lo] s →
      let v : Int := (hi.toNat * 256 + lo.toNat : Nat)
      let taken := { s.holding 0x04 tag [hi, lo] with arb := { s.arb with
        supply := min 2000 v, holdTimer := some (s.clock + s.setup.supplyHold.toNat * 1000), stale := false } }
      (s.mc.mode = .settle → exec (.supply tag [hi, lo]) s = .next (s.onlyAnswered 0x04 tag [hi, lo] [0x10])) ∧
      (s.mc.mode = .standby → exec (.supply tag [hi, lo]) s = .next (s.onlyAnswered 0x04 tag [hi, lo] [0x11])) ∧
      (s.mc.mode ≠ .settle → s.mc.mode ≠ .standby → exec (.supply tag [hi, lo]) s =
        .next (State.replied [if 2000 < v then 0x01 else 0x00]
          (if s.arb.stale then notice .supplyStale false taken else taken)).sent)) ∧
    (∀ due, s.arb.holdTimer = some due →
      let aged := { s.atTime due with arb := { s.arb with holdTimer := none, stale := true } }
      exec .supplyHoldTimerExpiry s =
        .next (State.sent (if s.arb.stale then aged else notice .supplyStale true aged))) ∧
    supplyInUse s = (if s.arb.stale then s.setup.fallbackSupply else s.arb.supply) ∧
    (∀ f : RecipeFields,
      let p := s.arb.consumers
      (arbiterRecipe f s).arb.consumers = {
        arms := p.arms
        drive := { p.drive with level := if f[18].toNat = 0 then p.drive.level else f[18].toNat }
        broomM := { p.broomM with level := f[19].toNat }
        brushL := { p.brushL with level := f[20].toNat }
        brushR := { p.brushR with level := f[21].toNat }
        water := { p.water with level := f[22].toNat } })

/-- R116, R118, R119, R120, R121: an allocation at the arbiter's period. The budget is 0 in a stop and otherwise the
supply in use, derated where the flag stands, less the reserve and not below 0. The six consumers are visited by level,
equal levels by rank; each is given the smaller of its ceiling (its demand, and its previous grant with the rise) and what
is left, so that the grants together never pass the budget nor any grant its demand; the share is 1000 for a demand of 0
or met, and otherwise the grant's part of it rounded down. The ARMS demand has then been read, and the timer runs again.
The shares are published to the start test of the arms, the outputs of the brushes and the water pump, in the model's
order (assumption log 9); the drive applies its share at its next period. -/
def Obligations.AllocationGrantsByLevelWithinTheBudget : Prop :=
  ∀ s : State,
    let order := visitOrder s.arb.consumers
    let level (c : Consumer) := (s.arb.consumers.get c).level
    let t := allocate s
    let grant (c : Consumer) := (t.arb.consumers.get c).grant
    t.arb.budget = (if s.arb.stop then 0 else max 0
      ((supplyInUse s * (if s.arb.derate then s.setup.derate else 100)).tdiv 100 - s.setup.reserve)) ∧
    order.Perm [.arms, .drive, .broomM, .brushL, .brushR, .water] ∧
    order.Pairwise (fun a b => level b < level a ∨
      level a = level b ∧ allConsumers.idxOf a < allConsumers.idxOf b) ∧
    (∀ before c after, order = before ++ c :: after →
      let d := s.demandOf c
      let left := t.arb.budget - (before.map grant).sum
      let g := min (min d ((s.arb.consumers.get c).grant + s.setup.grantRise)) left
      t.arb.consumers.get c = ⟨level c, d, g, if d = 0 ∨ g = d then 1000 else (g * 1000).fdiv d⟩) ∧
    (order.map grant).sum ≤ t.arb.budget ∧ (∀ c, grant c ≤ s.demandOf c) ∧
    ((∀ c, 0 ≤ s.demandOf c ∧ 0 ≤ (s.arb.consumers.get c).grant) → 0 ≤ s.setup.grantRise → ∀ c,
      0 ≤ grant c ∧ 0 ≤ (t.arb.consumers.get c).share ∧ (t.arb.consumers.get c).share ≤ 1000) ∧
    t = { s with
      arms := { s.arms with demandRead := true }
      arb := { s.arb with budget := t.arb.budget, consumers := t.arb.consumers } } ∧
    visitOrder State.reset.arb.consumers = [.arms, .broomM, .brushL, .brushR, .drive, .water] ∧
    publishShares s = waterShare (updateOutput .r (updateOutput .l (updateOutput .m (runStartTest s)))) ∧
    (∀ due, s.arb.periodTimer = some due →
      let published := publishShares (allocate (s.atTime due))
      exec .arbiterPeriodExpiry s = .next (State.sent { published with arb := { published.arb with
        periodTimer := some (published.clock + 10000) } }))

/-! ## The Sensor Link Master -/

/-- R143, R146, R147: the line and the rounds. The end of a master frame opens the reply window of 1 ms; a window that
closes is a failure by timeout; five bytes in it are a failure of the check when the check byte or the address is wrong,
and otherwise mean what their code says; five bytes outside a window are ignored. A transaction that ends starts the
turnaround of 50 µs, and its result acts unless an address write or a RESTART met it. At the turnaround's end the round
goes on with the READ after a STATE, then with the next due role, and ends with none left, the counter advanced; a round
starts at the period's expiry or, if that is past, at the end of the round before. A role is due when the counter divides
by its divisor and it has an address. A transaction is judged by the warming policy of its round (R152). A round under
which STANDBY was announced ends with the transaction in progress, whose STATE no READ follows. At waking a round starts
at once; that a round which still waits for its transaction ends there, and that transaction then belongs to none, is the
model's choice (assumption log 14). -/
def Obligations.SensorLineRunsItsPhases : Prop :=
  ∀ s : State,
    let sensors (f : SensorMaster → SensorMaster) (x : State) := { x with sensors := f x.sensors }
    let released := sensors (fun m => { m with line := .turnaround (s.clock + 50) }) s
    let ended (x : State) := sensors (fun m => { m with counter := (m.counter + 1) % 65536, round := none }) x
    let finished (x : State) := match x.sensors.round with
      | some z => if z.closing then ended x else x
      | none => x
    let sends (r : Role) (c : NodeCommand) (hold : Bool) (x : State) :=
      let a := BitVec.ofNat 8 (x.setup.address r).toNat
      let k : Byte := match c with
        | .identify => 0x10
        | .state => 0x20
        | .read => 0x30
      sensors (fun m => { m with
        line := .sending ⟨r, c, a, hold, false, false⟩ [a, k, 0, crc8 [a, k, 0]] (x.clock + 160) }) x
    (∀ tx frame due, s.sensors.line = .sending tx frame due → exec .masterFrameSent s = .next (State.sent
      (sensors (fun m => { m with line := .window tx (Nat.max s.clock due + 1000) }) (s.atTime due)))) ∧
    (∀ tx due, s.sensors.line = .window tx due →
      exec .replyWindowClose s = .next (endTransaction tx (.outcome (.failure .timeout)) (s.atTime due)).sent ∧
      ∀ a code high low check, exec (.sensorReplyComplete a code high low check) s = .next (endTransaction tx
        (if check = crc8 [a, code, high, low] ∧ a = tx.address then
          interpret tx.role tx.command tx.holdWarming code high low
        else .outcome (.failure .check)) s).sent) ∧
    ((∀ tx due, s.sensors.line ≠ .window tx due) → ∀ a code high low check,
      exec (.sensorReplyComplete a code high low check) s = .next s.sent) ∧
    (∀ tx o, endTransaction tx (.outcome o) s =
      finished (if tx.discard then released else applyOutcome tx.role o released)) ∧
    (∀ tx, endTransaction tx .identified s = finished (if tx.discard then released else
      sensors (fun m => { m with channels := m.channels.set tx.role { m.channels.get tx.role with identified := true } })
        released)) ∧
    (∀ tx x, tx.discard = false → tx.orphan = false → s.sensors.round = some x → x.closing = false →
      endTransaction tx .follow s = sensors (fun m => { m with round := some { x with follow := some tx.role } }) released) ∧
    (∀ tx, tx.discard = true ∨ tx.orphan = true ∨ (∀ x, s.sensors.round = some x → x.closing = true) →
      endTransaction tx .follow s = finished released) ∧
    (∀ x : Round,
      (∀ r, x.follow = some r → nextTransaction x s =
        sends r .read (x.settings.get r).holdWarming
          (sensors (fun m => { m with round := some { x with follow := none } }) s)) ∧
      (∀ r rest, x.follow = none → x.due = r :: rest →
        let c := s.sensors.channels.get r
        nextTransaction x s = sends r
          (if (c.state = .unknown ∨ c.state = .lost) ∧ c.identified = false then .identify
            else if (x.settings.get r).queryFirst then .state else .read) (x.settings.get r).holdWarming
          (sensors (fun m => { m with round := some { x with due := rest } }) s)) ∧
      (x.follow = none → x.due = [] → nextTransaction x s = ended s)) ∧
    (let roles := [Role.drivePA, .drivePB, .auxP, .oilT, .tank, .dust, .curbL, .curbR].filter fun r =>
      decide (s.sensors.counter % s.setup.divisor r = 0 ∧ (s.sensors.channels.get r).state ≠ .unassigned)
     let x : Round := ⟨roles, none, roundSettings s, false⟩
     let begun := sensors (fun m => { m with
      roundTimer := some (s.clock + s.setup.roundPeriod.toNat * 1000), round := some x }) s
     (∀ r, (x.settings.get r).queryFirst = s.setup.queryFirst r ∧ (x.settings.get r).holdWarming = s.setup.holdWarming r) ∧
     startRound s =
      if roles = [] then ended begun else if s.sensors.line = .idle then nextTransaction x begun else begun) ∧
    (∀ due, s.sensors.roundTimer = some due →
      let expired := sensors (fun m => { m with roundTimer := none }) (s.atTime due)
      exec .roundPeriodTimerExpiry s =
        .next (State.sent (if s.sensors.round = none then startRound expired else expired))) ∧
    (∀ due, s.sensors.line = .turnaround due →
      let idle := sensors (fun m => { m with line := .idle }) (s.atTime due)
      (s.sensors.round = none → exec .turnaroundExpiry s = .next idle.sent) ∧
      (∀ x, s.sensors.round = some x →
        let n := nextTransaction x idle
        exec .turnaroundExpiry s =
          .next (State.sent (if n.sensors.round = none ∧ n.sensors.roundTimer = none then startRound n else n)))) ∧
    (let orphaned (tx : Transaction) := { tx with orphan := true }
     let marked := sensors (fun m => { m with line := match m.line with
       | .sending tx frame due => .sending (orphaned tx) frame due
       | .window tx due => .window (orphaned tx) due
       | l => l }) s
     sensorsWake s = startRound (if s.sensors.round = none then s else ended marked))

/-- R150: a seed sets F to 16 × raw and a filter step adds (16 × raw − F) / 2^k rounded down; after each the filtered
value is F / 16 to the nearest integer with a half rounding up. With k at 0 a step brings F to 16 × raw and the filtered
value to raw. -/
def Obligations.FilterStepsTowardTheReading : Prop :=
  ∀ (c : Channel) (k : Nat),
    let step := (16 * c.raw - c.f).fdiv (2 ^ k)
    c.seed = { c with f := 16 * c.raw, filtered := c.raw } ∧
    (c.filterStep k).f = c.f + step ∧
    step * 2 ^ k ≤ 16 * c.raw - c.f ∧ 16 * c.raw - c.f < (step + 1) * 2 ^ k ∧
    16 * (c.filterStep k).filtered - 8 ≤ (c.filterStep k).f ∧ (c.filterStep k).f < 16 * (c.filterStep k).filtered + 8 ∧
    c.filterStep k = { c with f := (c.filterStep k).f, filtered := (c.filterStep k).filtered } ∧
    (c.filterStep 0).f = 16 * c.raw ∧ (c.filterStep 0).filtered = c.raw

/-- R144, R147, R148, R149, R151, Tables 9-1, 9-4 and 9-5: what an answered reply means, what each outcome makes of a
channel in each of its states, and whom the Master tells: the Condition Monitor when the channel becomes or ceases to be
LOST, and the readers when it becomes or ceases to be usable and at a good outcome of a usable channel; that the Monitor
is told before the readers is the model's choice (assumption log 37). The readers of each role (Table 9-2): the loop
pressure and oil temperature tests, the demands of the three brushes, the tank test, the flow target and the curb
readings. R151, R153, R169: the value of a role for use is the filtered value of a channel in OK or SUSPECT and the
substitute in every other state: a setup value, oil_high for OIL_T, and for DUST the dust_base last announced. SENSOR_READ
answers the role's record as it stands when it is taken, refuses a number above 7 with BAD_SLOT, and changes nothing. -/
def Obligations.ChannelsFollowTheirOutcomes : Prop :=
  ((∀ (r : Role) (hold : Bool) (code high low : Byte),
     let bad : Answered := .outcome (.failure (if code = 0x08 then .nodeFault else .badCode))
     let value : Answered :=
       .outcome (.good (max (roleRange r).1 (min (roleRange r).2 (high ++ low : BitVec 16).toInt)))
     interpret r .identify hold code high low =
       (if code = 0x00 ∨ code = 0x01 then if high = roleKind r then .identified else .outcome .mismatch else bad) ∧
     interpret r .state hold code high low =
       (if code = 0x00 then .follow else if code = 0x01 then if hold then .outcome .none else .follow else bad) ∧
     interpret r .read hold code high low =
       (if code = 0x00 then value else if code = 0x01 then if hold then .outcome .none else value
         else if code = 0x02 then .outcome (.good (roleRange r).2)
         else if code = 0x03 then .outcome (.good (roleRange r).1) else bad)) ∧
   (∀ (c : Channel) (k : Nat),
     let n := min 255 (c.failures + 1)
     let lost (w : Cause) := { c with
       state := .lost, identified := false, failures := n, goodRun := 0, cause := some w }
     let ok (d : Channel) := { d with state := ChannelState.ok, goodRun := 0, cause := none }
     (∀ v,
       let read := { c with raw := v, failures := 0 }
       (c.state = .unknown → c.apply k (.good v) = ok read.seed) ∧
       (c.state = .ok → c.apply k (.good v) = read.filterStep k) ∧
       (c.state = .suspect → c.apply k (.good v) = ok (read.filterStep k)) ∧
       (c.state = .lost → c.goodRun = 0 → c.apply k (.good v) = { read.seed with goodRun := 1 }) ∧
       (c.state = .lost → c.goodRun ≠ 0 → c.apply k (.good v) = ok (read.filterStep k))) ∧
     (∀ w,
       (c.state = .ok → c.apply k (.failure w) = { c with state := .suspect, failures := n }) ∧
       (c.state = .unknown ∨ c.state = .suspect →
         c.apply k (.failure w) = if 3 ≤ n then lost w else { c with failures := n }) ∧
       (c.state = .lost → c.apply k (.failure w) = lost w)) ∧
     (c.state ≠ .unassigned → c.apply k .mismatch = lost .mismatch) ∧
     c.apply k .none = c ∧ (c.state = .unassigned → ∀ o, c.apply k o = c)) ∧
   (∀ (s : State) (r : Role) (o : PollOutcome),
     let before := s.sensors.channels.get r
     let after := before.apply (s.setup.filterK r) o
     let put := { s with sensors := { s.sensors with channels := s.sensors.channels.set r after } }
     let noticed := if before.state ≠ .lost ∧ after.state = .lost then notice (.sensorLost r) true put
       else if before.state = .lost ∧ after.state ≠ .lost then notice (.sensorLost r) false put else put
     let usable (c : Channel) := c.state = .ok ∨ c.state = .suspect
     (¬(usable before ↔ usable after) ∨ (usable before ∧ ∃ v, o = .good v) →
       applyOutcome r o s = tellReaders r noticed) ∧
     ((usable before ↔ usable after) ∧ ¬(usable before ∧ ∃ v, o = .good v) → applyOutcome r o s = noticed)) ∧
   (∀ s : State,
     tellReaders .drivePA s = loopTest s ∧ tellReaders .drivePB s = loopTest s ∧ tellReaders .oilT s = oilTest s ∧
     tellReaders .tank s = tankTest s ∧ tellReaders .dust s = evaluateFlow s ∧
     tellReaders .curbL s = curbRead .l s ∧ tellReaders .curbR s = curbRead .r s ∧
     (let t := tellReaders .auxP s
      (∀ u, t.brushOf u = { s.brushOf u with
         demand := min 2000 ((s.sensor .auxP * (s.brushOf u).c * s.setup.vm u).tdiv 600000) }) ∧
       t = { s with brush := { s.brush with units := t.brush.units } }))) ∧
  (∀ s : State,
     (∀ r : Role,
       let c := s.sensors.channels.get r
       (c.state = .ok ∨ c.state = .suspect → s.sensor r = c.filtered) ∧
       (¬(c.state = .ok ∨ c.state = .suspect) → s.sensor r = match r with
         | .drivePA => s.setup.sensor[6]
         | .drivePB => s.setup.sensor[12]
         | .auxP => s.setup.sensor[18]
         | .oilT => s.setup.limits[3]
         | .tank => s.setup.sensor[30]
         | .dust => s.sensors.dustBase
         | .curbL => s.setup.sensor[42]
         | .curbR => s.setup.sensor[48])) ∧
     (∀ tag n, Ready 0x17 tag [n] s →
       (s.mc.mode = .settle → exec (.sensorRead tag [n]) s = .next (s.onlyAnswered 0x17 tag [n] [0x10])) ∧
       (s.mc.mode ≠ .settle → 7 < n.toNat →
         exec (.sensorRead tag [n]) s = .next (s.onlyAnswered 0x17 tag [n] [0x17])) ∧
       (∀ r, s.mc.mode ≠ .settle →
         [Role.drivePA, .drivePB, .auxP, .oilT, .tank, .dust, .curbL, .curbR][n.toNat]? = some r →
         let c := s.sensors.channels.get r
         let state : Byte := match c.state with
           | .unassigned => 0
           | .unknown => 1
           | .ok => 2
           | .suspect => 3
           | .lost => 4
         let cause : Byte := match c.cause with
           | none => 0
           | some .timeout => 1
           | some .check => 2
           | some .badCode => 3
           | some .nodeFault => 4
           | some .mismatch => 5
         exec (.sensorRead tag [n]) s = .next (s.onlyAnswered 0x17 tag [n]
           ([0x00, n, state] ++ bytes16 c.raw ++ bytes16 c.filtered ++ [BitVec.ofNat 8 c.failures, cause])))))

/-! ## The Condition Monitor -/

/-- R155, R156, R159, R162, Tables 10-1 and 10-2: a notice of a kind. A kind told present becomes PRESENT; one no longer
present leaves PRESENT for CLEAR, or for LATCHED when it is one of the ten latching kinds. A record that keeps its state
gives nothing; one that changes moves the counts, posts one CONDITION report with the counts after the change, and gives
the Arbiter its flags: derate while one of the two DERATE kinds is PRESENT, stop while OIL_OVER is. -/
def Obligations.ConditionRecordsFollowTheirNotices : Prop :=
  ∀ (s : State) (k : CondKind) (present : Bool),
    let latching := CondKind.oilOver ::
      [BrushUnit.l, .r, .m].flatMap fun u => [CondKind.brushStall u, .armTimeout u, .switch u]
    let before := s.cond.get k
    let after : CondState := if present then .present
      else if before = .present then (if k ∈ latching then .latched else .clear) else before
    let t := notice k present s
    let one (v w : CondState) : Nat := if v = w then 1 else 0
    let derates (x : State) := x.cond.get .oilHigh = .present ∨ x.cond.get .loopOver = .present
    (after = before → t = s) ∧
    (after ≠ before →
      (∀ j, t.cond.get j = if j = k then after else s.cond.get j) ∧
      t.cond.presentCount + one before .present = s.cond.presentCount + one after .present ∧
      t.cond.latchedCount + one before .latched = s.cond.latchedCount + one after .latched ∧
      t = { s with
        cond := t.cond
        link := s.link.post (.condition k before after t.cond.presentCount t.cond.latchedCount)
        arb := { s.arb with derate := t.arb.derate, stop := t.arb.stop } } ∧
      ((s.arb.derate = true ↔ derates s) → (t.arb.derate = true ↔ derates t)) ∧
      ((s.arb.stop = true ↔ s.cond.get .oilOver = .present) → (t.arb.stop = true ↔ t.cond.get .oilOver = .present)) ∧
      (k ≠ .oilHigh → k ≠ .loopOver → t.arb.derate = s.arb.derate) ∧ (k ≠ .oilOver → t.arb.stop = s.arb.stop))

/-- R161, R160, R88, Table 10-3: CLEAR refuses a number above 31 with BAD_SLOT; a latching kind in LATCHED becomes CLEAR,
with the STALL hold released for a brush stall, and for a timeout or a switch the end of the unit's FAULT once neither
stands; one in PRESENT is answered STILL_PRESENT; everything else is answered OK and changed in nothing. The reply carries
the state after. Where the end of FAULT reads the switches, the reach is set and told before the height is read: the
model's choice (assumption log 44). The CLEAR's CONDITION report stands before the reports of the reaction, an order that
R156 leaves open: the model's choice (assumption logs 31 and 49). -/
def Obligations.ClearEndsALatchedCondition : Prop :=
  ∀ (s : State) (tag n : Byte), Ready 0x15 tag [n] s →
    let h := s.holding 0x15 tag [n]
    let latching := CondKind.oilOver ::
      [BrushUnit.l, .r, .m].flatMap fun u => [CondKind.brushStall u, .armTimeout u, .switch u]
    (s.mc.mode = .settle → exec (.clear tag [n]) s = .next (s.onlyAnswered 0x15 tag [n] [0x10])) ∧
    (s.mc.mode ≠ .settle → 31 < n.toNat → exec (.clear tag [n]) s = .next (s.onlyAnswered 0x15 tag [n] [0x17])) ∧
    (∀ k : CondKind, s.mc.mode ≠ .settle → n.toNat = k.number →
      let cleared := changeRecord k .clear h
      let code : Byte := match s.cond.get k with
        | .clear => 0
        | .present => 1
        | .latched => 2
      let ended : State := match k with
        | .brushStall u => releaseHold u .stall cleared
        | .armTimeout u | .switch u => faultCleared u cleared
        | _ => cleared
      (k ∈ latching → s.cond.get k = .latched → exec (.clear tag [n]) s = .next (State.replied
        [0x00, match ended.cond.get k with | .clear => 0 | .present => 1 | .latched => 2] ended).sent) ∧
      (k ∈ latching → s.cond.get k = .present →
        exec (.clear tag [n]) s = .next (s.onlyAnswered 0x15 tag [n] [0x1B, 0x01])) ∧
      (k ∉ latching ∨ s.cond.get k = .clear →
        exec (.clear tag [n]) s = .next (s.onlyAnswered 0x15 tag [n] [0x00, code]))) ∧
    (∀ u,
      let a := s.armOf u
      let ends := a.activity = .fault ∧ s.cond.get (.armTimeout u) = .clear ∧ s.cond.get (.switch u) = .clear
      let read := setHeight u (s.pins.switches.get u).height (setReach u ((s.pins.switches.get u).reach u) s)
      let w := s.pins.switches.get u
      let both := w.isIn = true ∧ w.out = true ∨ w.up = true ∧ w.down = true
      (¬ ends → faultCleared u s = s) ∧
      (ends → both → faultCleared u s = enterFault u (notice (.switch u) true read)) ∧
      (ends → ¬ both → faultCleared u s =
        if read.mc.mode = .standby ∨ read.mc.mode = .settle then read.putArm u { read.armOf u with activity := .idle }
        else runStartTest (planStep u read)))

/-- R11, R157, R158: the Monitor's own limits. OIL_HIGH and OIL_OVER are tested in that order with the oil temperature
then for use, LOOP_OVER with both loop pressures: present at the limit or above, no longer present below it by more than
the hysteresis, left alone between. OIL_OVER becoming present forces PARKING in TRANSPORT, WORK and STOWING. Its CONDITION
report stands before the reports of that PARKING, an order that R156 leaves open: the model's choice (assumption logs 31
and 49). -/
def Obligations.MonitorTestsItsLimits : Prop :=
  ∀ s : State,
    let t := s.sensor .oilT
    let a := s.sensor .drivePA
    let b := s.sensor .drivePB
    let high := s.cond.get .oilHigh
    let stop := s.cond.get .oilOver
    let loop := s.cond.get .loopOver
    let stopped := notice .oilOver true s
    oilTest s = oilOverTest t (oilHighTest t s) ∧
    (high = .clear → s.setup.oilHigh ≤ t → oilHighTest t s = notice .oilHigh true s) ∧
    (high = .present → t < s.setup.oilHigh - s.setup.oilHyst → oilHighTest t s = notice .oilHigh false s) ∧
    (¬(high = .clear ∧ s.setup.oilHigh ≤ t) → ¬(high = .present ∧ t < s.setup.oilHigh - s.setup.oilHyst) →
      oilHighTest t s = s) ∧
    (stop ≠ .present → s.setup.oilOver ≤ t →
      (s.mc.mode = .transport ∨ s.mc.mode = .work ∨ s.mc.mode = .stowing →
        oilOverTest t s = enterTravel .parking stopped) ∧
      (¬(s.mc.mode = .transport ∨ s.mc.mode = .work ∨ s.mc.mode = .stowing) → oilOverTest t s = stopped)) ∧
    (stop = .present → t < s.setup.oilOver - s.setup.oilHyst → oilOverTest t s = notice .oilOver false s) ∧
    (¬(stop ≠ .present ∧ s.setup.oilOver ≤ t) → ¬(stop = .present ∧ t < s.setup.oilOver - s.setup.oilHyst) →
      oilOverTest t s = s) ∧
    (loop = .clear → s.setup.loopOver ≤ max a b → loopTest s = notice .loopOver true s) ∧
    (loop = .present → max a b < s.setup.loopOver - s.setup.loopHyst → loopTest s = notice .loopOver false s) ∧
    (¬(loop = .clear ∧ s.setup.loopOver ≤ max a b) →
      ¬(loop = .present ∧ max a b < s.setup.loopOver - s.setup.loopHyst) → loopTest s = s)

/-! ## The Recipe Unit -/

/-- R127, R128, R129: RECIPE_WRITE applies its pairs in list order as one change: each field takes its limited value and
its dirty mark, and the slot becomes valid; the reply names the clamped fields in list order under CLAMPED, a field that
two clamped pairs name once (the model's choice, assumption log 36). A slot above 31 is refused with BAD_SLOT and a field
above 22 with BAD_TABLE, with nothing changed. A range takes its nearer end, a mask loses the members beyond its set; the
limits of the 23 fields are those of Table 8-1. RECIPE_READ shows a slot's valid flag, fields and dirty marks, or a stack
entry's source, kind and fields, and changes nothing. A place type above 1, for which Table 11-4 gives no result, is
answered all the same: with a result code of Table 11-2, which stands alone from 10h on (R168), and the counter of the
model's free values advances: the model's choice (assumption log 4). That a slot above 31 is answered before a field above
22 is the model's choice (assumption log 48). The one bit of the dirty-mark bytes without a field is left open here (log
47). -/
def Obligations.RecipeSlotsAreWrittenAndRead : Prop :=
  (∀ (s : State) (tag slot : Byte) (pairs : List (Byte × Byte × Byte)), 1 ≤ pairs.length → pairs.length ≤ 18 →
    let body := slot :: pairs.flatMap fun p => [p.1, p.2.1, p.2.2]
    let value (p : Byte × Byte × Byte) : Int := (p.2.1 ++ p.2.2 : BitVec 16).toInt
    let stored (p : Byte × Byte × Byte) : Int := (((fieldLimits[p.1.toNat]?).map fun l => l.apply (value p)).getD 0)
    let clamped := ((pairs.filter fun p => decide (stored p ≠ value p)).map Prod.fst).eraseDups
    Ready 0x07 tag body s →
    (s.mc.mode = .settle → exec (.recipeWrite tag body) s = .next (s.onlyAnswered 0x07 tag body [0x10])) ∧
    (s.mc.mode ≠ .settle → 31 < slot.toNat →
      exec (.recipeWrite tag body) s = .next (s.onlyAnswered 0x07 tag body [0x17])) ∧
    (s.mc.mode ≠ .settle → slot.toNat ≤ 31 → (∃ p ∈ pairs, 22 < p.1.toNat) →
      exec (.recipeWrite tag body) s = .next (s.onlyAnswered 0x07 tag body [0x18])) ∧
    (∀ n : Fin 32, s.mc.mode ≠ .settle → n.val = slot.toNat → (∀ p ∈ pairs, p.1.toNat ≤ 22) → ∃ x : Slot,
      x.valid = true ∧
      (∀ i : Fin 23,
        (∀ p, (pairs.filter fun q => q.1.toNat = i.val).getLast? = some p →
          x.fields[i] = stored p ∧ x.dirty[i] = true) ∧
        ((∀ p ∈ pairs, p.1.toNat ≠ i.val) →
          x.fields[i] = s.recipes.slots[n].fields[i] ∧ x.dirty[i] = s.recipes.slots[n].dirty[i])) ∧
      exec (.recipeWrite tag body) s = .next { s with
        recipes := { s.recipes with slots := s.recipes.slots.set n.val x }
        link := s.link.answered 0x07 tag body (if clamped = [] then [0x00] else 0x01 :: clamped) [] })) ∧
  fieldLimits = [.range 300 6000, .range 1 200, .range 1 200, .range 0 3, .range 0 3, .range 0 3, .range 1 50, .range 0 4,
    .range 0 4, .mask 3, .range 0 100, .range 0 200, .range 0 1000, .range 0 4, .range 0 4, .range 0 200, .range 1 100,
    .mask 4, .range 0 3, .range 0 3, .range 0 3, .range 0 3, .range 0 3] ∧
  (∀ lo hi v : Int, lo ≤ hi → (FieldLimit.range lo hi).apply v = max lo (min hi v)) ∧
  (∀ (w : Nat) (v : Int), w ≤ 16 → (FieldLimit.mask w).apply v = v % 2 ^ w) ∧
  (∀ (s : State) (tag type number : Byte), Ready 0x08 tag [type, number] s → s.mc.mode ≠ .settle →
    ((type = 0 ∧ 31 < number.toNat) ∨ (type = 1 ∧ s.recipes.depth ≤ number.toNat) →
      exec (.recipeRead tag [type, number]) s = .next (s.onlyAnswered 0x08 tag [type, number] [0x17])) ∧
    (∀ n : Fin 32, type = 0 → n.val = number.toNat → ∃ marks : List Byte,
      marks.length = 3 ∧
      (∀ i : Fin 23, ((marks.map BitVec.toNat)[i.val / 8]?.getD 0).testBit (i.val % 8) = s.recipes.slots[n].dirty[i]) ∧
      exec (.recipeRead tag [type, number]) s = .next (s.onlyAnswered 0x08 tag [type, number]
        ([0x00, type, number, if s.recipes.slots[n].valid then 1 else 0] ++
          s.recipes.slots[n].fields.toList.flatMap bytes16 ++ marks))) ∧
    (∀ e, type = 1 → (s.recipes.base :: s.recipes.overrides)[number.toNat]? = some e →
      exec (.recipeRead tag [type, number]) s = .next (s.onlyAnswered 0x08 tag [type, number]
        ([0x00, type, number, BitVec.ofNat 8 e.source.val, if number = 0 then 0 else 1] ++
          e.fields.toList.flatMap bytes16))) ∧
    (1 < type.toNat → ∃ (code : Byte) (rest : List Byte),
      code ∈ ([0x00, 0x01, 0x02, 0x10, 0x11, 0x12, 0x13, 0x14, 0x15, 0x16, 0x17, 0x18, 0x19, 0x1A, 0x1B, 0x1E, 0x1F] :
        List Byte) ∧
      (0x10 ≤ code.toNat → rest = []) ∧ rest.length ≤ 55 ∧
      exec (.recipeRead tag [type, number]) s = .next { s with
        free := s.free + 1, link := s.link.answered 0x08 tag [type, number] (code :: rest) [] }))

/-- R130, R131: RECIPE_COPY takes the fields of a valid source into the destination, which becomes valid with every dirty
mark set; an invalid source is refused with NOT_VALID. RECIPE_ERASE gives a slot the default fields and no dirty marks and
makes it invalid, but for slot 0, which stays valid. A slot number above 31 is refused with BAD_SLOT, also where the
source of a RECIPE_COPY is invalid: the model's choice (assumption log 48). The stack and the zone queue stay. -/
def Obligations.RecipeSlotsAreCopiedAndErased : Prop :=
  ∀ (s : State) (tag a b : Byte),
    (Ready 0x09 tag [a, b] s →
      (s.mc.mode = .settle → exec (.recipeCopy tag [a, b]) s = .next (s.onlyAnswered 0x09 tag [a, b] [0x10])) ∧
      (s.mc.mode ≠ .settle → 31 < a.toNat ∨ 31 < b.toNat →
        exec (.recipeCopy tag [a, b]) s = .next (s.onlyAnswered 0x09 tag [a, b] [0x17])) ∧
      (∀ m n : Fin 32, s.mc.mode ≠ .settle → m.val = a.toNat → n.val = b.toNat →
        (s.recipes.slots[m].valid = false →
          exec (.recipeCopy tag [a, b]) s = .next (s.onlyAnswered 0x09 tag [a, b] [0x1A])) ∧
        (s.recipes.slots[m].valid = true → exec (.recipeCopy tag [a, b]) s = .next { s with
          recipes := { s.recipes with slots :=
            (s.recipes.slots.set n.val ⟨true, s.recipes.slots[m].fields, Vector.replicate 23 true⟩) }
          link := s.link.answered 0x09 tag [a, b] [0x00] [] }))) ∧
    (Ready 0x0A tag [a] s →
      (s.mc.mode = .settle → exec (.recipeErase tag [a]) s = .next (s.onlyAnswered 0x0A tag [a] [0x10])) ∧
      (s.mc.mode ≠ .settle → 31 < a.toNat →
        exec (.recipeErase tag [a]) s = .next (s.onlyAnswered 0x0A tag [a] [0x17])) ∧
      (∀ n : Fin 32, s.mc.mode ≠ .settle → n.val = a.toNat → exec (.recipeErase tag [a]) s = .next { s with
        recipes := { s.recipes with slots :=
          (s.recipes.slots.set n.val ⟨decide (n = 0), RecipeFields.defaults, Vector.replicate 23 false⟩) }
        link := s.link.answered 0x0A tag [a] [0x00] [] }))

/-- R132, R133, R134, R136: PUSH judges STANDBY, the slot number, its validity and the depth in that order, and otherwise
puts a copy of the slot on top of the stack; POP is refused in STANDBY and at depth 1, and otherwise takes the top entry
off. Each then makes a recipe change: one RECIPE report with the depth and the top slot after it, and the announcement of
the new top to the Drive Regulator, the Brush Speed Unit, the Arm Sequencer, the Spray Controller, the Arbiter and the
Sensor Link Master, in the model's order (assumption log 9). Every reply, a refusal too, carries the depth and the top
slot after the request. R45, R60, R72, R105, R151: what an announced recipe does to its receivers. The Drive Regulator
copies its three fields. The Brush Speed Unit copies step and rates; each unit takes its table, a new number leaving a
reselection pending, and an unsettled unit whose needed direction's rate was timed and is now DIRECT takes its command at
once. The Arm Sequencer copies the units mask and forms the goals, in the order L, R, M (assumption log 9). The Spray
Controller copies eight fields and forms the wanted set. The Sensor Link Master takes dust_base, and a new one reaches the
flow target while DUST is not usable. -/
def Obligations.StackRequestsChangeTheActiveRecipe : Prop :=
  ((∀ (s : State) (tag slot : Byte), Ready 0x11 tag [slot] s →
     let refused (code : Byte) := s.onlyAnswered 0x11 tag [slot]
       [code, BitVec.ofNat 8 s.recipes.depth, BitVec.ofNat 8 s.recipes.top.source.val]
     (s.mc.mode = .settle → exec (.push tag [slot]) s = .next (s.onlyAnswered 0x11 tag [slot] [0x10])) ∧
     (s.mc.mode = .standby → exec (.push tag [slot]) s = .next (refused 0x11)) ∧
     (s.mc.mode ≠ .settle → s.mc.mode ≠ .standby →
       (31 < slot.toNat → exec (.push tag [slot]) s = .next (refused 0x17)) ∧
       (∀ n : Fin 32, n.val = slot.toNat →
         (s.recipes.slots[n].valid = false → exec (.push tag [slot]) s = .next (refused 0x1A)) ∧
         (s.recipes.slots[n].valid = true → 4 ≤ s.recipes.depth → exec (.push tag [slot]) s = .next (refused 0x14)) ∧
         (s.recipes.slots[n].valid = true → s.recipes.depth < 4 → exec (.push tag [slot]) s = .next
           (State.replied [0x00, BitVec.ofNat 8 (s.recipes.depth + 1), slot]
             (recipeChange .push { s.holding 0x11 tag [slot] with recipes := { s.recipes with
               overrides := s.recipes.overrides ++ [⟨n, s.recipes.slots[n].fields⟩] } })).sent)))) ∧
   (∀ (s : State) (tag : Byte), Ready 0x12 tag [] s →
     let refused (code : Byte) := s.onlyAnswered 0x12 tag []
       [code, BitVec.ofNat 8 s.recipes.depth, BitVec.ofNat 8 s.recipes.top.source.val]
     let left := { s.recipes with overrides := s.recipes.overrides.dropLast }
     (s.mc.mode = .settle → exec (.pop tag []) s = .next (s.onlyAnswered 0x12 tag [] [0x10])) ∧
     (s.mc.mode = .standby → exec (.pop tag []) s = .next (refused 0x11)) ∧
     (s.mc.mode ≠ .settle → s.mc.mode ≠ .standby → s.recipes.overrides = [] →
       exec (.pop tag []) s = .next (refused 0x15)) ∧
     (s.mc.mode ≠ .settle → s.mc.mode ≠ .standby → s.recipes.overrides ≠ [] → exec (.pop tag []) s = .next
       (State.replied [0x00, BitVec.ofNat 8 left.depth, BitVec.ofNat 8 left.top.source.val]
         (recipeChange .pop { s.holding 0x12 tag [] with recipes := left })).sent)) ∧
   (∀ (s : State) (cause : RecipeCause),
     let f := s.recipes.top.fields
     recipeChange cause s = sensorsRecipe f (arbiterRecipe f (sprayRecipe f (armsRecipe f (brushRecipe f (driveRecipe f
       (s.post (.recipe s.recipes.depth s.recipes.top.source cause))))))))) ∧
  (∀ (s : State) (f : RecipeFields),
     driveRecipe f s = { s with drive := { s.drive with speedCap := f[0], accelStep := f[1], decelStep := f[2] } } ∧
     (let timed (code : Int) : Bool := decide (0 ≤ code ∧ code ≤ 3)
      let unit (u : BrushUnit) (table : Int) (x : State) : State :=
       let b := x.brushOf u
       let named := { b with
         table := Fin.ofNat 4 table.toNat, reselect := b.reselect || decide (Fin.ofNat 4 table.toNat ≠ b.table) }
       let isSettled : Bool := decide (b.c = b.t ∨ b.c = 0 ∧ b.t < x.setup.startRpm u)
       let turned : Bool :=
         if b.c < b.t then timed s.brush.upRate && !timed f[7] else timed s.brush.downRate && !timed f[8]
       if isSettled = false ∧ turned = true then
         setBrushCommand u (if b.c < b.t then b.t else if b.t < x.setup.stopRpm u then 0 else b.t)
           (x.putBrush u { named with rampTimer := none })
       else x.putBrush u named
      brushRecipe f s = unit .m f[5] (unit .r f[4] (unit .l f[3]
       { s with brush := { s.brush with step := f[6], upRate := f[7], downRate := f[8] } }))) ∧
     armsRecipe f s = reformGoal .m (reformGoal .r (reformGoal .l { s with arms := { s.arms with
       unitsMask := ⟨f[9].toNat.testBit 0, f[9].toNat.testBit 1, f[9].toNat.testBit 2⟩ } })) ∧
     sprayRecipe f s = formWanted { s with spray := { s.spray with
       dose := f[10], doseMax := f[11], dustBase := f[12], ctUp := f[13], ctDn := f[14], idleFlow := f[15],
       waterStep := f[16],
       mask := ⟨f[17].toNat.testBit 0, f[17].toNat.testBit 1, f[17].toNat.testBit 2, f[17].toNat.testBit 3⟩ } } ∧
     (let x := { s with sensors := { s.sensors with dustBase := f[12] } }
      sensorsRecipe f s = if f[12] ≠ s.sensors.dustBase ∧ s.usable .dust = false then evaluateFlow x else x))

/-- R135: REFRESH of a slot copies, into every stack entry whose source is the slot, each field of the named groups whose
dirty mark is set, and clears those marks; the marks outside the groups and all else in the slot stay. The reply is OK
with the number of such entries; a recipe change follows when a field reached the top entry. A slot number above 31 is
refused with BAD_SLOT. -/
def Obligations.RefreshCopiesDirtyFields : Prop :=
  ∀ (s : State) (tag slot groups : Byte), Ready 0x0B tag [slot, groups] s →
    let body := [slot, groups]
    (s.mc.mode = .settle → exec (.refresh tag body) s = .next (s.onlyAnswered 0x0B tag body [0x10])) ∧
    (s.mc.mode ≠ .settle → 31 < slot.toNat → exec (.refresh tag body) s = .next (s.onlyAnswered 0x0B tag body [0x17])) ∧
    (∀ n : Fin 32, s.mc.mode ≠ .settle → n.val = slot.toNat →
      let x := s.recipes.slots[n]
      let named (i : Fin 23) : Bool := groups.toNat.testBit
        (if i.val ≤ 2 then 0 else if i.val ≤ 8 then 1 else if i.val ≤ 9 then 2 else if i.val ≤ 17 then 3 else 4)
      let fresh (e : StackEntry) : StackEntry := if e.source = n then
        ⟨n, Vector.ofFn fun i => if x.dirty[i] && named i then x.fields[i] else e.fields[i]⟩ else e
      let copies := ((s.recipes.base :: s.recipes.overrides).filter fun e => e.source = n).length
      let refreshed := { s.holding 0x0B tag body with recipes := { s.recipes with
        slots := s.recipes.slots.set n.val { x with dirty := Vector.ofFn fun i => x.dirty[i] && !named i }
        base := fresh s.recipes.base
        overrides := s.recipes.overrides.map fresh } }
      let reaches := s.recipes.top.source = n ∧ ∃ i : Fin 23, x.dirty[i] = true ∧ named i = true
      (reaches → exec (.refresh tag body) s =
        .next (State.replied [0x00, BitVec.ofNat 8 copies] (recipeChange .refresh refreshed)).sent) ∧
      (¬ reaches → exec (.refresh tag body) s = .next (State.replied [0x00, BitVec.ofNat 8 copies] refreshed).sent))

/-- R138, R139: ZONE_ADD refuses a slot above 31 with BAD_SLOT, then a mark 2^31 mm ahead or more with LATE; a mark
already in the queue keeps its place with the new slot and tag under REPLACED, a full queue refuses with FULL, and
otherwise the entry takes the place its distance ahead gives: behind the nearer entries and before the farther. ZONE_CLEAR
empties the queue and answers how many it held; ZONE_LIST answers them from head to tail and changes nothing. Every reply
but BUSY carries the number of entries. R140, R141: an odometer update. Movement back from the reference drops the entries
now 2^31 mm ahead or more, from the tail, and takes none. Otherwise the entries at the head whose mark is reached or
passed leave the queue in order: a valid slot's fields become the base of the stack, with a report ENTERED, and an invalid
slot is reported SKIPPED; with one entered at depth 1 one recipe change follows. The reference becomes the odometer. -/
def Obligations.ZonesAreQueuedAndEntered : Prop :=
  ((∀ (s : State) (tag m3 m2 m1 m0 slot zoneTag : Byte),
     let body := [m3, m2, m1, m0, slot, zoneTag]
     let mark : Word32 := m3 ++ m2 ++ m1 ++ m0
     let ahead (m : Word32) := (m - s.pcu.odometer).toNat
     let zones := s.recipes.zones
     let answered (queue : List ZoneEntry) (code : Byte) := { s with
       recipes := { s.recipes with zones := queue }
       link := s.link.answered 0x0E tag body [code, BitVec.ofNat 8 queue.length] [] }
     Ready 0x0E tag body s →
     (s.mc.mode = .settle → exec (.zoneAdd tag body) s = .next (s.onlyAnswered 0x0E tag body [0x10])) ∧
     (s.mc.mode ≠ .settle → 31 < slot.toNat → exec (.zoneAdd tag body) s = .next (answered zones 0x17)) ∧
     (∀ n : Fin 32, s.mc.mode ≠ .settle → n.val = slot.toNat →
       (2 ^ 31 ≤ ahead mark → exec (.zoneAdd tag body) s = .next (answered zones 0x16)) ∧
       (ahead mark < 2 ^ 31 → (∃ z ∈ zones, z.mark = mark) → exec (.zoneAdd tag body) s =
         .next (answered (zones.map fun z => if z.mark = mark then ⟨mark, n, zoneTag⟩ else z) 0x02)) ∧
       (ahead mark < 2 ^ 31 → (∀ z ∈ zones, z.mark ≠ mark) → 8 ≤ zones.length →
         exec (.zoneAdd tag body) s = .next (answered zones 0x14)) ∧
       (ahead mark < 2 ^ 31 → (∀ z ∈ zones, z.mark ≠ mark) → zones.length < 8 → ∃ nearer farther,
         zones = nearer ++ farther ∧ (∀ z ∈ nearer, ahead z.mark ≤ ahead mark) ∧
         (∀ z, farther.head? = some z → ahead mark < ahead z.mark) ∧
         exec (.zoneAdd tag body) s = .next (answered (nearer ++ ⟨mark, n, zoneTag⟩ :: farther) 0x00)))) ∧
   (∀ (s : State) (tag : Byte),
     let count := BitVec.ofNat 8 s.recipes.zones.length
     (Ready 0x0F tag [] s →
       (s.mc.mode = .settle → exec (.zoneClear tag []) s = .next (s.onlyAnswered 0x0F tag [] [0x10])) ∧
       (s.mc.mode ≠ .settle → exec (.zoneClear tag []) s = .next { s with
         recipes := { s.recipes with zones := [] }, link := s.link.answered 0x0F tag [] [0x00, count] [] })) ∧
     (Ready 0x10 tag [] s →
       (s.mc.mode = .settle → exec (.zoneList tag []) s = .next (s.onlyAnswered 0x10 tag [] [0x10])) ∧
       (s.mc.mode ≠ .settle → exec (.zoneList tag []) s = .next (s.onlyAnswered 0x10 tag []
         ([0x00, count] ++ s.recipes.zones.flatMap fun z =>
           bytes32 z.mark ++ [BitVec.ofNat 8 z.slot.val, z.tag])))))) ∧
  (∀ s : State,
     let n := s.pcu.odometer
     let zones := s.recipes.zones
     let back := 1 ≤ (s.recipes.reference - n).toNat ∧ (s.recipes.reference - n).toNat ≤ 2 ^ 31
     let far (z : ZoneEntry) : Bool := decide (2 ^ 31 ≤ (z.mark - n).toNat)
     let passed (z : ZoneEntry) : Bool := decide (z.mark = n) || far z
     let due := zones.takeWhile passed
     let valid (z : ZoneEntry) := s.recipes.slots[z.slot].valid
     (back → odometerUpdate s = { s with
       recipes := { s.recipes with zones := zones.filter (fun z => !far z), reference := n }
       link := (zones.filter far).reverse.foldl (fun l z => l.post (.zone z.tag z.slot z.mark .dropped)) s.link }) ∧
     (¬ back →
       let taken := { s with
         recipes := { s.recipes with
           zones := zones.dropWhile passed
           reference := n
           base := match (due.filter valid).getLast? with
             | some z => ⟨z.slot, s.recipes.slots[z.slot].fields⟩
             | none => s.recipes.base }
         link := due.foldl
           (fun l z => l.post (.zone z.tag z.slot z.mark (if valid z then .entered else .skipped))) s.link }
       ((∃ z ∈ due, valid z = true) ∧ s.recipes.overrides = [] → odometerUpdate s = recipeChange .zone taken) ∧
       (¬((∃ z ∈ due, valid z = true) ∧ s.recipes.overrides = []) → odometerUpdate s = taken)))

/-! ## The setup -/

/-- R172, R66: SETUP_WRITE outside SETTLE is refused with REFUSED_MODE in every mode but STANDBY and PARK, and with
BAD_TABLE for a group or a parameter that Table 11-5 does not list. Otherwise each named parameter takes the value of its
last pair, limited to its range, and every other keeps its value; then a stop_rpm of the BRUSH group not below its
start_rpm becomes start_rpm − 1. The reply is OK, or CLAMPED with the numbers clamped, in list order. The model's choices:
a lowered stop_rpm is named too, in its place or, unnamed by the list, at the end (assumption log 15), and each number
stands once (log 36). R24, R90, R99, R106, R151, R152, R163: what the parameters of a write act on at once, given the
setup before it: ppm clears the remainder; Kw restates the WATER demand and flow_full evaluates the flow target; a changed
SENSOR address starts its channel afresh with its readings kept, takes the role out of the round, discards its outcome in
progress and tells the Monitor and the readers what they lose, and a changed substitute reaches the readers while the
channel is not usable; oil_high is OIL_T's substitute; arm_reserve restates the ARMS demand and spacing values set a
running spacing timer again. In a SENSOR write the roles act in role order, an address before a substitute: the model's
choice (assumption log 38). That a changed address takes the role out of the round's due roles with no transaction of it
running is the model's reading (log 17). R172: SETUP_READ outside SETTLE refuses with BAD_TABLE a group above 6, a count
of 0 or above 26 and a range that runs past the group's last parameter; otherwise it answers the group, the first number,
the count and the stored values in order, with the substitutes then in use for the SENSOR numbers 24 and 36 that Table
11-5 does not list. Reading changes nothing. -/
def Obligations.SetupIsWrittenInRangeAndActsAndIsRead : Prop :=
  (∀ (s : State) (tag group : Byte) (pairs : List (Byte × Byte × Byte)), 1 ≤ pairs.length → pairs.length ≤ 18 →
     let body := group :: pairs.flatMap fun p => [p.1, p.2.1, p.2.2]
     let g := group.toNat
     let value (p : Byte × Byte × Byte) : Int := (p.2.1 ++ p.2.2 : BitVec 16).toInt
     let limit (p : Byte × Byte × Byte) : Int := match setupRange g p.1.toNat with
       | some (lo, hi) => max lo (min hi (value p))
       | none => value p
     let listed (k i : Nat) : Option Int :=
       match (pairs.filter fun p => decide (k = g ∧ p.1.toNat = i)).getLast? with
       | some p => some (limit p)
       | none => (s.setup.group k)[i]?
     let start (u : BrushUnit) : Int := (listed 1 (unitNumber u)).getD 0
     let stop (u : BrushUnit) : Int := (listed 1 (3 + unitNumber u)).getD 0
     let lowered (u : BrushUnit) : Bool := decide (g = 1 ∧ start u ≤ stop u)
     let stops : List Byte :=
       ([(BrushUnit.l, (3 : Byte)), (.r, 4), (.m, 5)].filter fun e => lowered e.1).map Prod.snd
     let clamped := (((pairs.filter fun p => decide (limit p ≠ value p ∨ p.1 ∈ stops)).map Prod.fst) ++
       stops.filter fun n => decide (∀ p ∈ pairs, p.1 ≠ n)).eraseDups
     Ready 0x05 tag body s →
     (s.mc.mode = .settle → exec (.setupWrite tag body) s = .next (s.onlyAnswered 0x05 tag body [0x10])) ∧
     (s.mc.mode ≠ .settle → s.mc.mode ≠ .standby → s.mc.mode ≠ .park →
       exec (.setupWrite tag body) s = .next (s.onlyAnswered 0x05 tag body [0x11])) ∧
     (s.mc.mode = .standby ∨ s.mc.mode = .park → (∃ p ∈ pairs, setupRange g p.1.toNat = none) →
       exec (.setupWrite tag body) s = .next (s.onlyAnswered 0x05 tag body [0x18])) ∧
     (s.mc.mode = .standby ∨ s.mc.mode = .park → (∀ p ∈ pairs, setupRange g p.1.toNat ≠ none) → ∃ x : Setup,
       (∀ k i, (∀ u, lowered u = true → ¬(k = 1 ∧ i = 3 + unitNumber u)) → (x.group k)[i]? = listed k i) ∧
       (∀ u, lowered u = true → (x.group 1)[3 + unitNumber u]? = some (start u - 1)) ∧
       exec (.setupWrite tag body) s = .next (State.replied (if clamped = [] then [0x00] else 0x01 :: clamped)
         (setupEffects g (pairs.map fun p => p.1.toNat) s.setup { s.holding 0x05 tag body with setup := x })).sent)) ∧
  (∀ (s : State) (numbers : List Nat) (before : Setup),
     setupEffects 0 numbers before s = (if 6 ∈ numbers then { s with pcu := { s.pcu with remainder := 0 } } else s) ∧
     setupEffects 1 numbers before s = s ∧ setupEffects 3 numbers before s = s ∧
     (let restated := if 1 ∈ numbers then
         { s with spray := { s.spray with demand := (s.spray.command * s.setup.kw).tdiv 100 } } else s
      setupEffects 2 numbers before s = if 0 ∈ numbers then evaluateFlow restated else restated) ∧
     (let moved (r : Role) (x : State) : State :=
       let c := x.sensors.channels.get r
       let mark (tx : Transaction) : Transaction := if tx.role = r then { tx with discard := true } else tx
       let fresh := { x with sensors := { x.sensors with
         line := match x.sensors.line with
           | .sending tx frame due => .sending (mark tx) frame due
           | .window tx due => .window (mark tx) due
           | l => l
         round := x.sensors.round.map fun z => { z with
           due := z.due.filter fun q => decide (q ≠ r), follow := if z.follow = some r then none else z.follow }
         channels := x.sensors.channels.set r { c with
           state := if x.setup.address r = 0 then .unassigned else .unknown
           identified := false, failures := 0, goodRun := 0, cause := none } } }
       let noticed := if c.state = .lost then notice (.sensorLost r) false fresh else fresh
       if c.state = .ok ∨ c.state = .suspect then tellReaders r noticed else noticed
      let written (x : State) (r : Role) : State :=
       let y := if s.setup.address r = before.address r then x else moved r x
       if s.setup.storedSubstitute r = before.storedSubstitute r ∨ y.usable r = true then y else tellReaders r y
      setupEffects 4 numbers before s =
       [Role.drivePA, .drivePB, .auxP, .oilT, .tank, .dust, .curbL, .curbR].foldl written s) ∧
     setupEffects 5 numbers before s =
       (if s.setup.oilHigh = before.oilHigh ∨ s.usable .oilT = true then s else oilTest s) ∧
     (let posted := if 7 ∈ numbers then postArmsDemand s else s
      ((∀ n ∈ numbers, n < 8) ∨ s.arms.spacingTimer = none ∨ s.arms.queue = [] →
       setupEffects 6 numbers before s = posted) ∧
      (∀ due e rest, (∃ n ∈ numbers, 8 ≤ n) → s.arms.spacingTimer = some due → s.arms.queue = e :: rest →
       ∃ met : Nat,
         setupEffects 6 numbers before s = { posted with arms := { posted.arms with spacingTimer := some met } } ∧
         (∀ k y, s.arms.lastEnd.get k = some y → y + (s.setup.spacing k e.kind).toNat * 1000 ≤ met) ∧
         (met = 0 ∨ ∃ k y, s.arms.lastEnd.get k = some y ∧ y + (s.setup.spacing k e.kind).toNat * 1000 = met)))) ∧
  (∀ (s : State) (tag group first count : Byte), Ready 0x06 tag [group, first, count] s →
     let body := [group, first, count]
     let size := match group.toNat with
       | 0 => 7
       | 1 => 16
       | 2 => 7
       | 3 => 5
       | 4 => 49
       | 5 => 8
       | _ => 24
     let bad := 6 < group.toNat ∨ count = 0 ∨ 26 < count.toNat ∨ size < first.toNat + count.toNat
     let shown (n : Nat) : Int :=
       if group = 4 ∧ n = 24 then s.setup.oilHigh
       else if group = 4 ∧ n = 36 then s.sensors.dustBase
       else (s.setup.group group.toNat)[n]?.getD 0
     (s.mc.mode = .settle → exec (.setupRead tag body) s = .next (s.onlyAnswered 0x06 tag body [0x10])) ∧
     (s.mc.mode ≠ .settle → bad → exec (.setupRead tag body) s = .next (s.onlyAnswered 0x06 tag body [0x18])) ∧
     (s.mc.mode ≠ .settle → ¬ bad → exec (.setupRead tag body) s = .next (s.onlyAnswered 0x06 tag body
       ([0x00, group, first, count] ++
         (List.range count.toNat).flatMap fun i => bytes16 (shown (first.toNat + i))))))
end

