-- ==== Sys2Proof/Laws/State.lean ====
section
/-! SUPPORT. The small lemmas of the collections and of the named record updates: what each read gives after each
update. -/

namespace Sys2Proof.Machine

/-! ## Collections -/

@[simp] theorem PerUnit.get_set_same {α : Type} (p : PerUnit α) (u : BrushUnit) (a : α) : (p.set u a).get u = a := by
  cases u <;> rfl

theorem PerUnit.get_set_other {α : Type} (p : PerUnit α) {u v : BrushUnit} (a : α) (h : v ≠ u) :
    (p.set u a).get v = p.get v := by
  cases u <;> cases v <;> first | rfl | exact absurd rfl h

theorem PerUnit.get_set {α : Type} (p : PerUnit α) (u v : BrushUnit) (a : α) :
    (p.set u a).get v = if v = u then a else p.get v := by
  cases u <;> cases v <;> rfl

@[simp] theorem PerUnit.set_get {α : Type} (p : PerUnit α) (u : BrushUnit) : p.set u (p.get u) = p := by
  cases u <;> rfl

@[simp] theorem PerUnit.set_set {α : Type} (p : PerUnit α) (u : BrushUnit) (a b : α) :
    (p.set u a).set u b = p.set u b := by
  cases u <;> rfl

@[simp] theorem PerUnit.get_map {α β : Type} (f : α → β) (p : PerUnit α) (u : BrushUnit) :
    (p.map f).get u = f (p.get u) := by
  cases u <;> rfl

@[simp] theorem PerUnit.get_const {α : Type} (a : α) (u : BrushUnit) : (PerUnit.const a).get u = a := by
  cases u <;> rfl

theorem PerUnit.ext_get {α : Type} {p q : PerUnit α} (h : ∀ u, p.get u = q.get u) : p = q := by
  have hl := h .l
  have hr := h .r
  have hm := h .m
  cases p; cases q
  simp_all [PerUnit.get]

@[simp] theorem PerRole.get_set_same {α : Type} (p : PerRole α) (r : Role) (a : α) : (p.set r a).get r = a := by
  cases r <;> rfl

theorem PerRole.get_set_other {α : Type} (p : PerRole α) {r q : Role} (a : α) (h : q ≠ r) :
    (p.set r a).get q = p.get q := by
  cases r <;> cases q <;> first | rfl | exact absurd rfl h

@[simp] theorem PerRole.set_get {α : Type} (p : PerRole α) (r : Role) : p.set r (p.get r) = p := by
  cases r <;> rfl

@[simp] theorem PerConsumer.get_set_same {α : Type} (p : PerConsumer α) (c : Consumer) (a : α) :
    (p.set c a).get c = a := by
  cases c <;> rfl

theorem PerConsumer.get_set_other {α : Type} (p : PerConsumer α) {c d : Consumer} (a : α) (h : d ≠ c) :
    (p.set c a).get d = p.get d := by
  cases c <;> cases d <;> first | rfl | exact absurd rfl h

@[simp] theorem PerKind.get_set_same {α : Type} (p : PerKind α) (k : CylKind) (a : α) : (p.set k a).get k = a := by
  cases k <;> rfl

theorem PerKind.get_set_other {α : Type} (p : PerKind α) {k l : CylKind} (a : α) (h : l ≠ k) :
    (p.set k a).get l = p.get l := by
  cases k <;> cases l <;> first | rfl | exact absurd rfl h

@[simp] theorem CondTable.get_set_same (t : CondTable) (k : CondKind) (v : CondState) : (t.set k v).get k = v := by
  cases k <;> simp [CondTable.get, CondTable.set]

theorem CondTable.get_set_other (t : CondTable) {k j : CondKind} (v : CondState) (h : j ≠ k) :
    (t.set k v).get j = t.get j := by
  cases k <;> cases j <;>
    first
      | rfl
      | exact absurd rfl h
      | (simp only [CondTable.get, CondTable.set]
         first
           | exact PerUnit.get_set_other _ _ (fun e => h (by rw [e]))
           | exact PerRole.get_set_other _ _ (fun e => h (by rw [e])))

@[simp] theorem CondTable.set_get (t : CondTable) (k : CondKind) : t.set k (t.get k) = t := by
  cases k <;> simp [CondTable.get, CondTable.set]

/-! ## One unit's records -/

@[simp] theorem State.armOf_putArm (s : State) (u : BrushUnit) (a : ArmUnit) : (s.putArm u a).armOf u = a := by
  simp [State.armOf, State.putArm]

theorem State.armOf_putArm_other (s : State) {u v : BrushUnit} (a : ArmUnit) (h : v ≠ u) :
    (s.putArm u a).armOf v = s.armOf v := PerUnit.get_set_other _ _ h

@[simp] theorem State.brushOf_putBrush (s : State) (u : BrushUnit) (b : BrushRec) : (s.putBrush u b).brushOf u = b := by
  simp [State.brushOf, State.putBrush]

theorem State.brushOf_putBrush_other (s : State) {u v : BrushUnit} (b : BrushRec) (h : v ≠ u) :
    (s.putBrush u b).brushOf v = s.brushOf v := PerUnit.get_set_other _ _ h

section
variable (s : State) (u v : BrushUnit) (a : ArmUnit) (b : BrushRec)

@[simp] theorem State.putArm_pins : (s.putArm u a).pins = s.pins := rfl
@[simp] theorem State.putArm_setup : (s.putArm u a).setup = s.setup := rfl
@[simp] theorem State.putArm_mc : (s.putArm u a).mc = s.mc := rfl
@[simp] theorem State.putArm_pcu : (s.putArm u a).pcu = s.pcu := rfl
@[simp] theorem State.putArm_drive : (s.putArm u a).drive = s.drive := rfl
@[simp] theorem State.putArm_brush : (s.putArm u a).brush = s.brush := rfl
@[simp] theorem State.putArm_spray : (s.putArm u a).spray = s.spray := rfl
@[simp] theorem State.putArm_arb : (s.putArm u a).arb = s.arb := rfl
@[simp] theorem State.putArm_recipes : (s.putArm u a).recipes = s.recipes := rfl
@[simp] theorem State.putArm_sensors : (s.putArm u a).sensors = s.sensors := rfl
@[simp] theorem State.putArm_cond : (s.putArm u a).cond = s.cond := rfl
@[simp] theorem State.putArm_link : (s.putArm u a).link = s.link := rfl
@[simp] theorem State.putArm_clock : (s.putArm u a).clock = s.clock := rfl
@[simp] theorem State.putArm_queue : (s.putArm u a).arms.queue = s.arms.queue := rfl
@[simp] theorem State.putArm_action : (s.putArm u a).arms.action = s.arms.action := rfl
@[simp] theorem State.putArm_brushOf : (s.putArm u a).brushOf v = s.brushOf v := rfl
@[simp] theorem State.putBrush_pins : (s.putBrush u b).pins = s.pins := rfl
@[simp] theorem State.putBrush_setup : (s.putBrush u b).setup = s.setup := rfl
@[simp] theorem State.putBrush_mc : (s.putBrush u b).mc = s.mc := rfl
@[simp] theorem State.putBrush_pcu : (s.putBrush u b).pcu = s.pcu := rfl
@[simp] theorem State.putBrush_drive : (s.putBrush u b).drive = s.drive := rfl
@[simp] theorem State.putBrush_arms : (s.putBrush u b).arms = s.arms := rfl
@[simp] theorem State.putBrush_spray : (s.putBrush u b).spray = s.spray := rfl
@[simp] theorem State.putBrush_arb : (s.putBrush u b).arb = s.arb := rfl
@[simp] theorem State.putBrush_recipes : (s.putBrush u b).recipes = s.recipes := rfl
@[simp] theorem State.putBrush_sensors : (s.putBrush u b).sensors = s.sensors := rfl
@[simp] theorem State.putBrush_cond : (s.putBrush u b).cond = s.cond := rfl
@[simp] theorem State.putBrush_link : (s.putBrush u b).link = s.link := rfl
@[simp] theorem State.putBrush_clock : (s.putBrush u b).clock = s.clock := rfl
@[simp] theorem State.putBrush_armOf : (s.putBrush u b).armOf v = s.armOf v := rfl
@[simp] theorem State.putBrush_step : (s.putBrush u b).brush.step = s.brush.step := rfl
@[simp] theorem State.putBrush_upRate : (s.putBrush u b).brush.upRate = s.brush.upRate := rfl
@[simp] theorem State.putBrush_downRate : (s.putBrush u b).brush.downRate = s.brush.downRate := rfl
end

/-! ## Posting a report, and the present time -/

section
variable (s : State) (r : Report) (n : Nat)

@[simp] theorem State.post_pins : (s.post r).pins = s.pins := rfl
@[simp] theorem State.post_setup : (s.post r).setup = s.setup := rfl
@[simp] theorem State.post_mc : (s.post r).mc = s.mc := rfl
@[simp] theorem State.post_pcu : (s.post r).pcu = s.pcu := rfl
@[simp] theorem State.post_drive : (s.post r).drive = s.drive := rfl
@[simp] theorem State.post_brush : (s.post r).brush = s.brush := rfl
@[simp] theorem State.post_arms : (s.post r).arms = s.arms := rfl
@[simp] theorem State.post_spray : (s.post r).spray = s.spray := rfl
@[simp] theorem State.post_arb : (s.post r).arb = s.arb := rfl
@[simp] theorem State.post_recipes : (s.post r).recipes = s.recipes := rfl
@[simp] theorem State.post_sensors : (s.post r).sensors = s.sensors := rfl
@[simp] theorem State.post_cond : (s.post r).cond = s.cond := rfl
@[simp] theorem State.post_clock : (s.post r).clock = s.clock := rfl
@[simp] theorem State.post_free : (s.post r).free = s.free := rfl
@[simp] theorem State.post_pending : (s.post r).pending = s.pending := rfl
@[simp] theorem State.post_link : (s.post r).link = s.link.post r := rfl
@[simp] theorem State.atTime_clock : (s.atTime n).clock = Nat.max s.clock n := rfl
@[simp] theorem State.atTime_pins : (s.atTime n).pins = s.pins := rfl
@[simp] theorem State.atTime_setup : (s.atTime n).setup = s.setup := rfl
@[simp] theorem State.atTime_mc : (s.atTime n).mc = s.mc := rfl
@[simp] theorem State.atTime_pcu : (s.atTime n).pcu = s.pcu := rfl
@[simp] theorem State.atTime_drive : (s.atTime n).drive = s.drive := rfl
@[simp] theorem State.atTime_brush : (s.atTime n).brush = s.brush := rfl
@[simp] theorem State.atTime_arms : (s.atTime n).arms = s.arms := rfl
@[simp] theorem State.atTime_spray : (s.atTime n).spray = s.spray := rfl
@[simp] theorem State.atTime_arb : (s.atTime n).arb = s.arb := rfl
@[simp] theorem State.atTime_recipes : (s.atTime n).recipes = s.recipes := rfl
@[simp] theorem State.atTime_sensors : (s.atTime n).sensors = s.sensors := rfl
@[simp] theorem State.atTime_cond : (s.atTime n).cond = s.cond := rfl
@[simp] theorem State.atTime_link : (s.atTime n).link = s.link := rfl
@[simp] theorem State.atTime_pending : (s.atTime n).pending = s.pending := rfl

@[simp] theorem LinkPort.post_rx (l : LinkPort) : (l.post r).rx = l.rx := by unfold LinkPort.post; split <;> rfl
@[simp] theorem LinkPort.post_tx (l : LinkPort) : (l.post r).tx = l.tx := by unfold LinkPort.post; split <;> rfl
@[simp] theorem LinkPort.post_errors (l : LinkPort) : (l.post r).errors = l.errors := by
  unfold LinkPort.post; split <;> rfl
@[simp] theorem LinkPort.post_baud (l : LinkPort) : (l.post r).baud = l.baud := by unfold LinkPort.post; split <;> rfl
@[simp] theorem LinkPort.post_receiver (l : LinkPort) : (l.post r).receiver = l.receiver := by
  unfold LinkPort.post; split <;> rfl
end

end Sys2Proof.Machine
end

