-- ==== Sys2Proof/Laws/Keeps.lean ====
section
/-! SUPPORT. What the blocks' shared operations can change, said once. A property that every elementary update of a set
keeps is kept by every operation built from that set. `Noticed` is the set behind the notices of a posture: the brushes,
the water and the mode. `Planned` adds a planner run: no hold, goal, stall flag or setup is in it. `Told` adds what the
readers of sensor values, the host's requests and the conditions do. The operations of the water and of the arms stand in
`Wet`, `Tank` and `Armed` as wholes, since their laws hold between them alone; `Plain` gives `Armed` for a property that
says nothing of the arms. -/

namespace Sys2Proof.Machine

/-! ## The water's operations -/

/-- A property that the evaluation of q, the forming of the wanted set and a brush output notice keep. -/
structure Wet (P : State → Prop) : Prop where
  flow : ∀ s, P s → P (evaluateFlow s)
  form : ∀ s, P s → P (formWanted s)
  notice : ∀ s u a b, P s → P (brushNotice u a b s)

/-- A property that the tank's flags keep too. -/
structure Tank (P : State → Prop) : Prop extends Wet P where
  low : ∀ s f, P s → P (setLow f s)
  empty : ∀ s f, P s → P (setEmpty f s)

/-- A property that says nothing of the water is such a property. -/
theorem wet_of_spray {P : State → Prop} (h : ∀ s p, P s → P { s with spray := p }) : Wet P :=
  ⟨fun _ hs => h _ _ hs, fun s hs => h _ _ (h s _ hs), fun s _ _ _ hs => h _ _ (h _ _ (h s _ hs))⟩

theorem tank_of_spray {P : State → Prop} (h : ∀ s p, P s → P { s with spray := p })
    (hr : ∀ s k v, P s → P (changeRecord k v s)) : Tank P := by
  refine { wet_of_spray h with low := fun s f hs => ?_, empty := fun s f hs => ?_ }
  · unfold setLow
    split
    · exact hs
    · exact h _ _ (hr _ _ _ (h _ _ hs))
  · unfold setEmpty
    split
    · exact hs
    · exact (wet_of_spray h).form _ (hr _ _ _ (h _ _ hs))

/-! ## The planner's set -/

/-- The parts of a brush record that no spin notice, ramp or output update touches. -/
def SameWatch (a b : BrushRec) : Prop :=
  b.table = a.table ∧ b.index = a.index ∧ b.reselect = a.reselect ∧ b.stalled = a.stalled ∧ b.lagging = a.lagging ∧
    b.lagTimer = a.lagTimer

/-- The Brush Speed Unit changed in other parts only. -/
def SameBrushes (x y : Brushes) : Prop :=
  (∀ u, SameWatch (x.units.get u) (y.units.get u)) ∧ y.step = x.step ∧ y.upRate = x.upRate ∧ y.downRate = x.downRate

/-- The parts of a unit's arm record that no planner run touches. -/
def SameGoal (a b : ArmUnit) : Prop :=
  b.baseWorking = a.baseWorking ∧ b.holds = a.holds ∧ b.goal = a.goal ∧ b.releaseTimer = a.releaseTimer

/-- The Arm Sequencer changed in other parts only. -/
def SameGoals (x y : Arms) : Prop := (∀ u, SameGoal (x.units.get u) (y.units.get u)) ∧ y.unitsMask = x.unitsMask

/-- The condition kinds a planner run can change, through a brush output. -/
def plannedKind : CondKind → Prop
  | .brushStarved _ => True
  | _ => False

/-- The modes that a posture or a STOP condition can change. -/
def Mode.moves : Mode → Prop
  | .transport => True
  | .work => True
  | .stowing => True
  | _ => False

/-- A property that every elementary update behind the notices of a posture keeps. -/
structure Noticed (P : State → Prop) : Prop where
  water : Wet P
  brush : ∀ s b, SameBrushes s.brush b → P s → P { s with brush := b }
  record : ∀ s k v, plannedKind k → P s → P (changeRecord k v s)
  travel : ∀ s m, m.travels = true → s.mc.mode.moves → P s → P (driveEnterTravel (modeReport (takeMode m s)))

/-- A property that every elementary update behind a planner run keeps. -/
structure Planned (P : State → Prop) : Prop extends Noticed P where
  arms : ∀ s a, SameGoals s.arms a → P s → P { s with arms := a }
  post : ∀ s r, P s → P (s.post r)

section
variable {P : State → Prop} (h : Noticed P) {s : State}
include h

theorem Noticed.putBrush {u : BrushUnit} {b : BrushRec} (hb : SameWatch (s.brushOf u) b) (hs : P s) :
    P (s.putBrush u b) := by
  refine h.brush s _ ⟨fun v => ?_, rfl, rfl, rfl⟩ hs
  rw [PerUnit.get_set]
  split
  · next e => subst e; exact hb
  · exact ⟨rfl, rfl, rfl, rfl, rfl, rfl⟩

/-! ### Water and brushes -/

theorem Noticed.evaluateFlow (hs : P s) : P (evaluateFlow s) := h.water.flow _ hs

theorem Noticed.formWanted (hs : P s) : P (formWanted s) := h.water.form _ hs

theorem Noticed.brushNotice {u : BrushUnit} {a b : Bool} (hs : P s) : P (brushNotice u a b s) :=
  h.water.notice _ _ _ _ hs

theorem Noticed.notice {k : CondKind} {p : Bool} (hk : plannedKind k) (hs : P s) : P (notice k p s) :=
  h.record _ _ _ hk hs

theorem Noticed.outputNotice {u : BrushUnit} {a b : Int} (hs : P s) : P (outputNotice u a b s) := by
  unfold Machine.outputNotice
  split
  · exact hs
  · exact h.brushNotice hs

theorem Noticed.setStarved {u : BrushUnit} {f : Bool} (hs : P s) : P (setStarved u f s) := by
  unfold Machine.setStarved
  split
  · exact hs
  · exact h.notice trivial (h.putBrush ⟨rfl, rfl, rfl, rfl, rfl, rfl⟩ hs)

theorem Noticed.driveOutput {u : BrushUnit} {x : Int} (hs : P s) : P (driveOutput u x s) :=
  h.outputNotice (h.putBrush ⟨rfl, rfl, rfl, rfl, rfl, rfl⟩ hs)

theorem Noticed.updateOutput {u : BrushUnit} (hs : P s) : P (updateOutput u s) := h.driveOutput (h.setStarved hs)

theorem Noticed.setBrushCommand {u : BrushUnit} {c : Int} (hs : P s) : P (setBrushCommand u c s) := by
  unfold Machine.setBrushCommand
  split
  · exact hs
  · exact h.updateOutput (h.putBrush ⟨rfl, rfl, rfl, rfl, rfl, rfl⟩ hs)

theorem Noticed.setRampTimer {u : BrushUnit} {r : Option RampTimer} (hs : P s) : P (setRampTimer u r s) :=
  h.putBrush ⟨rfl, rfl, rfl, rfl, rfl, rfl⟩ hs

theorem Noticed.startRamp {u : BrushUnit} (hs : P s) : P (startRamp u s) := by
  unfold Machine.startRamp
  dsimp only
  split
  · exact h.setRampTimer hs
  · exact h.setBrushCommand (h.setRampTimer hs)

theorem Noticed.examineRamp {u : BrushUnit} (hs : P s) : P (examineRamp u s) := by
  unfold Machine.examineRamp
  split
  · exact h.setRampTimer hs
  · split
    · exact hs
    · exact h.startRamp hs

theorem Noticed.setTarget {u : BrushUnit} {t : Int} (hs : P s) : P (setTarget u t s) := by
  unfold Machine.setTarget
  split
  · exact hs
  · exact h.examineRamp (h.putBrush ⟨rfl, rfl, rfl, rfl, rfl, rfl⟩ hs)

theorem Noticed.formTarget {u : BrushUnit} (hs : P s) : P (formTarget u s) := h.setTarget hs

theorem Noticed.rampExpired {u : BrushUnit} (hs : P s) : P (rampExpired u s) := by
  unfold Machine.rampExpired
  dsimp only
  split
  · exact h.setBrushCommand (h.setRampTimer hs)
  · exact h.startRamp (h.setBrushCommand (h.setRampTimer hs))

theorem Noticed.cutCommand {u : BrushUnit} (hs : P s) : P (cutCommand u s) := h.setBrushCommand (h.setRampTimer hs)

theorem Noticed.spinNotice {u : BrushUnit} {sp : Spin} (hs : P s) : P (spinNotice u sp s) := by
  have hp : P (s.putBrush u { s.brushOf u with spin := sp }) := h.putBrush ⟨rfl, rfl, rfl, rfl, rfl, rfl⟩ hs
  unfold Machine.spinNotice
  dsimp only
  split
  · exact h.cutCommand (h.putBrush ⟨rfl, rfl, rfl, rfl, rfl, rfl⟩ hp)
  · exact h.setTarget hp
  · split
    · exact hp
    · exact h.formTarget hp

theorem Noticed.heightNotice {u : BrushUnit} {d : Bool} (hs : P s) : P (heightNotice u d s) := by
  have hp : P (s.putBrush u { s.brushOf u with heightDown := d }) := h.putBrush ⟨rfl, rfl, rfl, rfl, rfl, rfl⟩ hs
  unfold Machine.heightNotice
  dsimp only
  split
  · exact hp
  · exact h.cutCommand hp

/-! ### Modes -/

theorem Noticed.enterTravelBlocks {m : Mode} (hm : m.travels = true) (hv : s.mc.mode.moves) (hs : P s) :
    P (enterTravelBlocks m s) :=
  h.formWanted (h.travel _ _ hm hv hs)

theorem Noticed.postureNotice (hs : P s) : P (postureNotice s) := by
  unfold Machine.postureNotice
  split
  · next e =>
    split
    · exact h.enterTravelBlocks rfl (by rw [e]; trivial) hs
    · exact hs
  · next e =>
    split
    · exact hs
    · exact h.enterTravelBlocks rfl (by rw [e]; trivial) hs
  · exact hs

end

section
variable {P : State → Prop} (h : Planned P) {s : State}
include h

theorem Planned.putArm {u : BrushUnit} {a : ArmUnit} (ha : SameGoal (s.armOf u) a) (hs : P s) : P (s.putArm u a) := by
  refine h.arms s _ ⟨fun v => ?_, rfl⟩ hs
  show SameGoal (s.arms.units.get v) ((s.arms.units.set u a).get v)
  rw [PerUnit.get_set]
  split
  · next e => subst e; exact ha
  · exact ⟨rfl, rfl, rfl, rfl⟩

/-- An update of the manifold alone. -/
theorem Planned.manifold {a : Arms} (hu : a.units = s.arms.units) (hm : a.unitsMask = s.arms.unitsMask) (hs : P s) :
    P { s with arms := a } :=
  h.arms s _ ⟨fun v => by rw [hu]; exact ⟨rfl, rfl, rfl, rfl⟩, hm⟩ hs

/-! ### Postures, the manifold, the planner -/

theorem Planned.setSpin {u : BrushUnit} {sp : Spin} (hs : P s) : P (setSpin u sp s) := by
  unfold Machine.setSpin
  split
  · exact hs
  · exact h.postureNotice (h.spinNotice (h.putArm ⟨rfl, rfl, rfl, rfl⟩ hs))

theorem Planned.setReach {u : BrushUnit} {r : Reach} (hs : P s) : P (setReach u r s) := by
  unfold Machine.setReach
  split
  · exact hs
  · exact h.postureNotice (h.putArm ⟨rfl, rfl, rfl, rfl⟩ hs)

theorem Planned.setHeight {u : BrushUnit} {x : Height} (hs : P s) : P (setHeight u x s) := by
  unfold Machine.setHeight
  dsimp only
  split
  · exact hs
  · refine h.postureNotice ?_
    split <;> split
    · exact h.heightNotice (h.spinNotice (h.putArm ⟨rfl, rfl, rfl, rfl⟩ hs))
    · exact h.heightNotice (h.putArm ⟨rfl, rfl, rfl, rfl⟩ hs)
    · exact h.spinNotice (h.putArm ⟨rfl, rfl, rfl, rfl⟩ hs)
    · exact h.putArm ⟨rfl, rfl, rfl, rfl⟩ hs

theorem Planned.unitReport {u : BrushUnit} {c : UnitCause} (hs : P s) : P (unitReport u c s) := h.post _ _ hs

theorem Planned.postArmsDemand (hs : P s) : P (postArmsDemand s) := by
  unfold Machine.postArmsDemand
  generalize (if (s.arms.queue.isEmpty && s.arms.action.isNone) = true then 0 else s.setup.armReserve) = d
  dsimp only
  split
  · exact hs
  · exact h.manifold rfl rfl hs

theorem Planned.dropEntry {u : BrushUnit} (hs : P s) : P (dropEntry u s) := h.manifold rfl rfl hs

theorem Planned.setActivity {u : BrushUnit} {a : Activity} (hs : P s) : P (setActivity u a s) :=
  h.putArm ⟨rfl, rfl, rfl, rfl⟩ hs

theorem Planned.startSpinUp {u : BrushUnit} (hs : P s) : P (startSpinUp u s) := h.setSpin (h.setActivity hs)

theorem Planned.startSpinDown {u : BrushUnit} (hs : P s) : P (startSpinDown u s) :=
  h.setSpin (h.putArm ⟨rfl, rfl, rfl, rfl⟩ hs)

theorem Planned.planStep {u : BrushUnit} (hs : P s) : P (planStep u s) := by
  unfold Machine.planStep
  dsimp only
  refine h.postArmsDemand ?_
  split
  · split
    · exact h.setActivity (h.dropEntry hs)
    · exact h.unitReport (h.setActivity (h.dropEntry hs))
  · exact h.startSpinUp (h.dropEntry hs)
  · exact h.startSpinDown (h.dropEntry hs)
  · split
    · exact h.manifold rfl rfl hs
    · exact h.setActivity (h.manifold rfl rfl hs)

theorem Planned.beginAction {e : QueueEntry} {rest : List QueueEntry} (hs : P s) : P (beginAction e rest s) :=
  h.setActivity (h.manifold rfl rfl hs)

theorem Planned.endAction (hs : P s) : P (endAction s) := by
  unfold Machine.endAction
  split
  · exact hs
  · exact h.manifold rfl rfl hs

theorem Planned.setComponent {u : BrushUnit} {k : CylKind} (hs : P s) : P (setComponent u k s) := by
  cases k
  · exact h.setReach hs
  · exact h.setReach hs
  · exact h.setHeight hs
  · exact h.setHeight hs

theorem Planned.completeAction {u : BrushUnit} {k : CylKind} (hs : P s) : P (completeAction u k s) :=
  h.planStep (h.setComponent (h.endAction hs))

omit s in
theorem Planned.startTest (n : Nat) : ∀ {s : State}, P s → P (startTest n s) := by
  induction n with
  | zero => intro s hs; exact hs
  | succ n ih =>
    intro s hs
    unfold Machine.startTest
    split
    · exact h.manifold rfl rfl hs
    · split
      · exact hs
      · split
        · exact h.manifold rfl rfl hs
        · dsimp only
          split
          · exact ih (h.completeAction (h.beginAction hs))
          · exact h.beginAction hs

theorem Planned.runStartTest (hs : P s) : P (runStartTest s) := h.startTest 8 hs

theorem Planned.runPlanner {u : BrushUnit} (hs : P s) : P (runPlanner u s) := by
  unfold Machine.runPlanner
  split
  · exact h.runStartTest (h.planStep hs)
  · exact hs

theorem Planned.replan {u : BrushUnit} (hs : P s) : P (replan u s) := by
  unfold Machine.replan
  split
  · split
    · exact h.runPlanner hs
    · exact h.runPlanner hs
    · split
      · exact hs
      · exact h.startSpinDown hs
    · exact hs
  · exact hs

theorem Planned.endSpinAction {u : BrushUnit} (hs : P s) : P (endSpinAction u s) := h.putArm ⟨rfl, rfl, rfl, rfl⟩ hs

theorem Planned.loseComponent {u : BrushUnit} {k : CylKind} (hs : P s) : P (loseComponent u k s) := by
  unfold Machine.loseComponent
  split
  · exact h.setHeight hs
  · exact h.setReach hs

theorem Planned.switchReplan {u : BrushUnit} (hs : P s) : P (switchReplan u s) := by
  unfold Machine.switchReplan
  dsimp only
  split
  · exact h.runPlanner (h.endSpinAction hs)
  · exact h.replan hs

theorem Planned.enterFault {u : BrushUnit} (hs : P s) : P (enterFault u s) := by
  unfold Machine.enterFault
  dsimp only
  have h1 : P (if ownsAction s u then Machine.endAction s else s) := by
    split
    · exact h.endAction hs
    · exact hs
  have h2 := h.setActivity (a := .fault) (u := u) (h.setSpin (sp := .off) (u := u)
    (h.endSpinAction (u := u) (h.dropEntry (u := u) h1)))
  have h3 := h.unitReport (u := u) (c := .fault) h2
  split <;> split <;>
    first
      | exact h.runStartTest (h.postArmsDemand h2)
      | exact h.runStartTest (h.postArmsDemand h3)
      | exact h.postArmsDemand h2
      | exact h.postArmsDemand h3

theorem Planned.readSwitches {u : BrushUnit} (hs : P s) : P (readSwitches u s) := h.setHeight (h.setReach hs)

theorem Planned.spinDownDone {u : BrushUnit} (hs : P s) : P (spinDownDone u s) :=
  h.runPlanner (h.setSpin (h.endSpinAction hs))

theorem Planned.spinDownExpired {u : BrushUnit} (hs : P s) : P (spinDownExpired u s) := by
  unfold Machine.spinDownExpired
  split
  · exact h.spinDownDone hs
  · exact h.endSpinAction hs

theorem Planned.armBrushSample {u : BrushUnit} (hs : P s) : P (armBrushSample u s) := by
  unfold Machine.armBrushSample
  dsimp only
  split
  · split
    · exact h.runPlanner (h.setSpin hs)
    · exact hs
  · split
    · exact h.spinDownDone hs
    · exact hs
  · exact hs

end

/-! ## The arms' operations -/

/-- A hold source that a unit may hold (R73): LIFT and STALL for M, all four for L and R. -/
def Hold.fits (u : BrushUnit) (x : Hold) : Prop := u = .m → x = .lift ∨ x = .stall

/-- A kind of cylinder action that a unit has (R70): M has no reach. -/
def CylKind.fits (u : BrushUnit) (k : CylKind) : Prop := u = .m → k.movesHeight = true

/-- A property that the operations of the Arm Sequencer keep. -/
structure Armed (P : State → Prop) : Prop where
  startTest : ∀ s, P s → P (runStartTest s)
  demand : ∀ s, P s → P (postArmsDemand s)
  plan : ∀ s u, P s → P (replan u s)
  goals : ∀ s u, P s → P (reformGoal u s)
  take : ∀ s u x, Hold.fits u x → P s → P (takeHold u x s)
  release : ∀ s u x, P s → P (releaseHold u x s)
  releaseTimer : ∀ s u t, P s → P (setReleaseTimer u t s)
  cleared : ∀ s u, P s → P (faultCleared u s)
  switchOn : ∀ s u k, CylKind.fits u k → P s → P (switchOn u k s)
  switchOff : ∀ s u k, CylKind.fits u k → P s → P (switchOff u k s)
  timedOut : ∀ s c, P s → P (cylinderTimedOut c s)
  brushSample : ∀ s u, P s → P (armBrushSample u s)
  spinDown : ∀ s u, P s → P (spinDownExpired u s)
  mask : ∀ s m, P s → P { s with arms := { s.arms with unitsMask := m } }
  spacing : ∀ s t, P s → P { s with arms := { s.arms with spacingTimer := t } }
  read : ∀ s b, P s → P { s with arms := { s.arms with demandRead := b } }

/-- A property that says nothing of the arms, and that every condition record keeps. -/
structure Plain (P : State → Prop) : Prop extends Planned P where
  anyArms : ∀ s a, P s → P { s with arms := a }
  anyRecord : ∀ s k v, P s → P (Machine.changeRecord k v s)

section
variable {P : State → Prop} (h : Plain P) {s : State}
include h

theorem Plain.anyNotice {k : CondKind} {p : Bool} (hs : P s) : P (Machine.notice k p s) := h.anyRecord _ _ _ hs

theorem Plain.anyArm {u : BrushUnit} {a : ArmUnit} (hs : P s) : P (s.putArm u a) := h.anyArms _ _ hs

theorem Plain.reformGoal {u : BrushUnit} (hs : P s) : P (reformGoal u s) := by
  unfold Machine.reformGoal
  dsimp only
  split
  · exact h.anyArm hs
  · exact h.replan (h.anyArm hs)

theorem Plain.takeHold {u : BrushUnit} {x : Hold} (hs : P s) : P (takeHold u x s) := by
  unfold Machine.takeHold
  dsimp only
  split
  · exact hs
  · exact h.reformGoal (h.unitReport (h.anyArm hs))

theorem Plain.releaseHold {u : BrushUnit} {x : Hold} (hs : P s) : P (releaseHold u x s) := by
  unfold Machine.releaseHold
  dsimp only
  split
  · exact h.reformGoal (h.unitReport (h.anyArm hs))
  · exact hs

theorem Plain.setReleaseTimer {u : BrushUnit} {t : Timer} (hs : P s) : P (setReleaseTimer u t s) := h.anyArm hs

theorem Plain.switchFault {u : BrushUnit} (hs : P s) : P (switchFault u s) := h.enterFault (h.anyNotice hs)

theorem Plain.faultCleared {u : BrushUnit} (hs : P s) : P (faultCleared u s) := by
  unfold Machine.faultCleared
  split
  · dsimp only
    split
    · exact h.switchFault (h.readSwitches hs)
    · split
      · exact h.runPlanner (h.readSwitches hs)
      · exact h.setActivity (h.readSwitches hs)
  · exact hs

theorem Plain.switchOn {u : BrushUnit} {k : CylKind} (hs : P s) : P (switchOn u k s) := by
  unfold Machine.switchOn
  split
  · exact h.switchFault (h.loseComponent hs)
  · split
    · exact h.runStartTest (h.completeAction hs)
    · split
      · exact hs
      · split
        · exact hs
        · exact h.switchReplan (h.setComponent hs)

theorem Plain.switchOff {u : BrushUnit} {k : CylKind} (hs : P s) : P (switchOff u k s) := by
  have key : ∀ {x : State}, P x → P (if actionMoves x u k then x
      else if holdsValue (x.armOf u) k then
        Machine.switchReplan u (if k = .swingOut then Machine.takeHold u .knock (Machine.loseComponent u k x)
          else Machine.loseComponent u k x)
      else x) := by
    intro x hx
    split
    · exact hx
    · split
      · refine h.switchReplan ?_
        split
        · exact h.takeHold (h.loseComponent hx)
        · exact h.loseComponent hx
      · exact hx
  unfold Machine.switchOff
  dsimp only
  refine key ?_
  split
  · exact h.anyNotice hs
  · exact hs

theorem Plain.cylinderTimedOut {c : CylAction} (hs : P s) : P (cylinderTimedOut c s) :=
  h.runStartTest (h.enterFault (h.anyNotice (h.anyNotice (h.loseComponent (h.endAction hs)))))

/-- A property that says nothing of the arms is kept by their operations. -/
theorem Plain.armed : Armed P where
  startTest := fun _ hs => h.runStartTest hs
  demand := fun _ hs => h.postArmsDemand hs
  plan := fun _ _ hs => h.replan hs
  goals := fun _ _ hs => h.reformGoal hs
  take := fun _ _ _ _ hs => h.takeHold hs
  release := fun _ _ _ hs => h.releaseHold hs
  releaseTimer := fun _ _ _ hs => h.setReleaseTimer hs
  cleared := fun _ _ hs => h.faultCleared hs
  switchOn := fun _ _ _ _ hs => h.switchOn hs
  switchOff := fun _ _ _ _ hs => h.switchOff hs
  timedOut := fun _ _ hs => h.cylinderTimedOut hs
  brushSample := fun _ _ hs => h.armBrushSample hs
  spinDown := fun _ _ hs => h.spinDownExpired hs
  mask := fun _ _ hs => h.anyArms _ _ hs
  spacing := fun _ _ hs => h.anyArms _ _ hs
  read := fun _ _ hs => h.anyArms _ _ hs

end

/-! ## The readers' set -/

/-- A property that every elementary update behind a notice, a hold, a sensor value or a switch change keeps. -/
structure Told (P : State → Prop) : Prop where
  water : Tank P
  brush : ∀ s b, SameBrushes s.brush b → P s → P { s with brush := b }
  arms : Armed P
  record : ∀ s k v, P s → P (changeRecord k v s)
  travel : ∀ s m, m.travels = true → s.mc.mode.moves → P s → P (driveEnterTravel (modeReport (takeMode m s)))
  post : ∀ s r, P s → P (s.post r)

theorem Told.noticed {P : State → Prop} (h : Told P) : Noticed P :=
  ⟨h.water.toWet, h.brush, fun s k v _ => h.record s k v, h.travel⟩

section
variable {P : State → Prop} (h : Told P) {s : State}
include h

theorem Told.notice {k : CondKind} {p : Bool} (hs : P s) : P (notice k p s) := h.record _ _ _ hs

theorem Told.curbRead {u : BrushUnit} (hu : u ≠ .m) (hs : P s) : P (curbRead u s) := by
  unfold Machine.curbRead
  dsimp only
  repeat' split
  all_goals first
    | exact hs
    | exact h.arms.take _ _ _ (fun e => absurd e hu) hs
    | exact h.arms.releaseTimer _ _ _ hs

theorem Told.releaseExpired {u : BrushUnit} (hs : P s) : P (releaseExpired u s) :=
  h.arms.release _ _ _ (h.arms.releaseTimer _ _ _ hs)

theorem Told.unitOperation {u : BrushUnit} {op : Nat} (hu : u = .m → op < 2) (hs : P s) : P (unitOperation u op s) := by
  have h1 := h.arms.release _ u .sensed (h.arms.releaseTimer _ u none hs)
  unfold Machine.unitOperation
  split
  · exact h.arms.take _ _ _ (fun _ => Or.inl rfl) hs
  · exact h.arms.release _ _ _ hs
  · split
    · dsimp only
      split
      · exact h.arms.take _ _ _ (fun e => absurd (hu e) (by decide)) h1
      · exact h1
    · exact hs
  · exact h.arms.release _ _ _ hs

theorem Told.armsAnnounced (hs : P s) : P (armsAnnounced s) :=
  h.arms.goals _ _ (h.arms.goals _ _ (h.arms.goals _ _ hs))

theorem Told.enterTravel {m : Mode} (hm : m.travels = true) (hv : s.mc.mode.moves) (hs : P s) : P (enterTravel m s) :=
  h.armsAnnounced (h.noticed.enterTravelBlocks hm hv hs)

theorem Told.forcedParking (hs : P s) : P (forcedParking s) := by
  unfold Machine.forcedParking
  split
  · next e => exact h.enterTravel rfl (by rw [e]; trivial) hs
  · next e => exact h.enterTravel rfl (by rw [e]; trivial) hs
  · next e => exact h.enterTravel rfl (by rw [e]; trivial) hs
  · exact hs

theorem Told.oilHighTest {t : Int} (hs : P s) : P (oilHighTest t s) := by
  unfold Machine.oilHighTest
  split
  · exact h.notice hs
  · split
    · exact h.notice hs
    · exact hs

theorem Told.oilOverTest {t : Int} (hs : P s) : P (oilOverTest t s) := by
  unfold Machine.oilOverTest
  split
  · exact h.forcedParking (h.notice hs)
  · split
    · exact h.notice hs
    · exact hs

theorem Told.oilTest (hs : P s) : P (oilTest s) := h.oilOverTest (h.oilHighTest hs)

theorem Told.loopTest (hs : P s) : P (loopTest s) := by
  unfold Machine.loopTest
  dsimp only
  split
  · exact h.notice hs
  · split
    · exact h.notice hs
    · exact hs

theorem Told.setLow {f : Bool} (hs : P s) : P (setLow f s) := h.water.low _ _ hs

theorem Told.setEmpty {f : Bool} (hs : P s) : P (setEmpty f s) := h.water.empty _ _ hs

theorem Told.tankTest (hs : P s) : P (tankTest s) := h.setEmpty (h.setLow hs)

theorem Told.refreshBrushDemand {u : BrushUnit} (hs : P s) : P (refreshBrushDemand u s) :=
  h.noticed.putBrush ⟨rfl, rfl, rfl, rfl, rfl, rfl⟩ hs

/-- The readers of a sensor value change nothing but the brushes, the arms, the water, the condition table with its
notices, the report queue and, in the modes that move, the mode with its announcement. -/
theorem Told.tellReaders {r : Role} (hs : P s) : P (tellReaders r s) := by
  cases r
  · exact h.loopTest hs
  · exact h.loopTest hs
  · exact h.refreshBrushDemand (h.refreshBrushDemand (h.refreshBrushDemand hs))
  · exact h.oilTest hs
  · exact h.tankTest hs
  · exact h.noticed.evaluateFlow hs
  · exact h.curbRead (by decide) hs
  · exact h.curbRead (by decide) hs

theorem Told.lostNotice {r : Role} {a b : ChannelState} (hs : P s) : P (lostNotice r a b s) := by
  unfold Machine.lostNotice
  split
  · exact h.notice hs
  · split
    · exact h.notice hs
    · exact hs

theorem Told.clearedReaction {k : CondKind} (hs : P s) : P (clearedReaction k s) := by
  unfold Machine.clearedReaction
  split
  · exact h.arms.release _ _ _ hs
  · exact h.arms.cleared _ _ hs
  · exact h.arms.cleared _ _ hs
  · exact hs

theorem Told.takeClear {n : Nat} (hs : P s) : P (takeClear n s).1 := by
  unfold Machine.takeClear
  split
  · exact hs
  · split
    · exact h.clearedReaction (h.record _ _ _ hs)
    · split
      · exact hs
      · exact hs

end

end Sys2Proof.Machine
end

