-- ==== Sys2Proof/Laws/Commands.lean ====
section
/-! SUPPORT. What a command can change, said once for all commands: a property that the elementary updates of every block
keep is kept by `exec`, whatever the command, and `exec` always answers a next state. Invariants of Mode Control, of the
link port, of the recipe unit, of the setup, of the zone queue and of the water follow from it. -/

namespace Sys2Proof.Machine

/-- An update of the link port that makes neither buffer longer than its bound and keeps the error count bounded. -/
def LinkStep (l m : LinkPort) : Prop :=
  (m.rx.length ≤ 2 ∨ m.rx.length ≤ l.rx.length) ∧ m.reports.length ≤ l.reports.length ∧
    (m.errors ≤ 65535 ∨ m.errors = l.errors)

/-- A slot that is valid, or is any slot but slot 0 in the state of an invalid one (R127). -/
def SlotOk (n : Fin 32) (x : Slot) : Prop := x.valid = true ∨ (n ≠ 0 ∧ x = Slot.invalid)

/-- Every field of a slot or of a stack entry lies in its range (R128). -/
def FieldsOk (x : Recipes) : Prop :=
  (∀ n : Fin 32, FieldsInRange x.slots[n].fields) ∧ ∀ e ∈ x.base :: x.overrides, FieldsInRange e.fields

/-- A property that every operation of the Spray Controller keeps. An announced recipe stood at the top of the stack in
some state with the property, and a lag ends that was running. -/
structure Water (P : State → Prop) : Prop extends Tank P where
  share : ∀ s, P s → P (waterShare s)
  recipe : ∀ s f, (∃ b, P b ∧ f = b.recipes.top.fields) → P s → P (sprayRecipe f s)
  enable : ∀ s v, P s → P (takeSpray v s).1
  ramp : ∀ s, P s → P (waterRampExpired s)
  lead : ∀ s, P s → P (leadExpired s)
  lag : ∀ s, s.spray.lagTimer ≠ none → P s → P (lagExpired s)
  standby : ∀ s, P s → P (sprayStandby s)
  restart : ∀ s, P s → P (sprayRestart s)
  kw : ∀ s, P s → P (kwWritten s)

/-- A property that says nothing of the water is such a property. -/
theorem water_of_spray {P : State → Prop} (h : ∀ s p, P s → P { s with spray := p })
    (hr : ∀ s k v, P s → P (changeRecord k v s)) : Water P :=
  { tank_of_spray h hr with
    share := fun s hs => h s _ hs
    recipe := fun s _ _ hs => (wet_of_spray h).form _ (h s _ hs)
    enable := fun s _ hs => (wet_of_spray h).form _ (h s _ hs)
    ramp := fun s hs => h s _ hs
    lead := fun s hs => h s _ hs
    lag := fun s _ hs => h s _ hs
    standby := fun s hs => h s _ hs
    restart := fun s hs => h s _ hs
    kw := fun s hs => h s _ hs }

/-- The drive changed in other parts than those a drive period forms and the brake. -/
def SameOutput (x y : Drive) : Prop :=
  y.target = x.target ∧ y.ramped = x.ramped ∧ y.correction = x.correction ∧ y.clampFlag = x.clampFlag ∧
    y.dispCmd = x.dispCmd ∧ y.demand = x.demand ∧ y.overrun = x.overrun ∧ y.dispOut = x.dispOut ∧ y.brk = x.brk

/-- A property that every elementary update of the blocks other than the pulse capture, the recipe unit, the setup and
the pins keeps: mode announcements, samples, sensor values, shares and recipe changes are built from these. -/
structure Blocks (P : State → Prop) : Prop where
  drive : ∀ s d, SameOutput s.drive d → P s → P { s with drive := d }
  drivePeriod : ∀ s, P s → P (drivePeriod s)
  water : Water P
  brush : ∀ s b, P s → P { s with brush := b }
  arms : Armed P
  sensors : ∀ s x, P s → P { s with sensors := x }
  arb : ∀ s a, P s → P { s with arb := a }
  cond : ∀ s c, P s → P { s with cond := c }
  travel : ∀ s m, m.travels = true → P s → P (driveEnterTravel (modeReport (takeMode m s)))
  park : ∀ s b, P s → P (driveEnterPark b (modeReport (takeMode .park s)))
  post : ∀ s r, P s → P (s.post r)

/-- A property that every elementary update a command makes keeps. Waking is met in STANDBY alone. -/
structure Whole (P : State → Prop) : Prop extends Blocks P where
  clock : ∀ s n, s.clock ≤ n → P s → P { s with clock := n }
  free : ∀ s n, P s → P { s with free := n }
  pcu : ∀ s p, p.odometer = s.pcu.odometer → p.sample = s.pcu.sample → P s → P { s with pcu := p }
  pins : ∀ s p, P s → P { s with pins := p }
  waking : ∀ s, s.mc.mode = .standby → P s → P (armsWake (brushWake (driveWake (pulseWake (enterSettle s)))))
  restarting : ∀ s, P s → P (armsRestart (brushRestart (driveRestart (pulseRestart (enterSettle s)))))
  resting : ∀ s, P s →
    P (armsStandby (brushStandby (driveEnterStandby (pulseStandby (modeReport (takeMode .standby s))))))
  link : ∀ s l, LinkStep s.link l → P s → P { s with link := l }
  setup : ∀ s g ps, (∀ p ∈ ps, (setupRange g p.1.toNat).isSome) → P s →
    P { s with setup := writtenSetup g ps s.setup }
  pace : ∀ s p, P s → P { s with recipes := { s.recipes with pace := p } }
  slot : ∀ s n x, SlotOk n x → (FieldsOk s.recipes → FieldsInRange x.fields) → P s → P (s.putSlot n x)
  refresh : ∀ s n g, P s → P (s.putSlot n (refreshSlot g s.recipes.slots[n]))
  stack : ∀ s b o, (o.length ≤ 3 ∨ o.length ≤ s.recipes.overrides.length) →
    (FieldsOk s.recipes → ∀ e ∈ b :: o, FieldsInRange e.fields) → P s →
    P { s with recipes := { s.recipes with base := b, overrides := o } }
  zoneAdd : ∀ s mark slot tag, P s → P (takeZoneAdd mark slot tag s).1
  zoneClear : ∀ s, P s → P (s.putZones [])
  restart : ∀ s, P s → P { s with recipes := { s.recipes with
    base := ⟨0, s.recipes.slots[0].fields⟩, overrides := [], zones := [], reference := s.pcu.odometer } }
  gate : ∀ s, P s → P (wheelGateOver s)
  setOdometer : ∀ s v, P s → P (takeSetOdometer v s).1
  reset : ∀ s, P s → P (afterReset s)

section
variable {P : State → Prop} {s : State}

/-! ## Fields in their ranges -/

/-- The ranges can be checked field by field. -/
theorem fields_in_range_of_check (f : RecipeFields)
    (h : ((List.finRange 23).all fun i =>
      match fieldLimits[i.val]? with
      | some (.range lo hi) => decide (lo ≤ f[i] ∧ f[i] ≤ hi)
      | some (.mask width) => decide (0 ≤ f[i] ∧ f[i] < 2 ^ width)
      | none => false) = true) : FieldsInRange f := by
  intro i
  have hi := List.all_eq_true.1 h i (List.mem_finRange i)
  split at hi <;> simp_all

theorem defaults_inRange : FieldsInRange RecipeFields.defaults := fields_in_range_of_check _ (by decide)

/-- A limited value lies in the field's range. -/
theorem apply_inRange {l : FieldLimit} (hl : l ∈ fieldLimits) (v : Int) :
    match l with
    | .range lo hi => lo ≤ l.apply v ∧ l.apply v ≤ hi
    | .mask width => 0 ≤ l.apply v ∧ l.apply v < 2 ^ width := by
  cases l with
  | range lo hi =>
    have : lo ≤ hi := by
      have all : (fieldLimits.all fun | .range lo hi => decide (lo ≤ hi) | .mask _ => true) = true := by decide
      exact of_decide_eq_true (List.all_eq_true.1 all _ hl)
    simp only [FieldLimit.apply, clamp]
    omega
  | mask w =>
    simp only [FieldLimit.apply]
    exact ⟨Int.natCast_nonneg _, by exact_mod_cast Nat.mod_lt _ (Nat.two_pow_pos w)⟩

theorem write_inRange {x : Slot} {n : Nat} {l : FieldLimit} (hl : fieldLimits[n]? = some l) (v : Int)
    (hx : FieldsInRange x.fields) : FieldsInRange (x.write n (l.apply v)).fields := by
  intro i
  have hi := hx i
  have ha := apply_inRange (List.mem_of_getElem? hl) v
  by_cases e : n = i.val
  · subst e
    rw [hl]
    simp only [Slot.write, Fin.getElem_fin, Vector.getElem_setIfInBounds_self]
    cases l <;> exact ha
  · simp only [Slot.write, Fin.getElem_fin, Vector.getElem_setIfInBounds_ne _ e] at hi ⊢
    exact hi

theorem writePairs_inRange : ∀ (ps : List (Byte × Int)) (x : Slot), (∀ p ∈ ps, p.1.toNat ≤ 22) → FieldsInRange x.fields →
    FieldsInRange (writePairs ps x).1.fields
  | [], _, _, hx => hx
  | (n, v) :: rest, x, hp, hx => by
    have hn : n.toNat < fieldLimits.length := Nat.lt_succ_of_le (hp _ List.mem_cons_self)
    obtain ⟨l, hl⟩ : ∃ l, fieldLimits[n.toNat]? = some l := ⟨_, List.getElem?_eq_getElem hn⟩
    refine writePairs_inRange rest _ (fun p hm => hp p (List.mem_cons_of_mem _ hm)) ?_
    rw [hl]
    exact write_inRange hl v hx

/-- A refreshed entry's fields are its own or the slot's. -/
theorem refreshEntry_inRange {n : Fin 32} {x : Slot} {g : Byte} {e : StackEntry} (hx : FieldsInRange x.fields)
    (he : FieldsInRange e.fields) : FieldsInRange (refreshEntry n x g e).fields := by
  unfold refreshEntry
  split
  · intro i
    have h1 := hx i
    have h2 := he i
    simp only [Fin.getElem_fin, Vector.getElem_ofFn] at h1 h2 ⊢
    by_cases r : refreshes x g i.val
    · simpa only [r, if_true] using h1
    · simpa only [r, Bool.false_eq_true, if_false] using h2
  · exact he

theorem refreshed_inRange (s : State) (n : Fin 32) (g : Byte) :
    FieldsOk (s.putSlot n (refreshSlot g s.recipes.slots[n])).recipes →
    ∀ e ∈ refreshEntry n s.recipes.slots[n] g s.recipes.base ::
      s.recipes.overrides.map (refreshEntry n s.recipes.slots[n] g), FieldsInRange e.fields := by
  intro hf e he
  have hx : FieldsInRange s.recipes.slots[n].fields := by
    have := hf.1 n
    simpa [State.putSlot, refreshSlot] using this
  rcases List.mem_cons.1 he with rfl | he
  · exact refreshEntry_inRange hx (hf.2 _ List.mem_cons_self)
  · obtain ⟨e', hm, rfl⟩ := List.mem_map.1 he
    exact refreshEntry_inRange hx (hf.2 _ (List.mem_cons_of_mem _ hm))

/-! ## Switches -/

/-- The switches of M are those of its height. -/
theorem switch_fits (w : EndSwitch) : CylKind.fits (switchUnit w) (switchKind w) := by
  intro e
  cases w <;> first | rfl | cases e

/-! ## Sequences of updates -/

/-- A step made for each unit. -/
theorem forUnits_keeps {f : BrushUnit → State → State} (hf : ∀ u x, P x → P (f u x)) (hs : P s) : P (forUnits f s) :=
  hf _ _ (hf _ _ (hf _ _ hs))

theorem foldl_keeps {α : Type} {f : State → α → State} (hf : ∀ x a, P x → P (f x a)) (l : List α) :
    ∀ {s : State}, P s → P (l.foldl f s) := by
  induction l with
  | nil => intro s hs; exact hs
  | cons a l ih => intro s hs; exact ih (hf _ _ hs)

theorem onExpiry_keeps {t : Timer} {f : State → State} (hc : ∀ s n, s.clock ≤ n → P s → P { s with clock := n })
    (hf : ∀ x, P x → P (f x)) (hs : P s) : P (onExpiry t f s) := by
  unfold onExpiry
  split
  · exact hs
  · exact hf _ (hc _ _ (Nat.le_max_left _ _) hs)

theorem attachReply_length (b : List Byte) (l : List Place) : (attachReply b l).length = l.length := by
  induction l with
  | nil => rfl
  | cons p l ih => unfold attachReply; split <;> simp [ih]

theorem place_linkStep (l : LinkPort) (k t : Byte) (b : List Byte) : LinkStep l (l.place k t b) := by
  unfold LinkPort.place
  dsimp only
  split
  · refine ⟨Or.inl ?_, Nat.le_refl _, Or.inr rfl⟩
    simp only [List.length_append, List.length_singleton]
    omega
  · exact ⟨Or.inr (Nat.le_refl _), Nat.le_refl _, Or.inl (Nat.min_le_left _ _)⟩

theorem guarded_keeps {ok : Bool} {act : State → State × List Byte} (hact : P (act s).1) (hs : P s) :
    P (guarded ok act s).1 := by
  unfold guarded
  split
  · exact hs
  · split
    · exact hs
    · exact hact

theorem notInStandby_keeps {act : State → State × List Byte} (hact : P (act s).1) (hs : P s) :
    P (notInStandby act s).1 := by
  unfold notInStandby
  split
  · exact hs
  · exact hact

theorem takeSensorRead_keeps {n : Byte} (hs : P s) : P (takeSensorRead n s).1 := by
  unfold Machine.takeSensorRead
  split <;> exact hs

theorem transmit_linkStep (l : LinkPort) : LinkStep l l.transmit := by
  unfold LinkPort.transmit
  split
  · exact ⟨Or.inr (Nat.le_refl _), Nat.le_refl _, Or.inr rfl⟩
  · split
    · exact ⟨Or.inr (Nat.le_refl _), Nat.le_refl _, Or.inr rfl⟩
    · split
      · exact ⟨Or.inr (Nat.le_refl _), Nat.le_refl _, Or.inr rfl⟩
      · next e => exact ⟨Or.inr (Nat.le_refl _), by rw [e]; simp, Or.inr rfl⟩

theorem freePlace_length (l : List Place) : (freePlace l).length ≤ l.length := by
  induction l with
  | nil => exact Nat.le_refl _
  | cons p l ih => unfold freePlace; split <;> simp [ih]

theorem endFrame_linkStep (l : LinkPort) : LinkStep l l.endFrame := by
  unfold LinkPort.endFrame
  split
  · exact ⟨Or.inr (Nat.le_refl _), Nat.le_refl _, Or.inr rfl⟩
  · refine ⟨Or.inr ?_, Nat.le_refl _, Or.inr rfl⟩
    dsimp only
    split
    · exact freePlace_length _
    · exact Nat.le_refl _

/-- A unit's flags that are yes become no with their notices. -/
theorem brushStandby_keeps {P : State → Prop} (n : Noticed P) (hb : ∀ s b, P s → P { s with brush := b })
    (hr : ∀ s k v, P s → P (changeRecord k v s)) {s : State} (hs : P s) : P (brushStandby s) := by
  refine forUnits_keeps (fun u x hx => ?_) hs
  have off : ∀ {x : State} {c : Bool} {f : State → State}, (∀ y, P y → P (f y)) → P x → P (if c then f x else x) := by
    intro x c f hf hx
    split
    · exact hf _ hx
    · exact hx
  exact off (fun _ h => hr _ _ _ (hb _ _ h)) (off (fun _ h => hr _ _ _ (hb _ _ h))
    (off (fun _ h => n.setStarved h) (n.outputNotice (hb _ _ hx))))

end

section
variable {P : State → Prop} (h : Blocks P) {s : State}
include h

/-- A change of one condition record. -/
theorem Blocks.changeRecord {k : CondKind} {v : CondState} (hs : P s) : P (changeRecord k v s) := by
  unfold Machine.changeRecord
  dsimp only
  split
  · exact hs
  · exact h.arb _ _ (h.cond _ _ (h.post _ _ hs))

theorem Blocks.setOverspeed {f : Bool} (hs : P s) : P (setOverspeed f s) :=
  h.changeRecord (h.drive _ _ ⟨rfl, rfl, rfl, rfl, rfl, rfl, rfl, rfl, rfl⟩ hs)

theorem Blocks.told : Told P :=
  ⟨h.water.toTank, fun s b _ => h.brush s b, h.arms, fun _ _ _ hs => h.changeRecord hs,
    fun _ _ hm _ hs => h.travel _ _ hm hs, h.post⟩

theorem Blocks.noticed : Noticed P := h.told.noticed

theorem Blocks.enterTravel {m : Mode} (hm : m.travels = true) (hs : P s) : P (enterTravel m s) :=
  h.told.armsAnnounced (h.noticed.formWanted (h.travel _ _ hm hs))

theorem Blocks.putBrush {u : BrushUnit} {b : BrushRec} (hs : P s) : P (s.putBrush u b) := h.brush _ _ hs

/-! ## Travel -/

theorem Blocks.overspeedTest (hs : P s) : P (overspeedTest s) := by
  unfold Machine.overspeedTest
  dsimp only
  split <;> first
    | exact hs
    | (split
       · split
         · exact h.setOverspeed hs
         · exact hs
       · split
         · exact h.setOverspeed hs
         · exact hs)

theorem Blocks.setRequestStale {f : Bool} (hs : P s) : P (setRequestStale f s) := h.told.notice (h.drive _ _ ⟨rfl, rfl, rfl, rfl, rfl, rfl, rfl, rfl, rfl⟩ hs)

theorem Blocks.takeTravel {v : Int} (hs : P s) : P (takeTravel v s).1 := by
  unfold Machine.takeTravel answer
  dsimp only
  split
  · exact h.setRequestStale (h.drive _ _ ⟨rfl, rfl, rfl, rfl, rfl, rfl, rfl, rfl, rfl⟩ hs)
  · exact h.drive _ _ ⟨rfl, rfl, rfl, rfl, rfl, rfl, rfl, rfl, rfl⟩ hs

theorem Blocks.requestExpired (hs : P s) : P (requestExpired s) := by
  unfold Machine.requestExpired
  dsimp only
  split
  · exact h.drive _ _ ⟨rfl, rfl, rfl, rfl, rfl, rfl, rfl, rfl, rfl⟩ hs
  · exact h.setRequestStale (h.drive _ _ ⟨rfl, rfl, rfl, rfl, rfl, rfl, rfl, rfl, rfl⟩ hs)

/-! ## Brushes -/

theorem Blocks.setStalled {u : BrushUnit} {f : Bool} (hs : P s) : P (setStalled u f s) := h.told.notice (h.putBrush hs)
theorem Blocks.setLagging {u : BrushUnit} {f : Bool} (hs : P s) : P (setLagging u f s) := h.told.notice (h.putBrush hs)

theorem Blocks.brushSpeedSample {u : BrushUnit} (hs : P s) : P (brushSpeedSample u s) :=
  h.noticed.formTarget (h.putBrush hs)

theorem Blocks.brushSample {u : BrushUnit} (hs : P s) : P (brushSample u s) := by
  have h1 : P (stallSample u s) := by
    unfold Machine.stallSample
    dsimp only
    split
    · exact h.setStalled (h.putBrush hs)
    · exact h.putBrush hs
  unfold Machine.brushSample lagSample
  dsimp only
  split
  · split
    · exact h.putBrush h1
    · exact h1
  · split
    · exact h.setLagging (h.putBrush h1)
    · exact h.putBrush h1

theorem Blocks.lagTimerExpired {u : BrushUnit} (hs : P s) : P (lagTimerExpired u s) := h.setLagging (h.putBrush hs)

theorem Blocks.brushRecipe {f : RecipeFields} (hs : P s) : P (brushRecipe f s) := by
  refine forUnits_keeps (fun u x hx => ?_) (h.brush _ _ hs)
  unfold brushRecipeUnit
  dsimp only
  split
  · exact h.noticed.startRamp (h.putBrush hx)
  · exact h.putBrush hx

theorem Blocks.brushRest {u : BrushUnit} (hs : P s) : P (brushRest u s) := h.noticed.outputNotice (h.putBrush hs)

theorem Blocks.brushStandby (hs : P s) : P (brushStandby s) :=
  brushStandby_keeps h.noticed h.brush (fun _ _ _ hx => h.changeRecord hx) hs

theorem Blocks.brushWake (hs : P s) : P (brushWake s) := forUnits_keeps (fun _ _ hx => h.putBrush hx) hs

theorem Blocks.brushRestart (hs : P s) : P (brushRestart s) :=
  forUnits_keeps (fun _ _ hx => h.putBrush (h.brushRest hx)) hs

/-! ## Arms -/

theorem Blocks.stallTimerExpired {u : BrushUnit} (hs : P s) : P (stallTimerExpired u s) := by
  unfold Machine.stallTimerExpired
  dsimp only
  split
  · exact h.setStalled (h.putBrush hs)
  · exact h.arms.take _ _ _ (fun _ => Or.inr rfl) (h.setStalled (h.putBrush hs))

theorem Blocks.armsEnterPark (hs : P s) : P (armsEnterPark s) :=
  forUnits_keeps (fun _ _ hx => h.arms.plan _ _ hx) (h.told.armsAnnounced hs)

theorem Blocks.armsRecipe {f : RecipeFields} (hs : P s) : P (armsRecipe f s) :=
  h.told.armsAnnounced (h.arms.mask _ _ hs)

theorem Blocks.judgeUnit {b : List Byte} (hs : P s) : P (judgeUnit b s).1 := by
  unfold Machine.judgeUnit
  split
  · refine guarded_keeps ?_ hs
    unfold takeUnit
    split
    · exact hs
    · split
      · exact hs
      · next hn =>
        refine h.told.unitOperation (fun e => ?_) hs
        by_contra hc
        exact hn (Or.inr ⟨e, Nat.le_of_not_lt hc⟩)
  · exact guarded_keeps hs hs

/-! ## Modes of the Monitor's file -/

theorem Blocks.enterPark {b : Bool} (hs : P s) : P (enterPark b s) := by
  unfold Machine.enterPark
  dsimp only
  split
  · exact h.armsEnterPark (h.noticed.formWanted (h.park _ _ hs))
  · exact h.told.armsAnnounced (h.noticed.formWanted (h.park _ _ hs))

/-! ## Sensors -/

theorem Blocks.putLine {l : Line} (hs : P s) : P (s.putLine l) := h.sensors _ _ hs
theorem Blocks.putChannel {r : Role} {c : Channel} (hs : P s) : P (s.putChannel r c) := h.sensors _ _ hs

theorem Blocks.applyOutcome {r : Role} {o : PollOutcome} (hs : P s) : P (applyOutcome r o s) := by
  have key : ∀ (b : Bool) {x : State}, P x → P (if b = true then Machine.tellReaders r x else x) := by
    intro b x hx
    split
    · exact h.told.tellReaders hx
    · exact hx
  exact key _ (h.told.lostNotice (h.putChannel hs))

theorem Blocks.beginTransaction {r : Role} {c : NodeCommand} {q : PollSettings} (hs : P s) :
    P (beginTransaction r c q s) := h.putLine hs
theorem Blocks.advanceCounter (hs : P s) : P (advanceCounter s) := h.sensors _ _ hs

theorem Blocks.nextTransaction {x : Round} (hs : P s) : P (nextTransaction x s) := by
  unfold Machine.nextTransaction
  split
  · exact h.beginTransaction (h.sensors _ _ hs)
  · split
    · exact h.advanceCounter hs
    · exact h.beginTransaction (h.sensors _ _ hs)

theorem Blocks.startRound (hs : P s) : P (startRound s) := by
  unfold Machine.startRound
  dsimp only
  split
  · exact h.nextTransaction (h.sensors _ _ hs)
  · split
    · exact h.advanceCounter (h.sensors _ _ hs)
    · exact h.sensors _ _ hs

theorem Blocks.turnaroundOver (hs : P s) : P (turnaroundOver s) := by
  unfold Machine.turnaroundOver
  dsimp only
  split
  · exact h.putLine hs
  · split
    · exact h.startRound (h.nextTransaction (h.putLine hs))
    · exact h.nextTransaction (h.putLine hs)

theorem Blocks.roundPeriodOver (hs : P s) : P (roundPeriodOver s) := by
  unfold Machine.roundPeriodOver
  dsimp only
  split
  · exact h.startRound (h.sensors _ _ hs)
  · exact h.sensors _ _ hs

theorem Blocks.actOnReply {tx : Transaction} {a : Answered} (hs : P s) : P (actOnReply tx a s) := by
  unfold Machine.actOnReply
  split
  · exact h.applyOutcome hs
  · exact h.putChannel hs
  · unfold followWithRead
    split
    · split
      · exact hs
      · exact h.sensors _ _ hs
    · exact hs

theorem Blocks.closeRound (hs : P s) : P (closeRound s) := by
  unfold Machine.closeRound
  split
  · split
    · exact h.advanceCounter hs
    · exact hs
  · exact hs

theorem Blocks.endTransaction {tx : Transaction} {a : Answered} (hs : P s) : P (endTransaction tx a s) := by
  have hb : P (beginTurnaround s) := h.putLine hs
  unfold Machine.endTransaction
  split
  · exact h.closeRound hb
  · exact h.closeRound (h.actOnReply hb)

theorem Blocks.replyReceived {a c x y z : Byte} (hs : P s) : P (replyReceived a c x y z s) := by
  unfold Machine.replyReceived
  split
  · exact h.endTransaction hs
  · exact hs

theorem Blocks.sensorsStandby (hs : P s) : P (sensorsStandby s) := by
  have h1 := h.sensors _ { s.sensors with roundTimer := none } hs
  unfold Machine.sensorsStandby
  dsimp only
  split
  · exact h1
  · split
    · exact h.sensors _ _ h1
    · exact h.advanceCounter h1

theorem Blocks.sensorsWake (hs : P s) : P (sensorsWake s) := by
  refine h.startRound ?_
  split
  · exact hs
  · exact h.advanceCounter (h.putLine hs)

theorem Blocks.sensorsRestart (hs : P s) : P (sensorsRestart s) := by
  refine h.startRound (foldl_keeps (fun x r hx => ?_) _ (h.sensors _ _ (h.putLine hs)))
  unfold restartChannel
  dsimp only
  split
  · exact h.told.tellReaders (h.putChannel hx)
  · exact h.putChannel hx

theorem Blocks.addressChanged {r : Role} (hs : P s) : P (addressChanged r s) := by
  have h1 : ∀ f, P (s.putLine (s.sensors.line.mark f)) := fun f => h.putLine hs
  unfold Machine.addressChanged
  dsimp only
  repeat' split
  all_goals first
    | exact h.told.tellReaders (h.told.notice (h.putChannel (h1 _)))
    | exact h.told.tellReaders (h.told.notice (h.putChannel (h.sensors _ _ (h1 _))))
    | exact h.told.tellReaders (h.putChannel (h1 _))
    | exact h.told.tellReaders (h.putChannel (h.sensors _ _ (h1 _)))
    | exact h.told.notice (h.putChannel (h1 _))
    | exact h.told.notice (h.putChannel (h.sensors _ _ (h1 _)))
    | exact h.putChannel (h1 _)
    | exact h.putChannel (h.sensors _ _ (h1 _))

theorem Blocks.substituteChanged {r : Role} (hs : P s) : P (substituteChanged r s) := by
  unfold Machine.substituteChanged
  split
  · exact hs
  · exact h.told.tellReaders hs

theorem Blocks.sensorsRecipe {f : RecipeFields} (hs : P s) : P (sensorsRecipe f s) := by
  unfold Machine.sensorsRecipe
  dsimp only
  split
  · exact h.substituteChanged (h.sensors _ _ hs)
  · exact h.sensors _ _ hs

/-! ## The arbiter -/

theorem Blocks.publishShares (hs : P s) : P (publishShares s) :=
  h.water.share _ (h.noticed.updateOutput (h.noticed.updateOutput (h.noticed.updateOutput (h.arms.startTest _ hs))))

theorem Blocks.allocate (hs : P s) : P (allocate s) :=
  h.arb { s with arms := { s.arms with demandRead := true } } _ (h.arms.read s _ hs)

theorem Blocks.arbiterPeriodOver (hs : P s) : P (arbiterPeriodOver s) := h.arb _ _ (h.publishShares (h.allocate hs))

theorem Blocks.setSupplyStale {f : Bool} (hs : P s) : P (setSupplyStale f s) := h.told.notice (h.arb _ _ hs)

theorem Blocks.takeSupply {v : Int} (hs : P s) : P (takeSupply v s).1 := by
  unfold Machine.takeSupply answer
  dsimp only
  split
  · exact h.setSupplyStale (h.arb _ _ hs)
  · exact h.arb _ _ hs

theorem Blocks.supplyHoldOver (hs : P s) : P (supplyHoldOver s) := by
  unfold Machine.supplyHoldOver
  dsimp only
  split
  · exact h.arb _ _ hs
  · exact h.setSupplyStale (h.arb _ _ hs)

theorem Blocks.arbiterStandby (hs : P s) : P (arbiterStandby s) := h.publishShares (h.arb _ _ (h.arb _ _ hs))

theorem Blocks.arbiterWake (hs : P s) : P (arbiterWake s) := by
  unfold Machine.arbiterWake
  dsimp only
  split
  · exact h.arb _ _ hs
  · exact h.setSupplyStale (h.arb _ _ hs)

theorem Blocks.arbiterRestart (hs : P s) : P (arbiterRestart s) :=
  h.setSupplyStale (h.publishShares (h.arb _ _ (h.arb _ _ hs)))

/-! ## Recipes -/

theorem Blocks.announceRecipe (hs : P s) : P (announceRecipe s) :=
  h.sensorsRecipe (h.arb _ _ (h.water.recipe _ _ ⟨s, hs, rfl⟩
    (h.armsRecipe (h.brushRecipe (h.drive _ _ ⟨rfl, rfl, rfl, rfl, rfl, rfl, rfl, rfl, rfl⟩ hs)))))

/-! ## Setup -/

theorem Blocks.roleWritten {b : Setup} {r : Role} (hs : P s) : P (roleWritten b s r) := by
  unfold Machine.roleWritten
  dsimp only
  split <;> split
  · exact hs
  · exact h.substituteChanged hs
  · exact h.addressChanged hs
  · exact h.substituteChanged (h.addressChanged hs)

theorem Blocks.spacingWritten (hs : P s) : P (spacingWritten s) := by
  unfold Machine.spacingWritten
  split
  · exact h.arms.spacing _ _ hs
  · exact hs

/-! ## A wheel gate -/

/-- A reached mark, and the announcement that may follow it. -/
theorem Blocks.recipeChange {c : RecipeCause} (hs : P s) : P (recipeChange c s) := h.announceRecipe (h.post _ _ hs)

theorem Blocks.odometerUpdate
    (hb : ∀ s (n : Fin 32), P s → P { s with recipes := { s.recipes with base := ⟨n, s.recipes.slots[n].fields⟩ } })
    (hz : ∀ s zs, P s → P (s.putZones zs))
    (hr : ∀ s n, P s → P { s with recipes := { s.recipes with reference := n } }) (hs : P s) :
    P (odometerUpdate s) := by
  unfold Machine.odometerUpdate
  split
  · unfold Machine.reverseUpdate
    exact hr _ _ (foldl_keeps (fun x z hx => h.post _ _ hx) _ (hz _ _ hs))
  · have hf : P ((dueZones s.pcu.odometer s.recipes.zones).foldl (fun s z => takeZone z s)
        (s.putZones (restZones s.pcu.odometer s.recipes.zones))) := by
      refine foldl_keeps (fun x z hx => ?_) _ (hz _ _ hs)
      unfold takeZone
      dsimp only
      split
      · exact h.post _ _ (hb _ _ hx)
      · exact h.post _ _ hx
    unfold Machine.forwardUpdate
    dsimp only
    split
    · exact h.recipeChange (hr _ _ hf)
    · exact hr _ _ hf

/-- What a wheel gate's speed sample does before Mode Control and the Recipe Unit have it. -/
theorem Blocks.speedSample (hs : P s) :
    P (Machine.evaluateFlow (forUnits Machine.brushSpeedSample (Machine.overspeedTest s))) :=
  h.noticed.evaluateFlow (forUnits_keeps (f := Machine.brushSpeedSample) (fun _ _ hx => h.brushSpeedSample hx)
    (h.overspeedTest hs))

theorem Blocks.wheelNotice {n : WheelNews} (hs : P s) : P (wheelNotice n s) := by
  cases n
  · exact hs
  · exact h.told.notice hs
  · exact h.told.notice hs

theorem Blocks.deliverSample
    (hm : ∀ s t, P s → P { s with mc := { s.mc with parkStopTimer := t } })
    (hb : ∀ s (n : Fin 32), P s → P { s with recipes := { s.recipes with base := ⟨n, s.recipes.slots[n].fields⟩ } })
    (hz : ∀ s zs, P s → P (s.putZones zs))
    (hr : ∀ s n, P s → P { s with recipes := { s.recipes with reference := n } }) (hs : P s) :
    P (deliverSample s) := by
  have h1 := h.speedSample hs
  refine h.odometerUpdate hb hz hr ?_
  unfold parkStopTest
  split
  · exact hm _ _ h1
  · exact h1

/-- A wheel gate keeps a property that says nothing of the pulse capture, the park-stop timer, the base, the zone queue
and the reference. -/
theorem Blocks.wheelGate (hp : ∀ s p, P s → P { s with pcu := p })
    (hm : ∀ s t, P s → P { s with mc := { s.mc with parkStopTimer := t } })
    (hb : ∀ s (n : Fin 32), P s → P { s with recipes := { s.recipes with base := ⟨n, s.recipes.slots[n].fields⟩ } })
    (hz : ∀ s zs, P s → P (s.putZones zs))
    (hr : ∀ s n, P s → P { s with recipes := { s.recipes with reference := n } }) (hs : P s) :
    P (wheelGateOver s) :=
  h.deliverSample hm hb hz hr (h.wheelNotice (h.wheelNotice (hp s _ hs)))

theorem Blocks.takeSetOdometer (hp : ∀ s p, P s → P { s with pcu := p })
    (hb : ∀ s (n : Fin 32), P s → P { s with recipes := { s.recipes with base := ⟨n, s.recipes.slots[n].fields⟩ } })
    (hz : ∀ s zs, P s → P (s.putZones zs))
    (hr : ∀ s n, P s → P { s with recipes := { s.recipes with reference := n } }) {v : Word32} (hs : P s) :
    P (takeSetOdometer v s).1 := by
  unfold Machine.takeSetOdometer
  split
  · exact h.odometerUpdate hb hz hr (hp s _ hs)
  · exact hs

end

/-! ## Properties that say nothing of the arms -/

section
variable {P : State → Prop} (h : Blocks P) (ha : ∀ s a, P s → P { s with arms := a }) {s : State}
include h ha

theorem Blocks.plain : Plain P :=
  ⟨⟨h.noticed, fun s a _ => ha s a, h.post⟩, ha, fun _ _ _ hs => h.changeRecord hs⟩

theorem Blocks.armsAbandon (hs : P s) : P (armsAbandon s) :=
  (h.plain ha).postArmsDemand (ha _ _ (ha _ _ ((h.plain ha).endAction hs)))

theorem Blocks.armsStandby (hs : P s) : P (armsStandby s) :=
  h.told.armsAnnounced (ha _ _ (h.armsAbandon ha hs))

theorem Blocks.armsWake (hs : P s) : P (armsWake s) := by
  have p := h.plain ha
  refine h.told.armsAnnounced (forUnits_keeps (fun u x hx => ?_) (ha _ _ hs))
  have h1 := p.readSwitches (u := u) (p.setSpin (u := u) (sp := .off) hx)
  unfold armWakeUnit
  dsimp only
  split
  · exact p.switchFault h1
  · exact p.setActivity (p.anyNotice h1)

theorem Blocks.armsRestart (hs : P s) : P (armsRestart s) := by
  have p := h.plain ha
  refine h.told.armsAnnounced (forUnits_keeps (fun u x hx => ?_) (h.armsAbandon ha hs))
  have h1 := p.readSwitches (u := u) (p.setSpin (u := u) (sp := .off)
    (p.anyArm (u := u) (a := { x.armOf u with holds := [], activity := .idle }) hx))
  unfold armRestartUnit
  dsimp only
  split
  · exact p.switchFault h1
  · exact h1

/-- Entry to STANDBY, waking and RESTART, up to the arms, for a property that their first parts keep. -/
theorem Blocks.rests (h1 : P (driveEnterStandby (pulseStandby (modeReport (takeMode .standby s))))) :
    P (Machine.armsStandby (Machine.brushStandby (driveEnterStandby (pulseStandby (modeReport (takeMode .standby s)))))) :=
  h.armsStandby ha (h.brushStandby h1)

theorem Blocks.wakes (h1 : P (driveWake (pulseWake (enterSettle s)))) :
    P (Machine.armsWake (Machine.brushWake (driveWake (pulseWake (enterSettle s))))) :=
  h.armsWake ha (h.brushWake h1)

theorem Blocks.restarts (h1 : P (driveRestart (pulseRestart (enterSettle s)))) :
    P (Machine.armsRestart (Machine.brushRestart (driveRestart (pulseRestart (enterSettle s))))) :=
  h.armsRestart ha (h.brushRestart h1)

end

section
variable {P : State → Prop} (h : Whole P) {s : State}
include h

/-! ## Brushes -/

theorem Whole.takePaceWrite {t : Nat} {y : Int} {n : Nat} {bs rs : List Int} (hs : P s) :
    P (takePaceWrite t y n bs rs s).1 := by
  unfold Machine.takePaceWrite answer
  dsimp only
  split
  · split
    · dsimp only
      refine forUnits_keeps (fun u x hx => ?_) (h.pace _ _ hs)
      unfold markReselect
      split
      · exact h.putBrush hx
      · exact hx
    · exact hs
  · exact hs

/-! ## Arms -/

theorem Whole.endSwitchChanged {w : EndSwitch} {a : Bool} (hs : P s) : P (endSwitchChanged w a s) := by
  unfold Machine.endSwitchChanged
  dsimp only
  split
  · exact hs
  · split
    · exact h.pins _ _ hs
    · split
      · exact h.arms.switchOn _ _ _ (switch_fits w) (h.pins _ _ hs)
      · exact h.arms.switchOff _ _ _ (switch_fits w) (h.pins _ _ hs)

/-! ## Sensors -/

theorem Whole.windowClosed (hs : P s) : P (windowClosed s) := by
  unfold Machine.windowClosed
  split
  · exact h.endTransaction (h.clock _ _ (Nat.le_max_left _ _) hs)
  · exact hs

theorem Whole.frameSent (hs : P s) : P (frameSent s) := by
  unfold Machine.frameSent
  split
  · exact h.putLine (h.clock _ _ (Nat.le_max_left _ _) hs)
  · exact hs

/-! ## Recipes -/

theorem Whole.takeRecipeWrite {n : Byte} {ps : List (Byte × Int)} (hs : P s) : P (takeRecipeWrite n ps s).1 := by
  unfold Machine.takeRecipeWrite
  split
  · exact hs
  · split
    · exact hs
    · next hp =>
      refine h.slot _ _ _ (Or.inl rfl) (fun hf => writePairs_inRange _ _ (fun p hm => ?_) (hf.1 _)) hs
      simp only [List.any_eq_true, not_exists, not_and, decide_eq_true_eq] at hp
      have := hp p hm
      omega

theorem Whole.takeRecipeRead {a b : Byte} (hs : P s) : P (takeRecipeRead a b s).1 := by
  unfold Machine.takeRecipeRead
  split
  · split <;> exact hs
  · split
    · split <;> exact hs
    · exact h.free _ _ hs

theorem Whole.takeRecipeCopy {a b : Byte} (hs : P s) : P (takeRecipeCopy a b s).1 := by
  unfold Machine.takeRecipeCopy
  split
  · dsimp only
    split
    · exact h.slot _ _ _ (Or.inl rfl) (fun hf => hf.1 _) hs
    · exact hs
  · exact hs

theorem Whole.takeRecipeErase {n : Byte} (hs : P s) : P (takeRecipeErase n s).1 := by
  unfold Machine.takeRecipeErase
  split
  · exact hs
  · next n _ =>
    refine h.slot _ n _ ?_ (fun _ => defaults_inRange) hs
    by_cases hn : n = 0
    · subst hn; exact Or.inl rfl
    · refine Or.inr ⟨hn, ?_⟩
      have : (n.val == 0) = false := by
        simp only [beq_eq_false_iff_ne]
        exact fun e => hn (Fin.ext e)
      rw [this]
      rfl

theorem Whole.takeRefresh {a b : Byte} (hs : P s) : P (takeRefresh a b s).1 := by
  unfold Machine.takeRefresh
  split
  · exact hs
  · next n _ =>
    have h1 : P { s.putSlot n (refreshSlot b s.recipes.slots[n]) with recipes :=
        { (s.putSlot n (refreshSlot b s.recipes.slots[n])).recipes with
          base := refreshEntry n s.recipes.slots[n] b s.recipes.base
          overrides := s.recipes.overrides.map (refreshEntry n s.recipes.slots[n] b) } } :=
      h.stack _ _ _ (Or.inr (Nat.le_of_eq (List.length_map _))) (refreshed_inRange s n b) (h.refresh _ _ _ hs)
    dsimp only
    split
    · exact h.recipeChange h1
    · exact h1

theorem Whole.takePush {n : Byte} (hs : P s) : P (takePush n s).1 := by
  unfold Machine.takePush
  split
  · exact hs
  · split
    · exact hs
    · dsimp only
      split
      · exact hs
      · split
        · exact hs
        · next hd =>
          refine h.recipeChange (h.stack _ s.recipes.base _ (Or.inl ?_) (fun hf e he => ?_) hs)
          on_goal 2 =>
            rcases List.mem_cons.1 he with rfl | he
            · exact hf.2 _ List.mem_cons_self
            · rcases List.mem_append.1 he with he | he
              · exact hf.2 _ (List.mem_cons_of_mem _ he)
              · rw [List.mem_singleton.1 he]
                exact hf.1 _
          simp only [Recipes.depth, List.length_append, List.length_singleton] at hd ⊢
          omega

theorem Whole.takePop (hs : P s) : P (takePop s).1 := by
  unfold Machine.takePop
  split
  · exact hs
  · split
    · exact hs
    · refine h.recipeChange (h.stack _ s.recipes.base _ (Or.inr ?_) (fun hf e he => hf.2 _ ?_) hs)
      on_goal 2 =>
        rcases List.mem_cons.1 he with rfl | he
        · exact List.mem_cons_self
        · exact List.mem_cons_of_mem _ (List.dropLast_subset _ he)
      simp

theorem Whole.recipesRestart (hs : P s) : P (recipesRestart s) := h.announceRecipe (h.restart _ hs)

/-! ## Setup -/

theorem Whole.setupEffects {g : Nat} {ns : List Nat} {b : Setup} (hs : P s) : P (setupEffects g ns b s) := by
  unfold Machine.setupEffects
  split
  · split
    · exact h.pcu s { s.pcu with remainder := 0 } rfl rfl hs
    · exact hs
  · have key : ∀ {x : State}, P x → P (if ns.contains 0 then Machine.evaluateFlow x else x) := by
      intro x hx
      split
      · exact h.noticed.evaluateFlow hx
      · exact hx
    refine key ?_
    split
    · exact h.water.kw _ hs
    · exact hs
  · exact foldl_keeps (fun x r hx => h.roleWritten hx) _ hs
  · split
    · exact hs
    · exact h.substituteChanged hs
  · have key : ∀ {x : State}, P x → P (if ns.any fun n => decide (8 ≤ n) then Machine.spacingWritten x else x) := by
      intro x hx
      split
      · exact h.spacingWritten hx
      · exact hx
    refine key ?_
    split
    · exact h.arms.demand _ hs
    · exact hs
  · exact hs

theorem Whole.takeSetupWrite {g : Nat} {ps : List (Byte × Int)} (hs : P s) : P (takeSetupWrite g ps s).1 := by
  unfold Machine.takeSetupWrite
  split
  · exact hs
  · split
    · exact hs
    · next hk =>
      refine h.setupEffects (h.setup _ _ _ (fun p hp => ?_) hs)
      simp only [List.any_eq_true, not_exists, not_and, Option.isNone_iff_eq_none] at hk
      exact Option.isSome_iff_ne_none.mpr (hk p hp)

/-! ## Pulses -/

theorem Whole.pulseEdge {ch : PulseChannel} {a b : Bool} (hs : P s) : P (pulseEdge ch a b s) := by
  unfold Machine.pulseEdge
  split
  · exact hs
  · refine h.pcu _ _ ?_ ?_ hs <;> cases ch <;> cases a <;> rfl

theorem Whole.brushGateOver (hs : P s) : P (brushGateOver s) := by
  unfold Machine.brushGateOver
  exact forUnits_keeps (f := Machine.armBrushSample) (fun _ _ hx => h.arms.brushSample _ _ hx)
    (forUnits_keeps (f := Machine.brushSample) (fun _ _ hx => h.brushSample hx) (h.pcu s _ (by rfl) (by rfl) hs))

/-! ## Resets, waking, STANDBY, RESTART -/

theorem Whole.sprayStandby (hs : P s) : P (sprayStandby s) := h.water.standby s hs
theorem Whole.sprayRestart (hs : P s) : P (sprayRestart s) := h.water.restart s hs

theorem Whole.enterStandby (hs : P s) : P (enterStandby s) :=
  h.sensorsStandby (h.arbiterStandby (h.sprayStandby (h.resting s hs)))

theorem Whole.wake (hm : s.mc.mode = .standby) (hs : P s) : P (wake s) :=
  h.told.tankTest (h.noticed.formWanted (h.told.loopTest (h.told.oilTest (h.sensorsWake
    (h.arbiterWake (h.waking s hm hs))))))

theorem Whole.hardwareReset (hs : P s) : P (hardwareReset s) := by
  unfold Machine.hardwareReset
  split
  · exact h.wake rfl (h.reset _ hs)
  · exact h.reset _ hs

theorem Whole.wakeLineActive (hs : P s) : P (wakeLineActive s) := by
  unfold Machine.wakeLineActive
  dsimp only
  split
  · exact hs
  · split
    · next hm => exact h.wake hm (h.pins _ _ hs)
    · exact h.pins _ _ hs

theorem Whole.takeSetMode {m : Nat} (hs : P s) : P (takeSetMode m s).1 := by
  have park : ∀ m : Mode, m.travels = true → P (leavePark m s).1 := by
    intro m hm
    unfold leavePark answer
    split
    · exact hs
    · split
      · exact hs
      · exact h.enterTravel hm hs
  unfold Machine.takeSetMode answer
  split
  all_goals
    try dsimp only
    with_reducible first
      | exact hs
      | exact h.enterStandby hs
      | exact h.enterTravel (by first | decide | (split <;> decide)) hs
      | exact park _ (by decide)

theorem Whole.restartClear (hs : P s) : P (restartClear s) :=
  h.cond _ _ (h.link s { s.link with reports := [], lost := false }
    ⟨Or.inr (Nat.le_refl _), Nat.zero_le _, Or.inr rfl⟩ hs)

theorem Whole.performRestart (hs : P s) : P (performRestart s) := by
  have h2 := h.arbiterRestart (h.sprayRestart (h.restarting _ (h.restartClear hs)))
  exact h.told.tankTest (h.told.loopTest (h.told.oilTest (h.sensorsRestart (h.recipesRestart h2))))

theorem Whole.takeRestart (hs : P s) : P (takeRestart s).1 := by
  unfold Machine.takeRestart answer
  split <;> dsimp only
  · exact h.performRestart hs
  · exact hs

theorem Whole.requestArrived {k t : Byte} {b : List Byte} (hs : P s) : P (requestArrived k t b s) := by
  have hp : P { s with link := s.link.place k t b } := h.link _ _ (place_linkStep _ _ _ _) hs
  unfold Machine.requestArrived
  dsimp only
  split
  · next hm => exact h.wake hm hp
  · exact hp

theorem Whole.frameArrived {k t : Byte} {b : List Byte} {c : Word16} (hs : P s) : P (frameArrived k t b c s) := by
  unfold Machine.frameArrived
  split
  · exact h.link s (discardFrame s.link)
      ⟨Or.inr (Nat.le_refl _), Nat.le_refl _, Or.inl (Nat.min_le_left _ _)⟩ hs
  · exact h.requestArrived hs

/-! ## Taking a request -/

theorem Whole.judge {act : State → State × List Byte} (hact : P (act s).1) : P (judge act s) :=
  h.link _ _ ⟨Or.inr (Nat.le_of_eq (attachReply_length _ _)), Nat.le_refl _, Or.inr rfl⟩ hact

/-- A taken request keeps what its action keeps. -/
theorem Whole.takeRequest {k t : Byte} {b : List Byte} {act : State → State × List Byte}
    (hact : ∀ x, P x → P (act x).1) (hs : P s) : P (takeRequest k t b act s) := by
  unfold Machine.takeRequest
  dsimp only
  split
  · exact h.judge (hact _ hs)
  · split
    · exact h.judge (hact _ (h.requestArrived hs))
    · exact h.requestArrived hs

theorem Whole.takeStatus (hs : P s) : P (takeStatus s).1 :=
  h.link s { s.link with lost := false } ⟨Or.inr (Nat.le_refl _), Nat.le_refl _, Or.inr rfl⟩ hs

/-! ## All commands -/

theorem Whole.finish (hs : P s) : ∃ t, finish s = .next t ∧ P t := ⟨_, rfl, h.link _ _ (transmit_linkStep _) hs⟩

/-- A request's action, whatever its body, keeps what its judged form keeps. -/
theorem Whole.request {k t : Byte} {b : List Byte} {act : State → State × List Byte}
    (hact : ∀ x, P x → P (act x).1) (hs : P s) : ∃ t', Machine.finish (Machine.takeRequest k t b act s) = .next t' ∧ P t' :=
  h.finish (h.takeRequest hact hs)

theorem Whole.expiry {x : Timer} {f : State → State} (hf : ∀ x, P x → P (f x)) (hs : P s) :
    ∃ t, Machine.finish (onExpiry x f s) = .next t ∧ P t := h.finish (onExpiry_keeps h.clock hf hs)

/-- Every command answers a next state, and keeps a property that every elementary update keeps. -/
theorem Whole.exec (c : Instr) (hs : P s) : ∃ t, exec c s = .next t ∧ P t := by
  cases c
  case hardwareReset => exact h.finish (h.hardwareReset hs)
  case wakeActive => exact h.finish (h.wakeLineActive hs)
  case settleTimerExpiry => exact h.expiry (fun _ hx => h.enterPark hx) hs
  case parkStopTimerExpiry => exact h.expiry (fun _ hx => h.enterPark hx) hs
  case pulseEdge => exact h.finish (h.pulseEdge hs)
  case wheelGateClose => exact h.expiry (fun _ hx => h.gate _ hx) hs
  case brushGateClose => exact h.expiry (fun _ hx => h.brushGateOver hx) hs
  case requestTimerExpiry => exact h.expiry (fun _ hx => h.requestExpired hx) hs
  case drivePeriodExpiry => exact h.expiry (fun _ hx => h.drivePeriod _ hx) hs
  case dwellTimerExpiry =>
    refine h.finish ?_
    split
    · exact hs
    · exact h.drive _ _ ⟨rfl, rfl, rfl, rfl, rfl, rfl, rfl, rfl, rfl⟩ (h.clock _ _ (Nat.le_max_left _ _) hs)
  case brushRampTimerExpiry => exact h.expiry (fun _ hx => h.noticed.rampExpired hx) hs
  case stallTimerExpiry => exact h.expiry (fun _ hx => h.stallTimerExpired hx) hs
  case lagTimerExpiry => exact h.expiry (fun _ hx => h.lagTimerExpired hx) hs
  case endSwitchChange => exact h.finish (h.endSwitchChanged hs)
  case spacingTimerExpiry => exact h.expiry (fun _ hx => h.arms.startTest _ (h.arms.spacing _ _ hx)) hs
  case cylinderTimeoutExpiry =>
    refine h.finish ?_
    split
    · exact hs
    · exact h.arms.timedOut _ _ (h.clock _ _ (Nat.le_max_left _ _) hs)
  case spinDownTimerExpiry => exact h.expiry (fun _ hx => h.arms.spinDown _ _ hx) hs
  case releaseTimerExpiry => exact h.expiry (fun _ hx => h.told.releaseExpired hx) hs
  case waterRampTimerExpiry => exact h.expiry (fun _ hx => h.water.ramp _ hx) hs
  case valveLeadTimerExpiry => exact h.expiry (fun _ hx => h.water.lead _ hx) hs
  case valveLagTimerExpiry =>
    refine h.finish ?_
    unfold onExpiry
    split
    · exact hs
    · next e => exact h.water.lag _ (by simp [State.atTime, e]) (h.clock _ _ (Nat.le_max_left _ _) hs)
  case supplyHoldTimerExpiry => exact h.expiry (fun _ hx => h.supplyHoldOver hx) hs
  case arbiterPeriodExpiry => exact h.expiry (fun _ hx => h.arbiterPeriodOver hx) hs
  case roundPeriodTimerExpiry => exact h.expiry (fun _ hx => h.roundPeriodOver hx) hs
  case masterFrameSent => exact h.finish (h.frameSent hs)
  case sensorReplyComplete => exact h.finish (h.replyReceived hs)
  case replyWindowClose => exact h.finish (h.windowClosed hs)
  case turnaroundExpiry =>
    refine h.finish ?_
    split
    · exact h.turnaroundOver (h.clock _ _ (Nat.le_max_left _ _) hs)
    · exact hs
  case frameReceived => exact h.finish (h.frameArrived hs)
  case interByteGapTimeout =>
    refine h.finish (h.link _ _ ⟨Or.inr (Nat.le_refl _), Nat.le_refl _, Or.inl (Nat.min_le_left _ _)⟩ hs)
  case frameTransmitEnd => exact h.finish (h.link _ _ (endFrame_linkStep _) hs)
  case unknownKind =>
    refine h.finish ?_
    split
    · exact hs
    · exact h.takeRequest (fun _ hx => hx) hs
  case status =>
    refine h.request (fun x hx => ?_) hs
    split
    · exact h.takeStatus hx
    · exact hx
  case setMode =>
    refine h.request (fun x hx => ?_) hs
    split
    · exact guarded_keeps (notInStandby_keeps (h.takeSetMode hx) hx) hx
    · exact guarded_keeps hx hx
  case travel =>
    refine h.request (fun x hx => ?_) hs
    split
    · exact guarded_keeps (notInStandby_keeps (h.takeTravel hx) hx) hx
    · exact guarded_keeps hx hx
  case supply =>
    refine h.request (fun x hx => ?_) hs
    split
    · exact guarded_keeps (notInStandby_keeps (h.takeSupply hx) hx) hx
    · exact guarded_keeps hx hx
  case setupWrite =>
    refine h.request (fun x hx => ?_) hs
    split
    · split
      · exact guarded_keeps (h.takeSetupWrite hx) hx
      · exact guarded_keeps hx hx
    · exact guarded_keeps hx hx
  case setupRead =>
    refine h.request (fun x hx => ?_) hs
    split
    · refine guarded_keeps ?_ hx
      unfold takeSetupRead
      split <;> exact hx
    · exact guarded_keeps hx hx
  case recipeWrite =>
    refine h.request (fun x hx => ?_) hs
    split
    · split
      · exact guarded_keeps (h.takeRecipeWrite hx) hx
      · exact guarded_keeps hx hx
    · exact guarded_keeps hx hx
  case recipeRead =>
    refine h.request (fun x hx => ?_) hs
    split
    · exact guarded_keeps (h.takeRecipeRead hx) hx
    · exact guarded_keeps hx hx
  case recipeCopy =>
    refine h.request (fun x hx => ?_) hs
    split
    · exact guarded_keeps (h.takeRecipeCopy hx) hx
    · exact guarded_keeps hx hx
  case recipeErase =>
    refine h.request (fun x hx => ?_) hs
    split
    · exact guarded_keeps (h.takeRecipeErase hx) hx
    · exact guarded_keeps hx hx
  case refresh =>
    refine h.request (fun x hx => ?_) hs
    split
    · exact guarded_keeps (h.takeRefresh hx) hx
    · exact guarded_keeps hx hx
  case paceWrite =>
    refine h.request (fun x hx => ?_) hs
    split
    · exact guarded_keeps (h.takePaceWrite hx) hx
    · exact guarded_keeps hx hx
  case paceRead =>
    refine h.request (fun x hx => ?_) hs
    split
    · refine guarded_keeps ?_ hx
      unfold takePaceRead
      split <;> exact hx
    · exact guarded_keeps hx hx
  case zoneAdd =>
    refine h.request (fun x hx => ?_) hs
    split
    · exact guarded_keeps (h.zoneAdd _ _ _ _ hx) hx
    · exact guarded_keeps hx hx
  case zoneClear => exact h.request (fun x hx => guarded_keeps (h.zoneClear _ hx) hx) hs
  case zoneList => exact h.request (fun x hx => guarded_keeps hx hx) hs
  case push =>
    refine h.request (fun x hx => ?_) hs
    split
    · exact guarded_keeps (h.takePush hx) hx
    · exact guarded_keeps hx hx
  case pop => exact h.request (fun x hx => guarded_keeps (h.takePop hx) hx) hs
  case setLift => exact h.request (fun x hx => h.judgeUnit hx) hs
  case releaseLift => exact h.request (fun x hx => h.judgeUnit hx) hs
  case releaseSensed => exact h.request (fun x hx => h.judgeUnit hx) hs
  case releaseKnock => exact h.request (fun x hx => h.judgeUnit hx) hs
  case spray =>
    refine h.request (fun x hx => ?_) hs
    split
    · exact guarded_keeps (h.water.enable _ _ hx) hx
    · exact guarded_keeps hx hx
  case clear =>
    refine h.request (fun x hx => ?_) hs
    split
    · exact guarded_keeps (h.told.takeClear hx) hx
    · exact guarded_keeps hx hx
  case setOdometer =>
    refine h.request (fun x hx => ?_) hs
    split
    · exact guarded_keeps (notInStandby_keeps (h.setOdometer _ _ hx) hx) hx
    · exact guarded_keeps hx hx
  case sensorRead =>
    refine h.request (fun x hx => ?_) hs
    split
    · exact guarded_keeps (takeSensorRead_keeps hx) hx
    · exact guarded_keeps hx hx
  case restart => exact h.request (fun x hx => guarded_keeps (notInStandby_keeps (h.takeRestart hx) hx) hx) hs
  case wakeInactive => exact h.finish (h.pins _ _ hs)
  case lenAbove56Discard =>
    refine h.finish ?_
    unfold lenArrived
    split
    · exact h.link s (discardFrame s.link)
        ⟨Or.inr (Nat.le_refl _), Nat.le_refl _, Or.inl (Nat.min_le_left _ _)⟩ hs
    · exact hs

/-- Every step answers a next state, and keeps such a property, given that taking a command from the queue keeps it. -/
theorem Whole.step (hq : ∀ s q, P s → P { s with pending := q }) (hs : P s) : ∃ t, step s = .next t ∧ P t := by
  unfold Machine.step
  split
  · exact ⟨_, rfl, h.clock _ _ (Nat.le_add_right _ _) hs⟩
  · exact h.exec _ (hq _ _ hs)

end

end Sys2Proof.Machine
end

