-- ==== Sys2Proof/Laws/Arms.lean ====
section
/-! SUPPORT. What the operations of the Arm Sequencer keep of the law of the arms (`ArmsOk`). Between the parts of one
operation a unit may have lost its spin before its activity follows; `ArmsBut` is the law with such units left out. -/

namespace Sys2Proof.Machine

/-! ## The law with some units left out of its second clause -/

/-- An activity that is a spin action. -/
def Activity.spins (a : Activity) : Prop := a = .spinningUp ∨ a = .spinningDown

/-- The law of the arms, but that the units of `e` may be in a spin action with their spin OFF. -/
structure ArmsBut (e : BrushUnit → Prop) (s : State) : Prop where
  posture : ∀ u, (s.armOf u).spin ≠ .off → (s.armOf u).height = .down
  spins : ∀ u, ¬ e u → (s.armOf u).activity.spins → (s.armOf u).spin ≠ .off
  holds : ∀ u, (s.armOf u).holds.Nodup
  broom : ∀ h ∈ (s.armOf .m).holds, h = .lift ∨ h = .stall
  goal : ∀ u, (s.armOf u).goal = goalOf u (s.armOf u).baseWorking (s.armOf u).holds
  single : (s.arms.queue.map QueueEntry.unit).Nodup
  waiting : ∀ x ∈ s.arms.queue, (s.armOf x.unit).activity = .waiting
  rest : s.mc.mode.plans = false → s.arms.queue = [] ∧ s.arms.action = none ∧
    ∀ u, (s.armOf u).activity = .idle ∨ (s.armOf u).activity = .fault

/-- No unit is left out. -/
abbrev nobody : BrushUnit → Prop := fun _ => False

/-- One unit is left out. -/
abbrev only (u : BrushUnit) : BrushUnit → Prop := fun v => v = u

theorem plans_false (m : Mode) : m.plans = false ↔ m = .standby ∨ m = .settle := by cases m <;> simp [Mode.plans]

/-- Three units give a list of different units at most three places. -/
theorem units_length {l : List BrushUnit} (h : l.Nodup) : l.length ≤ 3 :=
  (h.subperm (l₂ := [.l, .r, .m]) (fun u _ => by cases u <;> simp)).length_le

theorem armsOk_iff {s : State} : ArmsOk s ↔ ArmsBut nobody s := by
  constructor
  · exact fun h => ⟨h.posture, fun u _ => h.spins u, h.holds, h.broom, h.goal, h.single, h.waiting,
      fun hp => h.rest ((plans_false _).1 hp)⟩
  · exact fun h => ⟨h.posture, fun u => h.spins u id, h.holds, h.broom, h.goal, h.single,
      by simpa using units_length h.single, h.waiting, fun hp => h.rest ((plans_false _).2 hp)⟩

/-- The law reads the arms, and of the mode whether the planner runs: nothing is asked where it runs. -/
theorem armsOk_same {s x : State} (h : ArmsOk s) (ha : x.arms = s.arms)
    (hm : x.mc.mode.plans = true ∨ x.mc.mode.plans = s.mc.mode.plans) : ArmsOk x := by
  have h := armsOk_iff.1 h
  have hu : ∀ u, x.armOf u = s.armOf u := fun u => by simp [State.armOf, ha]
  refine armsOk_iff.2 ⟨by simpa [hu] using h.posture, by simpa [hu] using h.spins, by simpa [hu] using h.holds,
    by simpa [hu] using h.broom, by simpa [hu] using h.goal, by simpa [ha] using h.single,
    by simpa [hu, ha] using h.waiting, fun hp => ?_⟩
  rcases hm with e | e
  · rw [hp] at e; cases e
  · simpa [hu, ha] using h.rest (e ▸ hp)

/-! ## What a notice leaves of the arms -/

/-- The arms are the same, and the planner runs or rests as before. -/
def SameArms (b x : State) : Prop := x.arms = b.arms ∧ x.mc.mode.plans = b.mc.mode.plans

@[simp] theorem changeRecord_arms (k : CondKind) (v : CondState) (s : State) : (changeRecord k v s).arms = s.arms := by
  unfold changeRecord; dsimp only; split <;> rfl

@[simp] theorem changeRecord_mc (k : CondKind) (v : CondState) (s : State) : (changeRecord k v s).mc = s.mc := by
  unfold changeRecord; dsimp only; split <;> rfl

@[simp] theorem clearOverspeed_arms (s : State) : (clearOverspeed s).arms = s.arms := by
  unfold clearOverspeed; split <;> first | rfl | exact changeRecord_arms _ _ _

@[simp] theorem clearOverspeed_mc (s : State) : (clearOverspeed s).mc = s.mc := by
  unfold clearOverspeed; split <;> first | rfl | exact changeRecord_mc _ _ _

/-- The notices of a posture leave the arms as they are. -/
theorem sameArms_noticed (b : State) : Noticed (SameArms b) where
  water := wet_of_spray fun _ _ h => h
  brush := fun _ _ _ h => h
  record := fun s k v _ h => by simpa [SameArms] using h
  travel := by
    intro s m hm hv h
    have h1 : (driveEnterTravel (modeReport (takeMode m s))).arms = s.arms := by
      unfold driveEnterTravel; dsimp only; split <;> first | rfl | exact clearOverspeed_arms _
    have h2 : (driveEnterTravel (modeReport (takeMode m s))).mc.mode = m := by
      unfold driveEnterTravel; dsimp only; split <;> first | rfl | rw [clearOverspeed_mc]; rfl
    refine ⟨h1.trans h.1, ?_⟩
    rw [h2, ← h.2]
    revert hm hv
    cases m <;> cases s.mc.mode <;> simp [Mode.travels, Mode.moves, Mode.plans]

theorem SameArms.refl (b : State) : SameArms b b := ⟨rfl, rfl⟩

section
variable {e : BrushUnit → Prop} {s : State}

theorem ArmsBut.same {x : State} (h : ArmsBut e s) (hx : SameArms s x) : ArmsBut e x := by
  obtain ⟨ha, hp⟩ := hx
  obtain ⟨h1, h2, h3, h4, h5, h6, h7, h8⟩ := h
  have hu : ∀ u, x.armOf u = s.armOf u := fun u => by simp [State.armOf, ha]
  exact ⟨by simpa [hu] using h1, by simpa [hu] using h2, by simpa [hu] using h3, by simpa [hu] using h4,
    by simpa [hu] using h5, by simpa [ha] using h6, by simpa [hu, ha] using h7, by simpa [hu, ha, hp] using h8⟩

theorem ArmsBut.mono {d : BrushUnit → Prop} (h : ArmsBut e s) (hd : ∀ u, e u → d u) : ArmsBut d s :=
  { h with spins := fun u hu => h.spins u fun he => hu (hd u he) }

/-- A unit whose activity and spin agree need not be left out. -/
theorem ArmsBut.back {u : BrushUnit} (h : ArmsBut (only u) s)
    (hu : (s.armOf u).activity.spins → (s.armOf u).spin ≠ .off) : ArmsBut nobody s :=
  { h with
    spins := fun v _ ha => by
      by_cases hv : v = u
      · subst hv; exact hu ha
      · exact h.spins v hv ha }

/-! ## One unit's record, the queue, the action -/

/-- A unit takes a record that obeys the law. -/
theorem ArmsBut.putArm {u : BrushUnit} {a : ArmUnit} (h : ArmsBut e s) (posture : a.spin ≠ .off → a.height = .down)
    (spins : ¬ e u → a.activity.spins → a.spin ≠ .off) (holds : a.holds.Nodup)
    (broom : u = .m → ∀ x ∈ a.holds, x = .lift ∨ x = .stall) (goal : a.goal = goalOf u a.baseWorking a.holds)
    (waiting : (∃ x ∈ s.arms.queue, x.unit = u) → a.activity = .waiting)
    (rest : s.mc.mode.plans = false → a.activity = .idle ∨ a.activity = .fault) : ArmsBut e (s.putArm u a) := by
  have key : ∀ {p : BrushUnit → ArmUnit → Prop}, p u a → (∀ v, p v (s.armOf v)) → ∀ v, p v ((s.putArm u a).armOf v) := by
    intro p hu hv v
    by_cases e : v = u
    · subst e; rw [State.armOf_putArm]; exact hu
    · rw [State.armOf_putArm_other _ _ e]; exact hv v
  refine ⟨key (p := fun _ x => x.spin ≠ .off → x.height = .down) posture h.posture,
    key (p := fun v x => ¬ e v → x.activity.spins → x.spin ≠ .off) spins h.spins,
    key (p := fun _ x => x.holds.Nodup) holds h.holds, ?_,
    key (p := fun v x => x.goal = goalOf v x.baseWorking x.holds) goal h.goal, h.single, ?_, ?_⟩
  · exact key (p := fun v x => v = .m → ∀ y ∈ x.holds, y = .lift ∨ y = .stall) broom
      (fun v hv => by subst hv; exact h.broom) .m rfl
  · intro x hx
    by_cases hu : x.unit = u
    · rw [hu, State.armOf_putArm]; exact waiting ⟨x, hx, hu⟩
    · rw [State.armOf_putArm_other _ _ hu]; exact h.waiting x hx
  · intro hp
    have hr := h.rest hp
    exact ⟨hr.1, hr.2.1, key (p := fun _ x => x.activity = .idle ∨ x.activity = .fault) (rest hp) hr.2.2⟩

/-- The parts of the arms that the law does not read. -/
theorem ArmsBut.other {x : State} (h : ArmsBut e s) (hu : x.arms.units = s.arms.units) (hq : x.arms.queue = s.arms.queue)
    (ha : s.arms.action = none → x.arms.action = none) (hm : x.mc.mode.plans = s.mc.mode.plans) : ArmsBut e x := by
  obtain ⟨h1, h2, h3, h4, h5, h6, h7, h8⟩ := h
  have hu : ∀ u, x.armOf u = s.armOf u := fun u => by simp [State.armOf, hu]
  exact ⟨by simpa [hu] using h1, by simpa [hu] using h2, by simpa [hu] using h3, by simpa [hu] using h4,
    by simpa [hu] using h5, by simpa [hq] using h6, by simpa [hu, hq] using h7, fun hp => by
      have := h8 (hm ▸ hp)
      exact ⟨by rw [hq]; exact this.1, ha this.2.1, by simpa [hu] using this.2.2⟩⟩

/-- A queue whose entries are entries of the old one, in their order. -/
theorem ArmsBut.shorter {q : List QueueEntry} (h : ArmsBut e s) (hq : q.Sublist s.arms.queue) :
    ArmsBut e { s with arms := { s.arms with queue := q } } :=
  ⟨h.posture, h.spins, h.holds, h.broom, h.goal, h.single.sublist (hq.map _), fun x hx => h.waiting x (hq.subset hx),
    fun hp => ⟨by have := (h.rest hp).1; rw [this] at hq; exact List.sublist_nil.1 hq, (h.rest hp).2⟩⟩

theorem ArmsBut.dropEntry {u : BrushUnit} (h : ArmsBut e s) : ArmsBut e (dropEntry u s) :=
  h.shorter List.filter_sublist

theorem dropEntry_gone (u : BrushUnit) (s : State) : ¬ ∃ x ∈ (Machine.dropEntry u s).arms.queue, x.unit = u := by
  rintro ⟨x, hx, rfl⟩
  simp [Machine.dropEntry] at hx

theorem ArmsBut.postArmsDemand (h : ArmsBut e s) : ArmsBut e (postArmsDemand s) := by
  unfold Machine.postArmsDemand
  generalize (if (s.arms.queue.isEmpty && s.arms.action.isNone) = true then 0 else s.setup.armReserve) = d
  dsimp only
  split
  · exact h
  · exact h.other rfl rfl id rfl

theorem ArmsBut.endAction (h : ArmsBut e s) : ArmsBut e (endAction s) := by
  unfold Machine.endAction
  split
  · exact h
  · exact h.other rfl rfl (fun _ => rfl) rfl

theorem ArmsBut.unitReport {u : BrushUnit} {c : UnitCause} (h : ArmsBut e s) : ArmsBut e (unitReport u c s) :=
  h.same ⟨rfl, rfl⟩

theorem ArmsBut.notice {k : CondKind} {p : Bool} (h : ArmsBut e s) : ArmsBut e (notice k p s) :=
  h.same ⟨by simp [Machine.notice], by simp [Machine.notice]⟩

/-- A unit takes an activity that its entry and the mode allow. -/
theorem ArmsBut.setActivity {u : BrushUnit} {a : Activity} (h : ArmsBut e s)
    (spins : ¬ e u → a.spins → (s.armOf u).spin ≠ .off)
    (waiting : (∃ x ∈ s.arms.queue, x.unit = u) → a = .waiting)
    (rest : s.mc.mode.plans = false → a = .idle ∨ a = .fault) : ArmsBut e (setActivity u a s) :=
  h.putArm (h.posture u) spins (h.holds u) (fun hu => by subst hu; exact h.broom) (h.goal u) waiting rest

/-! ## Postures -/

theorem putArm_self (s : State) (u : BrushUnit) : s.putArm u (s.armOf u) = s := by simp [State.putArm, State.armOf]

/-- What a change of spin does to the arms: it writes the spin. -/
theorem setSpin_same (u : BrushUnit) (sp : Spin) (s : State) :
    SameArms (s.putArm u { s.armOf u with spin := sp }) (setSpin u sp s) := by
  unfold setSpin
  split
  · next hs => subst hs; exact ⟨congrArg State.arms (putArm_self s u).symm, rfl⟩
  · exact (sameArms_noticed _).postureNotice ((sameArms_noticed _).spinNotice (SameArms.refl _))

theorem setReach_same (u : BrushUnit) (r : Reach) (s : State) :
    SameArms (s.putArm u { s.armOf u with reach := r }) (setReach u r s) := by
  unfold setReach
  split
  · next hs => subst hs; exact ⟨congrArg State.arms (putArm_self s u).symm, rfl⟩
  · exact (sameArms_noticed _).postureNotice (SameArms.refl _)

/-- What a change of height does to the arms: it writes the height, and takes spin to OFF when it leaves DOWN. -/
theorem setHeight_same (u : BrushUnit) (x : Height) (s : State) :
    SameArms (s.putArm u { s.armOf u with
      height := x
      spin := if x ≠ (s.armOf u).height ∧ (s.armOf u).height = .down then .off else (s.armOf u).spin })
      (setHeight u x s) := by
  unfold setHeight
  by_cases hs : x = (s.armOf u).height
  · subst hs
    simp only [ne_eq, not_true_eq_false, false_and, if_false, if_true]
    exact ⟨congrArg State.arms (putArm_self s u).symm, rfl⟩
  · simp only [ne_eq, hs, not_false_eq_true, true_and, if_false]
    generalize s.putArm u _ = b
    have n := sameArms_noticed b
    have key : ∀ c : Prop, [Decidable c] → SameArms b (if c then spinNotice u .off b else b) := by
      intro c _
      split
      · exact n.spinNotice (SameArms.refl b)
      · exact SameArms.refl b
    refine n.postureNotice ?_
    generalize (s.armOf u).height = y
    by_cases hy : y = .down ∨ x = .down
    · rw [if_pos hy]; exact n.heightNotice (key _)
    · rw [if_neg hy]; exact key _

/-- A spin of a unit, given that the unit is DOWN and, for OFF, in no spin action. -/
theorem ArmsBut.setSpin {u : BrushUnit} {sp : Spin} (h : ArmsBut e s) (hd : sp ≠ .off → (s.armOf u).height = .down)
    (ho : ¬ e u → (s.armOf u).activity.spins → sp ≠ .off) : ArmsBut e (setSpin u sp s) :=
  (h.putArm (u := u) (a := { s.armOf u with spin := sp }) hd ho (h.holds u) (fun hu => by subst hu; exact h.broom)
    (h.goal u) (fun ⟨x, hx, hu⟩ => hu ▸ h.waiting x hx) (fun hp => (h.rest hp).2.2 u)).same (setSpin_same _ _ _)

theorem ArmsBut.setReach {u : BrushUnit} {r : Reach} (h : ArmsBut e s) : ArmsBut e (setReach u r s) :=
  (h.putArm (u := u) (a := { s.armOf u with reach := r }) (h.posture u) (h.spins u) (h.holds u)
    (fun hu => by subst hu; exact h.broom) (h.goal u) (fun ⟨x, hx, hu⟩ => hu ▸ h.waiting x hx)
    (fun hp => (h.rest hp).2.2 u)).same (setReach_same _ _ _)

/-- A height may take the unit's spin to OFF before its activity follows. -/
theorem ArmsBut.setHeight {u : BrushUnit} {x : Height} (h : ArmsBut e s) (he : e u ∨ ¬ (s.armOf u).activity.spins) :
    ArmsBut e (setHeight u x s) := by
  refine (h.putArm (u := u) (a := { s.armOf u with
      height := x
      spin := if x ≠ (s.armOf u).height ∧ (s.armOf u).height = .down then .off else (s.armOf u).spin })
    ?_ (fun hu ha => ?_) (h.holds u)
    (fun hu => by subst hu; exact h.broom) (h.goal u) (fun ⟨y, hy, hu⟩ => hu ▸ h.waiting y hy)
    (fun hp => (h.rest hp).2.2 u)).same (setHeight_same _ _ _)
  · intro hs
    dsimp only at hs ⊢
    split at hs
    · exact absurd rfl hs
    · next hn =>
      have hd := h.posture u hs
      by_contra hc
      exact hn ⟨fun e => hc (e.trans hd), hd⟩
  · exact absurd ha (he.resolve_left hu)

theorem setSpin_armOf (u : BrushUnit) (sp : Spin) (s : State) :
    (Machine.setSpin u sp s).armOf u = { s.armOf u with spin := sp } := by
  have := (setSpin_same u sp s).1
  simp [State.armOf, this, State.putArm]

theorem setSpin_queue (u : BrushUnit) (sp : Spin) (s : State) : (Machine.setSpin u sp s).arms.queue = s.arms.queue := by
  rw [(setSpin_same u sp s).1]; rfl

theorem setSpin_plans (u : BrushUnit) (sp : Spin) (s : State) : (Machine.setSpin u sp s).mc.mode.plans = s.mc.mode.plans :=
  (setSpin_same u sp s).2

/-! ## Spin actions and the planner -/

theorem only_of_nobody (h : ArmsBut nobody s) (u : BrushUnit) : ArmsBut (only u) s := h.mono fun _ => False.elim

/-- A unit that is not WAITING has no entry. -/
theorem ArmsBut.noEntry {u : BrushUnit} (h : ArmsBut e s) (hu : (s.armOf u).activity ≠ .waiting) :
    ¬ ∃ x ∈ s.arms.queue, x.unit = u := fun ⟨x, hx, hxu⟩ => hu (hxu ▸ h.waiting x hx)

/-- A SPIN_UP of a unit that is DOWN and has no entry. -/
theorem ArmsBut.startSpinUp {u : BrushUnit} (h : ArmsBut (only u) s) (hd : (s.armOf u).height = .down)
    (hq : ¬ ∃ x ∈ s.arms.queue, x.unit = u) (hp : s.mc.mode.plans = true) : ArmsBut nobody (startSpinUp u s) := by
  have h1 : ArmsBut (only u) (Machine.setActivity u .spinningUp s) :=
    h.setActivity (fun hn => absurd rfl hn) (fun hx => absurd hx hq) (fun hf => by rw [hp] at hf; cases hf)
  refine ArmsBut.back (u := u) (h1.setSpin (fun _ => ?_) (fun hn => absurd rfl hn)) (fun _ => ?_)
  · simp [Machine.setActivity, hd]
  · rw [Machine.startSpinUp, setSpin_armOf]; simp

/-- A SPIN_DOWN of a unit that is DOWN and has no entry. -/
theorem ArmsBut.startSpinDown {u : BrushUnit} (h : ArmsBut (only u) s) (hd : (s.armOf u).height = .down)
    (hq : ¬ ∃ x ∈ s.arms.queue, x.unit = u) (hp : s.mc.mode.plans = true) : ArmsBut nobody (startSpinDown u s) := by
  have h1 : ArmsBut (only u) (s.putArm u { s.armOf u with
      activity := .spinningDown, spinDownTimer := s.startMs s.setup.spinDownMs }) :=
    h.putArm (h.posture u) (fun hn => absurd rfl hn) (h.holds u) (fun hu => by subst hu; exact h.broom) (h.goal u)
      (fun hx => absurd hx hq) (fun hf => by rw [hp] at hf; cases hf)
  unfold Machine.startSpinDown
  refine ArmsBut.back (u := u) (h1.setSpin (fun _ => ?_) (fun hn => absurd rfl hn)) (fun _ => ?_)
  · simp [hd]
  · rw [setSpin_armOf]; simp

/-- A goal with the brush ON has the unit DOWN. -/
theorem goal_on_down {u : BrushUnit} {w : Bool} {l : List Hold} (h : (goalOf u w l).on = true) : (goalOf u w l).down = true := by
  simp only [goalOf, Bool.and_eq_true, Bool.not_eq_true', Bool.or_eq_false_iff] at h ⊢
  exact ⟨h.1, h.2.1⟩

/-- The planner chooses a spin action for a unit that is DOWN alone. -/
theorem ArmsBut.spin_down {u : BrushUnit} (h : ArmsBut e s)
    (ha : nextAction u (s.armOf u) = some .spinUp ∨ nextAction u (s.armOf u) = some .spinDown) :
    (s.armOf u).height = .down := by
  have hg : (s.armOf u).goal.on = true → (s.armOf u).goal.down = true := by rw [h.goal u]; exact goal_on_down
  have hs := h.posture u
  revert ha hg hs
  generalize s.armOf u = a
  intro ha hg hs
  unfold nextAction at ha
  by_cases c1 : a.spin = .on ∧ !a.goal.on
  · exact hs (by rw [c1.1]; decide)
  · rw [if_neg c1] at ha
    by_cases c2 : a.height ≠ .up ∧ !a.goal.down
    · rw [if_pos c2] at ha; simp at ha
    · rw [if_neg c2] at ha
      split at ha
      · simp at ha
      · split at ha
        · simp at ha
        · split at ha
          · simp at ha
          · next c5 =>
            split at ha
            · next c6 =>
              by_contra hc
              exact c5 ⟨hc, hg c6.2⟩
            · simp at ha

/-- An entry joins the queue for a WAITING unit that has none. -/
theorem ArmsBut.append {u : BrushUnit} {k : CylKind} (h : ArmsBut e s) (hq : ¬ ∃ x ∈ s.arms.queue, x.unit = u)
    (hw : (s.armOf u).activity = .waiting) (hp : s.mc.mode.plans = true) :
    ArmsBut e { s with arms := { s.arms with queue := s.arms.queue ++ [⟨u, k⟩] } } := by
  refine ⟨h.posture, h.spins, h.holds, h.broom, h.goal, ?_, fun x hx => ?_, fun hf => ?_⟩
  · dsimp only
    rw [List.map_append]
    refine h.single.append (List.nodup_singleton _) fun a ha hb => hq ?_
    obtain ⟨x, hx, rfl⟩ := List.mem_map.1 ha
    exact ⟨x, hx, List.mem_singleton.1 hb⟩
  · rcases List.mem_append.1 hx with hx | hx
    · exact h.waiting x hx
    · rw [List.mem_singleton.1 hx]; exact hw
  · change s.mc.mode.plans = false at hf
    rw [hp] at hf
    cases hf

/-- The planner's result acted on, where the planner runs. -/
theorem ArmsBut.planStep {u : BrushUnit} (h : ArmsBut (only u) s) (hp : s.mc.mode.plans = true) :
    ArmsBut nobody (planStep u s) := by
  have nf : ∀ {p : Prop}, s.mc.mode.plans = false → p := fun hf => by rw [hp] at hf; cases hf
  have hd := h.dropEntry (u := u)
  have hg := dropEntry_gone u s
  unfold Machine.planStep
  refine ArmsBut.postArmsDemand ?_
  split
  · have h1 : ArmsBut nobody (Machine.setActivity u .idle (Machine.dropEntry u s)) :=
      ArmsBut.back (u := u) (hd.setActivity (fun hn => absurd rfl hn) (fun hx => absurd hx hg) (fun _ => Or.inl rfl))
        (by simp [Machine.setActivity, Activity.spins])
    dsimp only
    split
    · exact h1
    · exact h1.unitReport
  · next ha => exact hd.startSpinUp (h.spin_down (Or.inl ha)) hg hp
  · next ha => exact hd.startSpinDown (h.spin_down (Or.inr ha)) hg hp
  · next k ha =>
    split
    · next hw =>
      refine ArmsBut.back (u := u) ⟨h.posture, h.spins, h.holds, h.broom, h.goal, ?_, ?_, nf⟩ (fun hs => ?_)
      · have : (s.arms.queue.map fun x => if x.unit = u then { x with kind := k } else x).map QueueEntry.unit =
            s.arms.queue.map QueueEntry.unit := by
          rw [List.map_map]
          refine List.map_congr_left fun x _ => ?_
          dsimp only [Function.comp]
          split <;> rfl
        dsimp only
        rw [this]
        exact h.single
      · intro x hx
        obtain ⟨y, hy, rfl⟩ := List.mem_map.1 hx
        have := h.waiting y hy
        split <;> exact this
      · change Activity.spins (s.armOf u).activity at hs
        rw [hw] at hs
        simp [Activity.spins] at hs
    · next hw =>
      have hq := h.noEntry hw
      have h1 : ArmsBut nobody (Machine.setActivity u .waiting s) :=
        ArmsBut.back (u := u) (h.setActivity (fun hn => absurd rfl hn) (fun _ => rfl) nf)
          (by simp [Machine.setActivity, Activity.spins])
      exact h1.append (u := u) (k := k) hq (by simp [Machine.setActivity]) hp

/-! ## The start test -/

theorem ArmsBut.setComponent {u : BrushUnit} {k : CylKind} (h : ArmsBut (only u) s) : ArmsBut (only u) (setComponent u k s) := by
  cases k
  · exact h.setReach
  · exact h.setReach
  · exact h.setHeight (Or.inl rfl)
  · exact h.setHeight (Or.inl rfl)

theorem setComponent_plans (u : BrushUnit) (k : CylKind) (s : State) :
    (Machine.setComponent u k s).mc.mode.plans = s.mc.mode.plans := by
  cases k
  · exact (setReach_same u _ s).2
  · exact (setReach_same u _ s).2
  · exact (setHeight_same u _ s).2
  · exact (setHeight_same u _ s).2

theorem endAction_plans (s : State) : (Machine.endAction s).mc.mode.plans = s.mc.mode.plans := by
  unfold Machine.endAction; split <;> rfl

theorem ArmsBut.completeAction {u : BrushUnit} {k : CylKind} (h : ArmsBut (only u) s) (hp : s.mc.mode.plans = true) :
    ArmsBut nobody (completeAction u k s) :=
  h.endAction.setComponent.planStep (by rw [setComponent_plans, endAction_plans]; exact hp)

/-- The head of the queue starts. -/
theorem ArmsBut.beginAction {x : QueueEntry} {rest : List QueueEntry} (h : ArmsBut e s) (hq : s.arms.queue = x :: rest) :
    ArmsBut e (beginAction x rest s) := by
  have hp : s.mc.mode.plans = false → False := fun hf => by have := (h.rest hf).1; rw [hq] at this; cases this
  have hn := h.single
  rw [hq, List.map_cons, List.nodup_cons] at hn
  have h1 : ArmsBut e { s with arms := { s.arms with
      queue := rest
      action := some ⟨x.unit, x.kind, s.after ((s.setup.cylTimeout x.kind).toNat * 1000)⟩
      spacingTimer := if rest.isEmpty then none else s.arms.spacingTimer } } :=
    ⟨h.posture, h.spins, h.holds, h.broom, h.goal, hn.2,
      fun y hy => h.waiting y (by rw [hq]; exact List.mem_cons_of_mem _ hy), fun hf => (hp hf).elim⟩
  refine h1.setActivity (fun _ hs => by simp [Activity.spins] at hs) (fun ⟨y, hy, hu⟩ => ?_) (fun hf => (hp hf).elim)
  exact absurd (List.mem_map.2 ⟨y, hy, hu⟩) hn.1

theorem ArmsBut.startTest (n : Nat) : ∀ {s : State}, ArmsBut nobody s → ArmsBut nobody (startTest n s) := by
  induction n with
  | zero => exact fun h => h
  | succ n ih =>
    intro s h
    unfold Machine.startTest
    split
    · exact h.other rfl rfl id rfl
    · next x rest hq =>
      split
      · exact h
      · split
        · exact h.other rfl rfl id rfl
        · dsimp only
          split
          · refine ih ((only_of_nobody (h.beginAction hq) x.unit).completeAction ?_)
            show s.mc.mode.plans = true
            by_contra hf
            have := (h.rest (Bool.eq_false_iff.2 hf)).1
            rw [hq] at this
            cases this
          · exact h.beginAction hq

theorem ArmsBut.runStartTest (h : ArmsBut nobody s) : ArmsBut nobody (runStartTest s) := h.startTest 8

/-- A planner run, where the planner runs for a unit that may have lost its spin. -/
theorem ArmsBut.runPlanner {u : BrushUnit} (h : ArmsBut (only u) s)
    (hr : s.mc.mode.plans = false → ArmsBut nobody s) : ArmsBut nobody (runPlanner u s) := by
  unfold Machine.runPlanner
  split
  · next hp => exact (h.planStep hp).runStartTest
  · next hp => exact hr (Bool.eq_false_iff.2 hp)

theorem ArmsBut.replan {u : BrushUnit} (h : ArmsBut nobody s) : ArmsBut nobody (replan u s) := by
  have ho := only_of_nobody h u
  unfold Machine.replan
  split
  · next hp =>
    split
    · exact ho.runPlanner fun _ => h
    · exact ho.runPlanner fun _ => h
    · next ha =>
      split
      · exact h
      · exact ho.startSpinDown (h.posture u (h.spins u id (Or.inl ha))) (h.noEntry (by rw [ha]; decide)) hp
    · exact h
  · exact h

/-! ## Goals and holds -/

/-- A goal formed for a state whose record, but for that goal, obeys the law. -/
theorem ArmsBut.formed {u : BrushUnit} (h : ArmsBut nobody (s.putArm u { s.armOf u with
    baseWorking := baseWorking s u, goal := goalOf u (baseWorking s u) (s.armOf u).holds })) :
    ArmsBut nobody (reformGoal u s) := by
  unfold Machine.reformGoal
  dsimp only
  split
  · exact h
  · exact h.replan

theorem ArmsBut.reformGoal {u : BrushUnit} (h : ArmsBut nobody s) : ArmsBut nobody (reformGoal u s) :=
  ArmsBut.formed (h.putArm (h.posture u) (h.spins u) (h.holds u) (fun hu => by subst hu; exact h.broom) rfl
    (fun ⟨x, hx, hu⟩ => hu ▸ h.waiting x hx) (fun hp => (h.rest hp).2.2 u))

/-- A unit's holds change, its UNIT report is posted, and its goal is formed again. -/
theorem ArmsBut.withHolds {u : BrushUnit} {c : UnitCause} {l : List Hold} (h : ArmsBut nobody s) (hl : l.Nodup)
    (hb : u = .m → ∀ x ∈ l, x = .lift ∨ x = .stall) :
    ArmsBut nobody (Machine.reformGoal u (Machine.unitReport u c (s.putArm u { s.armOf u with holds := l }))) := by
  have h1 := h.putArm (u := u) (a := { s.armOf u with
      holds := l, baseWorking := baseWorking s u, goal := goalOf u (baseWorking s u) l })
    (h.posture u) (h.spins u) hl hb rfl (fun ⟨x, hx, hu⟩ => hu ▸ h.waiting x hx) (fun hp => (h.rest hp).2.2 u)
  refine ArmsBut.formed (h1.same ⟨?_, rfl⟩)
  simp [State.putArm, State.armOf, Machine.unitReport, baseWorking]

theorem ArmsBut.takeHold {u : BrushUnit} {x : Hold} (h : ArmsBut nobody s) (hx : x.fits u) :
    ArmsBut nobody (takeHold u x s) := by
  unfold Machine.takeHold
  dsimp only
  split
  · exact h
  · next hn =>
    refine h.withHolds ((h.holds u).append (List.nodup_singleton _) fun a ha hb => hn ?_) fun hu y hy => ?_
    · rw [List.mem_singleton.1 hb] at ha; exact List.contains_iff_mem.2 ha
    · rcases List.mem_append.1 hy with hy | hy
      · subst hu; exact h.broom y hy
      · rw [List.mem_singleton.1 hy]; exact hx hu

theorem ArmsBut.releaseHold {u : BrushUnit} {x : Hold} (h : ArmsBut nobody s) : ArmsBut nobody (releaseHold u x s) := by
  unfold Machine.releaseHold
  dsimp only
  split
  · exact h.withHolds ((h.holds u).filter _) fun hu y hy => by
      subst hu; exact h.broom y (List.mem_of_mem_filter hy)
  · exact h

/-- A unit's timers are not in the law. -/
theorem ArmsBut.setTimers {u : BrushUnit} {a b : Timer} (h : ArmsBut e s) :
    ArmsBut e (s.putArm u { s.armOf u with spinDownTimer := a, releaseTimer := b }) :=
  h.putArm (h.posture u) (h.spins u) (h.holds u) (fun hu => by subst hu; exact h.broom) (h.goal u)
    (fun ⟨x, hx, hu⟩ => hu ▸ h.waiting x hx) (fun hp => (h.rest hp).2.2 u)

theorem ArmsBut.setReleaseTimer {u : BrushUnit} {t : Timer} (h : ArmsBut e s) : ArmsBut e (setReleaseTimer u t s) :=
  h.setTimers

theorem ArmsBut.endSpinAction {u : BrushUnit} (h : ArmsBut e s) : ArmsBut e (endSpinAction u s) := h.setTimers

/-! ## Faults -/

theorem ArmsBut.enterFault {u : BrushUnit} (h : ArmsBut (only u) s) : ArmsBut nobody (enterFault u s) := by
  have h1 : ArmsBut (only u) (if ownsAction s u then Machine.endAction s else s) := by
    split
    · exact h.endAction
    · exact h
  unfold Machine.enterFault
  dsimp only
  generalize (if ownsAction s u then Machine.endAction s else s) = x at h1
  have h2 : ArmsBut (only u) (Machine.setSpin u .off (Machine.endSpinAction u (Machine.dropEntry u x))) :=
    h1.dropEntry.endSpinAction.setSpin (fun hn => absurd rfl hn) (fun hn => absurd rfl hn)
  have hq : ¬ ∃ y ∈ (Machine.setSpin u .off (Machine.endSpinAction u (Machine.dropEntry u x))).arms.queue, y.unit = u := by
    rw [setSpin_queue]; exact dropEntry_gone u x
  have h3 : ArmsBut nobody (Machine.setActivity u .fault
      (Machine.setSpin u .off (Machine.endSpinAction u (Machine.dropEntry u x)))) :=
    ArmsBut.back (u := u) (h2.setActivity (fun hn => absurd rfl hn) (fun hy => absurd hy hq) (fun _ => Or.inr rfl))
      (by simp [Machine.setActivity, Activity.spins])
  have h4 := h3.unitReport (u := u) (c := .fault)
  split <;> split <;>
    first
      | exact h3.postArmsDemand.runStartTest
      | exact h4.postArmsDemand.runStartTest
      | exact h3.postArmsDemand
      | exact h4.postArmsDemand

theorem ArmsBut.switchFault {u : BrushUnit} (h : ArmsBut (only u) s) : ArmsBut nobody (switchFault u s) :=
  h.notice.enterFault

theorem ArmsBut.readSwitches {u : BrushUnit} (h : ArmsBut (only u) s) : ArmsBut (only u) (readSwitches u s) :=
  h.setReach.setHeight (Or.inl rfl)

theorem setReach_armOf (u : BrushUnit) (r : Reach) (s : State) :
    (Machine.setReach u r s).armOf u = { s.armOf u with reach := r } := by
  have := (setReach_same u r s).1
  simp [State.armOf, this, State.putArm]

theorem setHeight_activity (u : BrushUnit) (x : Height) (s : State) :
    ((Machine.setHeight u x s).armOf u).activity = (s.armOf u).activity := by
  have := (setHeight_same u x s).1
  simp [State.armOf, this, State.putArm]

theorem setHeight_queue (u : BrushUnit) (x : Height) (s : State) : (Machine.setHeight u x s).arms.queue = s.arms.queue := by
  rw [(setHeight_same u x s).1]; rfl

theorem setReach_queue (u : BrushUnit) (r : Reach) (s : State) : (Machine.setReach u r s).arms.queue = s.arms.queue := by
  rw [(setReach_same u r s).1]; rfl

theorem readSwitches_activity (u : BrushUnit) (s : State) :
    ((Machine.readSwitches u s).armOf u).activity = (s.armOf u).activity := by
  unfold Machine.readSwitches
  rw [setHeight_activity, setReach_armOf]

theorem readSwitches_queue (u : BrushUnit) (s : State) : (Machine.readSwitches u s).arms.queue = s.arms.queue := by
  unfold Machine.readSwitches
  rw [setHeight_queue, setReach_queue]

theorem ArmsBut.faultCleared {u : BrushUnit} (h : ArmsBut nobody s) : ArmsBut nobody (faultCleared u s) := by
  unfold Machine.faultCleared
  split
  · next hf =>
    have h1 := (only_of_nobody h u).readSwitches
    have hq : ¬ ∃ y ∈ (Machine.readSwitches u s).arms.queue, y.unit = u := by
      rw [readSwitches_queue]; exact h.noEntry (by rw [hf.1]; decide)
    dsimp only
    split
    · exact h1.switchFault
    · split
      · next hp => exact h1.runPlanner fun hn => by rw [hp] at hn; cases hn
      · exact ArmsBut.back (u := u)
          (h1.setActivity (fun hn => absurd rfl hn) (fun hy => absurd hy hq) (fun _ => Or.inl rfl))
          (by simp [Machine.setActivity, Activity.spins])
  · exact h

/-! ## Following the switches, and the timers -/

theorem ArmsBut.loseComponent {u : BrushUnit} {k : CylKind} (h : ArmsBut (only u) s) :
    ArmsBut (only u) (loseComponent u k s) := by
  unfold Machine.loseComponent
  split
  · exact h.setHeight (Or.inl rfl)
  · exact h.setReach

/-- The planner after a posture change by the switches, for a unit that may have lost its spin. -/
theorem ArmsBut.switchReplan {u : BrushUnit} (h : ArmsBut (only u) s) (hp : (s.armOf u).activity.spins → s.mc.mode.plans = true) :
    ArmsBut nobody (switchReplan u s) := by
  unfold Machine.switchReplan
  dsimp only
  split
  · next hc =>
    exact h.endSpinAction.runPlanner fun hn => by
      have : s.mc.mode.plans = false := hn
      rw [hp hc.1] at this
      cases this
  · next hc =>
    exact (ArmsBut.back (u := u) h fun ha hs => hc ⟨ha, hs⟩).replan

/-- A unit in a spin action: the planner runs. -/
theorem ArmsBut.spins_plan {u : BrushUnit} (h : ArmsBut e s) (hs : (s.armOf u).activity.spins) : s.mc.mode.plans = true := by
  by_contra hf
  rcases (h.rest (Bool.eq_false_iff.2 hf)).2.2 u with ha | ha <;> rw [ha] at hs <;> simp [Activity.spins] at hs

theorem setComponent_activity (u : BrushUnit) (k : CylKind) (s : State) :
    ((Machine.setComponent u k s).armOf u).activity = (s.armOf u).activity := by
  cases k
  · show ((Machine.setReach u _ s).armOf u).activity = _; rw [setReach_armOf]
  · show ((Machine.setReach u _ s).armOf u).activity = _; rw [setReach_armOf]
  · exact setHeight_activity u _ s
  · exact setHeight_activity u _ s

theorem loseComponent_activity (u : BrushUnit) (k : CylKind) (s : State) :
    ((Machine.loseComponent u k s).armOf u).activity = (s.armOf u).activity := by
  unfold Machine.loseComponent
  split
  · exact setHeight_activity u _ s
  · rw [setReach_armOf]

theorem loseComponent_plans (u : BrushUnit) (k : CylKind) (s : State) :
    (Machine.loseComponent u k s).mc.mode.plans = s.mc.mode.plans := by
  unfold Machine.loseComponent
  split
  · exact (setHeight_same u _ s).2
  · exact (setReach_same u _ s).2

theorem ArmsBut.switchOn {u : BrushUnit} {k : CylKind} (h : ArmsBut nobody s) : ArmsBut nobody (switchOn u k s) := by
  have ho := only_of_nobody h u
  unfold Machine.switchOn
  split
  · exact ho.loseComponent.switchFault
  · split
    · next hc =>
      refine (ho.completeAction ?_).runStartTest
      by_contra hf
      simp [actionIs, (h.rest (Bool.eq_false_iff.2 hf)).2.1] at hc
    · split
      · exact h
      · split
        · exact h
        · refine ho.setComponent.switchReplan fun hs => ?_
          rw [setComponent_activity] at hs
          rw [setComponent_plans]
          exact h.spins_plan hs

theorem ArmsBut.switchOff {u : BrushUnit} {k : CylKind} (h : ArmsBut nobody s) (hk : k.fits u) :
    ArmsBut nobody (switchOff u k s) := by
  have key : ∀ {x : State}, ArmsBut nobody x → ArmsBut nobody (if actionMoves x u k then x
      else if holdsValue (x.armOf u) k then
        Machine.switchReplan u (if k = .swingOut then Machine.takeHold u .knock (Machine.loseComponent u k x)
          else Machine.loseComponent u k x)
      else x) := by
    intro x hx
    split
    · exact hx
    · split
      · split
        · next hs =>
          have h1 : ArmsBut nobody (Machine.loseComponent u k x) := by subst hs; exact hx.setReach
          have h2 := h1.takeHold (u := u) (x := .knock) fun hu => by have := hk hu; rw [hs] at this; cases this
          exact (only_of_nobody h2 u).switchReplan h2.spins_plan
        · refine (only_of_nobody hx u).loseComponent.switchReplan fun hs => ?_
          rw [loseComponent_activity] at hs
          rw [loseComponent_plans]
          exact hx.spins_plan hs
      · exact hx
  unfold Machine.switchOff
  dsimp only
  refine key ?_
  split
  · exact h.notice
  · exact h

theorem ArmsBut.cylinderTimedOut {c : CylAction} (h : ArmsBut nobody s) : ArmsBut nobody (cylinderTimedOut c s) :=
  (((only_of_nobody h c.unit).endAction.loseComponent.notice.notice).enterFault).runStartTest

theorem ArmsBut.spinDownDone {u : BrushUnit} (h : ArmsBut nobody s) (hs : (s.armOf u).activity.spins) :
    ArmsBut nobody (spinDownDone u s) := by
  refine ((only_of_nobody h u).endSpinAction.setSpin (sp := .off) (fun hn => absurd rfl hn)
    (fun hn => absurd rfl hn)).runPlanner fun hf => ?_
  rw [setSpin_plans] at hf
  have : s.mc.mode.plans = false := hf
  rw [h.spins_plan hs] at this
  cases this

theorem ArmsBut.spinDownExpired {u : BrushUnit} (h : ArmsBut nobody s) : ArmsBut nobody (spinDownExpired u s) := by
  unfold Machine.spinDownExpired
  split
  · next ha => exact h.spinDownDone (Or.inr ha)
  · exact h.endSpinAction

theorem ArmsBut.armBrushSample {u : BrushUnit} (h : ArmsBut nobody s) : ArmsBut nobody (armBrushSample u s) := by
  unfold Machine.armBrushSample
  dsimp only
  split
  · next ha =>
    split
    · have h1 : ArmsBut nobody (Machine.setSpin u .on s) :=
        h.setSpin (fun _ => h.posture u (h.spins u id (Or.inl ha))) (fun _ _ => by decide)
      exact (only_of_nobody h1 u).runPlanner fun _ => h1
    · exact h
  · next ha =>
    split
    · exact h.spinDownDone (Or.inr ha)
    · exact h
  · exact h

end

/-- The operations of the Arm Sequencer keep the law of the arms. -/
theorem armsOk_armed : Armed ArmsOk where
  startTest := fun _ h => armsOk_iff.2 (armsOk_iff.1 h).runStartTest
  demand := fun _ h => armsOk_iff.2 (armsOk_iff.1 h).postArmsDemand
  plan := fun _ _ h => armsOk_iff.2 (armsOk_iff.1 h).replan
  goals := fun _ _ h => armsOk_iff.2 (armsOk_iff.1 h).reformGoal
  take := fun _ _ _ hx h => armsOk_iff.2 ((armsOk_iff.1 h).takeHold hx)
  release := fun _ _ _ h => armsOk_iff.2 (armsOk_iff.1 h).releaseHold
  releaseTimer := fun _ _ _ h => armsOk_iff.2 (armsOk_iff.1 h).setReleaseTimer
  cleared := fun _ _ h => armsOk_iff.2 (armsOk_iff.1 h).faultCleared
  switchOn := fun _ _ _ _ h => armsOk_iff.2 (armsOk_iff.1 h).switchOn
  switchOff := fun _ _ _ hk h => armsOk_iff.2 ((armsOk_iff.1 h).switchOff hk)
  timedOut := fun _ _ h => armsOk_iff.2 (armsOk_iff.1 h).cylinderTimedOut
  brushSample := fun _ _ h => armsOk_iff.2 (armsOk_iff.1 h).armBrushSample
  spinDown := fun _ _ h => armsOk_iff.2 (armsOk_iff.1 h).spinDownExpired
  mask := fun _ _ h => armsOk_iff.2 ((armsOk_iff.1 h).other rfl rfl id rfl)
  spacing := fun _ _ h => armsOk_iff.2 ((armsOk_iff.1 h).other rfl rfl id rfl)
  read := fun _ _ h => armsOk_iff.2 ((armsOk_iff.1 h).other rfl rfl id rfl)

/-! ## Entry to STANDBY, waking, RESTART -/

section
variable {s : State}

/-- The notices of the brushes at the entry to STANDBY leave the arms as they are. -/
theorem brushStandby_same (s : State) : SameArms s (brushStandby s) :=
  brushStandby_keeps (sameArms_noticed s) (fun _ _ h => h) (fun _ _ _ h => by simpa [SameArms] using h) (SameArms.refl s)

theorem brushWake_same (s : State) : SameArms s (brushWake s) :=
  forUnits_keeps (P := SameArms s) (fun _ _ h => h) (SameArms.refl s)

theorem brushRestart_same (s : State) : SameArms s (brushRestart s) :=
  forUnits_keeps (P := SameArms s) (fun _ _ h => (sameArms_noticed s).outputNotice h) (SameArms.refl s)

/-- What the abandoning of the arms leaves: nothing waits or moves, and no timer runs. -/
theorem armsAbandon_arms (s : State) : (armsAbandon s).arms.queue = [] ∧ (armsAbandon s).arms.action = none ∧
    (armsAbandon s).mc = s.mc ∧
    ∀ u, (armsAbandon s).armOf u = { s.armOf u with spinDownTimer := none, releaseTimer := none } := by
  unfold armsAbandon stopArmTimers endAction postArmsDemand
  cases h : s.arms.action <;> simp [h, State.armOf] <;> split <;> simp

/-- Where the planner does not run, a goal is formed and nothing else. -/
theorem reformGoal_rests {u : BrushUnit} (hp : s.mc.mode.plans = false) : reformGoal u s = s.putArm u { s.armOf u with
    baseWorking := baseWorking s u, goal := goalOf u (baseWorking s u) (s.armOf u).holds } := by
  unfold reformGoal replan
  simp [hp]

/-- Entry to STANDBY from a state that obeys the law. -/
theorem armsStandby_law {x : State} (h : ArmsBut nobody s) (ha : x.arms = s.arms) :
    ArmsBut nobody (armsStandby x) := by
  obtain ⟨hq, hn, hm, hu⟩ := armsAbandon_arms x
  have hx : ∀ u, x.armOf u = s.armOf u := fun u => by simp [State.armOf, ha]
  unfold armsStandby
  dsimp only
  refine ArmsBut.reformGoal (ArmsBut.reformGoal (ArmsBut.reformGoal ?_))
  generalize armsAbandon x = y at *
  have hi : ∀ a : ArmUnit, (if a.activity = .fault then a else { a with activity := .idle }) =
      { a with activity := if a.activity = .fault then .fault else .idle } := by
    intro a
    split
    · next e => rw [← e]
    · rfl
  have hv : ∀ u, ({ y with arms := { y.arms with units := y.arms.units.map fun a =>
      if a.activity = .fault then a else { a with activity := .idle } } } : State).armOf u =
      { s.armOf u with
        spinDownTimer := none, releaseTimer := none
        activity := if (s.armOf u).activity = .fault then .fault else .idle } := by
    intro u
    show (y.arms.units.map _).get u = _
    rw [PerUnit.get_map, hi, show y.arms.units.get u = y.armOf u from rfl, hu, hx]
  refine ⟨fun u => ?_, fun u _ hs => ?_, fun u => ?_, ?_, fun u => ?_, ?_, fun e he => ?_, fun _ => ⟨hq, hn, fun u => ?_⟩⟩
  · rw [hv]; exact h.posture u
  · rw [hv] at hs
    dsimp only at hs
    split at hs <;> simp [Activity.spins] at hs
  · rw [hv]; exact h.holds u
  · rw [hv]; exact h.broom
  · rw [hv]; exact h.goal u
  · show (y.arms.queue.map _).Nodup
    rw [hq]; exact List.nodup_nil
  · have : e ∈ y.arms.queue := he
    rw [hq] at this
    cases this
  · rw [hv]
    dsimp only
    split
    · exact Or.inr rfl
    · exact Or.inl rfl

/-- Entry to STANDBY keeps the law. -/
theorem armsOk_resting (h : ArmsOk s) :
    ArmsOk (armsStandby (brushStandby (driveEnterStandby (pulseStandby (modeReport (takeMode .standby s)))))) := by
  refine armsOk_iff.2 (armsStandby_law (armsOk_iff.1 h) ((brushStandby_same _).1.trans ?_))
  simp [driveEnterStandby, pulseStandby, modeReport, takeMode]

/-- The timers of the arms are not in the law. -/
theorem ArmsBut.stopArmTimers (h : ArmsBut nobody s) : ArmsBut nobody (stopArmTimers s) := by
  have hv : ∀ u, (Machine.stopArmTimers s).armOf u =
      { s.armOf u with spinDownTimer := none, releaseTimer := none } := fun u => by
    simp [State.armOf, Machine.stopArmTimers]
  refine ⟨fun u => ?_, fun u hu hs => ?_, fun u => ?_, ?_, fun u => ?_, h.single, fun e he => ?_,
    fun hp => ⟨(h.rest hp).1, (h.rest hp).2.1, fun u => ?_⟩⟩
  · rw [hv]; exact h.posture u
  · rw [hv] at hs ⊢; exact h.spins u hu hs
  · rw [hv]; exact h.holds u
  · rw [hv]; exact h.broom
  · rw [hv]; exact h.goal u
  · rw [hv]; exact h.waiting e he
  · rw [hv]; exact (h.rest hp).2.2 u

/-- One unit read at waking. -/
theorem ArmsBut.armWakeUnit {u : BrushUnit} (h : ArmsBut nobody s) (hp : s.mc.mode.plans = false) :
    ArmsBut nobody (armWakeUnit u s) := by
  have h1 : ArmsBut (only u) (Machine.readSwitches u (Machine.setSpin u .off s)) :=
    ((only_of_nobody h u).setSpin (fun hn => absurd rfl hn) (fun hn => absurd rfl hn)).readSwitches
  have hq : (Machine.readSwitches u (Machine.setSpin u .off s)).arms.queue = [] := by
    rw [readSwitches_queue, setSpin_queue]; exact (h.rest hp).1
  unfold Machine.armWakeUnit
  dsimp only
  split
  · exact h1.switchFault
  · have h2 := h1.notice (k := .switch u) (p := false)
    refine ArmsBut.back (u := u) (h2.setActivity (fun hn => absurd rfl hn) (fun ⟨x, hx, _⟩ => ?_) (fun _ => ?_)) ?_
    · have : x ∈ (Machine.readSwitches u (Machine.setSpin u .off s)).arms.queue := by simpa [Machine.notice] using hx
      rw [hq] at this
      cases this
    · split
      · exact Or.inl rfl
      · exact Or.inr rfl
    · simp only [Machine.setActivity, State.armOf_putArm]
      split <;> simp [Activity.spins]

/-- FAULT entered where nothing waits or moves: the unit's record alone is written, and no start test is made. -/
theorem enterFault_rests {u : BrushUnit} (hq : s.arms.queue = []) (ha : s.arms.action = none) :
    (Machine.enterFault u s).arms.queue = [] ∧ (Machine.enterFault u s).arms.action = none ∧
      (Machine.enterFault u s).mc.mode.plans = s.mc.mode.plans ∧
      (Machine.enterFault u s).armOf u = { s.armOf u with spin := .off, spinDownTimer := none, activity := .fault } ∧
      ∀ v, v ≠ u → (Machine.enterFault u s).armOf v = s.armOf v := by
  have hg : (ownsAction s u || hasEntry s u) = false := by simp [ownsAction, hasEntry, hq, ha]
  have ho : ownsAction s u = false := by simp [ownsAction, ha]
  have key : SameArms (s.putArm u { s.armOf u with spin := .off, spinDownTimer := none })
      (Machine.setSpin u .off (Machine.endSpinAction u (Machine.dropEntry u s))) := by
    obtain ⟨h1, h2⟩ := setSpin_same u .off (Machine.endSpinAction u (Machine.dropEntry u s))
    refine ⟨h1.trans ?_, h2⟩
    simp [Machine.endSpinAction, Machine.dropEntry, State.putArm, State.armOf, hq]
  unfold Machine.enterFault
  dsimp only
  rw [hg, ho]
  simp only [Bool.false_eq_true, if_false]
  obtain ⟨h1, h2⟩ := key
  generalize Machine.setSpin u .off _ = x at h1 h2
  have pd : ∀ y : State, (Machine.postArmsDemand y).arms.queue = y.arms.queue ∧
      (Machine.postArmsDemand y).arms.action = y.arms.action ∧ (Machine.postArmsDemand y).mc = y.mc ∧
      (Machine.postArmsDemand y).arms.units = y.arms.units := by
    intro y
    unfold Machine.postArmsDemand
    dsimp only
    generalize (if (y.arms.queue.isEmpty && y.arms.action.isNone) = true then 0 else y.setup.armReserve) = d
    by_cases hd : d = y.arms.demand
    · rw [if_pos hd]; exact ⟨rfl, rfl, rfl, rfl⟩
    · rw [if_neg hd]; exact ⟨rfl, rfl, rfl, rfl⟩
  have fin : ∀ y : State, y.arms = (Machine.setActivity u .fault x).arms → y.mc = x.mc →
      y.arms.queue = [] ∧ y.arms.action = none ∧ y.mc.mode.plans = s.mc.mode.plans ∧
      y.armOf u = { s.armOf u with spin := .off, spinDownTimer := none, activity := .fault } ∧
      ∀ v, v ≠ u → y.armOf v = s.armOf v := by
    intro y h3 h4
    refine ⟨?_, ?_, by rw [h4]; exact h2, ?_, fun v hv => ?_⟩
    · rw [h3]; show x.arms.queue = []; rw [h1]; exact hq
    · rw [h3]; show x.arms.action = none; rw [h1]; exact ha
    · rw [State.armOf, h3]
      simp [Machine.setActivity, State.putArm, State.armOf, h1]
    · rw [State.armOf, h3]
      simp [Machine.setActivity, State.putArm, State.armOf, h1, PerUnit.get_set_other _ _ hv]
  have lift : ∀ y : State, y.arms = (Machine.setActivity u .fault x).arms → y.mc = x.mc →
      (Machine.postArmsDemand y).arms.queue = [] ∧ (Machine.postArmsDemand y).arms.action = none ∧
      (Machine.postArmsDemand y).mc.mode.plans = s.mc.mode.plans ∧
      (Machine.postArmsDemand y).armOf u = { s.armOf u with spin := .off, spinDownTimer := none, activity := .fault } ∧
      ∀ v, v ≠ u → (Machine.postArmsDemand y).armOf v = s.armOf v := by
    intro y h3 h4
    obtain ⟨p1, p2, p3, p4⟩ := pd y
    have := fin y h3 h4
    simp only [State.armOf] at this ⊢
    rw [p1, p2, p3, p4]
    exact this
  split
  · exact lift _ rfl rfl
  · exact lift _ rfl rfl

/-- A unit whose spin goes OFF and whose switches are read: the queue, the action and the planner stay as they are. -/
theorem readUnit_rests (u : BrushUnit) (s : State) :
    let x := Machine.readSwitches u (Machine.setSpin u .off s)
    x.arms.queue = s.arms.queue ∧ x.arms.action = s.arms.action ∧ x.mc.mode.plans = s.mc.mode.plans ∧
      (x.armOf u).holds = (s.armOf u).holds ∧ (x.armOf u).activity = (s.armOf u).activity ∧ (x.armOf u).spin = .off ∧
      ∀ v, v ≠ u → x.armOf v = s.armOf v := by
  obtain ⟨a1, m1⟩ := setSpin_same u .off s
  obtain ⟨a2, m2⟩ := setReach_same u ((Machine.setSpin u .off s).pins.switches.get u |>.reach u) (Machine.setSpin u .off s)
  obtain ⟨a3, m3⟩ := setHeight_same u ((Machine.setSpin u .off s).pins.switches.get u).height
    (Machine.setReach u ((Machine.setSpin u .off s).pins.switches.get u |>.reach u) (Machine.setSpin u .off s))
  dsimp only [Machine.readSwitches]
  refine ⟨?_, ?_, m3.trans (m2.trans m1), ?_, ?_, ?_, fun v hv => ?_⟩
  · rw [a3]; show (Machine.setReach _ _ _).arms.queue = _; rw [a2]; show (Machine.setSpin _ _ _).arms.queue = _; rw [a1]; rfl
  · rw [a3]; show (Machine.setReach _ _ _).arms.action = _; rw [a2]; show (Machine.setSpin _ _ _).arms.action = _; rw [a1]; rfl
  all_goals simp [State.armOf, a3, a2, a1, State.putArm, PerUnit.get_set]
  exact fun h => absurd h hv

/-- One unit read at waking leaves the planner at rest. -/
theorem armWakeUnit_plans {u : BrushUnit} (h : ArmsBut nobody s) (hp : s.mc.mode.plans = false) :
    (Machine.armWakeUnit u s).mc.mode.plans = false := by
  obtain ⟨r1, r2, r3, -⟩ := readUnit_rests u s
  unfold Machine.armWakeUnit
  dsimp only
  split
  · rw [Machine.switchFault, (enterFault_rests ?_ ?_).2.2.1]
    · simpa [Machine.notice] using r3.trans hp
    · simpa [Machine.notice] using r1.trans (h.rest hp).1
    · simpa [Machine.notice] using r2.trans (h.rest hp).2.1
  · simpa [Machine.notice, Machine.setActivity] using r3.trans hp

/-- Waking keeps the law. -/
theorem armsOk_waking (hm : s.mc.mode = .standby) (h : ArmsOk s) :
    ArmsOk (armsWake (brushWake (driveWake (pulseWake (enterSettle s))))) := by
  obtain ⟨w1, w2⟩ := brushWake_same (driveWake (pulseWake (enterSettle s)))
  have hp : (brushWake (driveWake (pulseWake (enterSettle s)))).mc.mode.plans = false := by
    rw [w2]; simp [driveWake, pulseWake, enterSettle, modeReport, takeMode, Mode.plans]
  have h1 : ArmsBut nobody (brushWake (driveWake (pulseWake (enterSettle s)))) :=
    (armsOk_iff.1 h).same ⟨w1.trans (by simp [driveWake, pulseWake, enterSettle, modeReport, takeMode]),
      by rw [hp, hm]; rfl⟩
  have h2 := h1.stopArmTimers
  have p2 : (stopArmTimers (brushWake (driveWake (pulseWake (enterSettle s))))).mc.mode.plans = false := hp
  unfold armsWake armsAnnounced forUnits
  exact armsOk_iff.2 ((((h2.armWakeUnit p2).armWakeUnit (armWakeUnit_plans h2 p2)).armWakeUnit
    (armWakeUnit_plans (h2.armWakeUnit p2) (armWakeUnit_plans h2 p2))).reformGoal.reformGoal.reformGoal)

/-- Where nothing waits or moves and the planner rests: the units of `d` have no hold, no spin and no action, and those of
`g` the goal of their holds. -/
structure Emptied (d g : BrushUnit → Prop) (s : State) : Prop where
  plans : s.mc.mode.plans = false
  queue : s.arms.queue = []
  action : s.arms.action = none
  unit : ∀ u, d u → (s.armOf u).spin = .off ∧ (s.armOf u).holds = [] ∧
    ((s.armOf u).activity = .idle ∨ (s.armOf u).activity = .fault)
  goal : ∀ u, g u → (s.armOf u).goal = goalOf u (s.armOf u).baseWorking (s.armOf u).holds

/-- One unit at RESTART. -/
theorem Emptied.armRestartUnit {d : BrushUnit → Prop} {u : BrushUnit} (h : Emptied d nobody s) :
    Emptied (fun v => d v ∨ v = u) nobody (armRestartUnit u s) := by
  obtain ⟨r1, r2, r3, r4, r5, r6, r7⟩ := readUnit_rests u (s.putArm u { s.armOf u with holds := [], activity := .idle })
  have hv : ∀ v, v ≠ u → (Machine.readSwitches u (Machine.setSpin u .off
      (s.putArm u { s.armOf u with holds := [], activity := .idle }))).armOf v = s.armOf v := fun v hv =>
    (r7 v hv).trans (State.armOf_putArm_other _ _ hv)
  rw [State.armOf_putArm] at r4 r5
  unfold Machine.armRestartUnit
  dsimp only
  split
  · have f := enterFault_rests (u := u) (s := Machine.notice (.switch u) true (Machine.readSwitches u (Machine.setSpin u .off
      (s.putArm u { s.armOf u with holds := [], activity := .idle }))))
      (by simpa [Machine.notice] using r1.trans h.queue) (by simpa [Machine.notice] using r2.trans h.action)
    obtain ⟨f1, f2, f3, f4, f5⟩ := f
    have hn : ∀ v x, (Machine.notice (.switch u) true x).armOf v = x.armOf v := fun v x => by
      simp [State.armOf, Machine.notice]
    refine ⟨f3.trans ?_, f1, f2, fun v hd => ?_, fun _ hg => hg.elim⟩
    · simpa [Machine.notice] using r3.trans h.plans
    · by_cases e : v = u
      · subst e
        rw [Machine.switchFault, f4, hn]
        exact ⟨rfl, r4, Or.inr rfl⟩
      · rw [Machine.switchFault, f5 v e, hn, hv v e]
        exact h.unit v (hd.resolve_right e)
  · refine ⟨r3.trans h.plans, r1.trans h.queue, r2.trans h.action, fun v hd => ?_, fun _ hg => hg.elim⟩
    by_cases e : v = u
    · subst e; exact ⟨r6, r4, Or.inl r5⟩
    · rw [hv v e]; exact h.unit v (hd.resolve_right e)

/-- One goal formed. -/
theorem Emptied.reformGoal {d g : BrushUnit → Prop} {u : BrushUnit} (h : Emptied d g s) :
    Emptied d (fun v => g v ∨ v = u) (reformGoal u s) := by
  rw [reformGoal_rests h.plans]
  refine ⟨h.plans, h.queue, h.action, fun v hd => ?_, fun v hg => ?_⟩
  · by_cases e : v = u
    · subst e; rw [State.armOf_putArm]; exact h.unit v hd
    · rw [State.armOf_putArm_other _ _ e]; exact h.unit v hd
  · by_cases e : v = u
    · subst e; rw [State.armOf_putArm]
    · rw [State.armOf_putArm_other _ _ e]; exact h.goal v (hg.resolve_right e)

/-- Emptied arms obey the law. -/
theorem Emptied.lawful (h : Emptied (fun _ => True) (fun _ => True) s) : ArmsOk s :=
  armsOk_iff.2 ⟨fun u hs => absurd (h.unit u trivial).1 hs,
    (fun u _ hs => by rcases (h.unit u trivial).2.2 with e | e <;> simp [e, Activity.spins] at hs),
    fun u => (by rw [(h.unit u trivial).2.1]; exact List.nodup_nil),
    fun x hx => (by rw [(h.unit .m trivial).2.1] at hx; cases hx), fun u => h.goal u trivial,
    (by rw [h.queue]; exact List.nodup_nil), fun x hx => (by rw [h.queue] at hx; cases hx),
    fun _ => ⟨h.queue, h.action, fun u => (h.unit u trivial).2.2⟩⟩

theorem Emptied.mono {d g d' g' : BrushUnit → Prop} (h : Emptied d g s) (hd : ∀ u, d' u → d u) (hg : ∀ u, g' u → g u) :
    Emptied d' g' s := ⟨h.plans, h.queue, h.action, fun u hu => h.unit u (hd u hu), fun u hu => h.goal u (hg u hu)⟩

/-- RESTART leaves the law, whatever was before. -/
theorem armsOk_restarting (s : State) : ArmsOk (armsRestart (brushRestart (driveRestart (pulseRestart (enterSettle s))))) := by
  obtain ⟨hq, hn, hm, -⟩ := armsAbandon_arms (brushRestart (driveRestart (pulseRestart (enterSettle s))))
  have h1 : Emptied nobody nobody (armsAbandon (brushRestart (driveRestart (pulseRestart (enterSettle s))))) := by
    refine ⟨?_, hq, hn, fun _ h => h.elim, fun _ h => h.elim⟩
    rw [hm, (brushRestart_same _).2]
    simp [driveRestart, pulseRestart, enterSettle, modeReport, takeMode, Mode.plans]
  unfold armsRestart armsAnnounced forUnits
  generalize armsAbandon _ = x at h1 ⊢
  have h2 := (((h1.armRestartUnit (u := .l)).armRestartUnit (u := .r)).armRestartUnit (u := .m)).mono
    (d' := fun _ => True) (g' := nobody) (fun u _ => by cases u <;> simp) (fun _ h => h)
  have h3 := (((h2.reformGoal (u := .l)).reformGoal (u := .r)).reformGoal (u := .m)).mono
    (d' := fun _ => True) (g' := fun _ => True) (fun _ h => h) (fun u _ => by cases u <;> simp)
  exact h3.lawful

end

/-! ## What the other units do -/

/-- A unit has a record and no entry in the queue: what the other units do leaves it so. -/
def Apart (u : BrushUnit) (a : ArmUnit) (x : State) : Prop := x.armOf u = a ∧ ∀ e ∈ x.arms.queue, e.unit ≠ u

section
variable {u v : BrushUnit} {a : ArmUnit} {x y : State}

theorem Apart.same (h : Apart u a x) (hs : SameArms x y) : Apart u a y := by
  obtain ⟨ha, _⟩ := hs
  exact ⟨by simpa [State.armOf, ha] using h.1, by simpa [ha] using h.2⟩

theorem Apart.put {b : ArmUnit} (h : Apart u a x) (hv : v ≠ u) : Apart u a (x.putArm v b) :=
  ⟨by rw [State.armOf_putArm_other _ _ hv.symm]; exact h.1, h.2⟩

theorem Apart.setSpin {sp : Spin} (h : Apart u a x) (hv : v ≠ u) : Apart u a (setSpin v sp x) :=
  (h.put hv).same (setSpin_same _ _ _)

theorem Apart.setComponent {k : CylKind} (h : Apart u a x) (hv : v ≠ u) : Apart u a (setComponent v k x) := by
  cases k
  · exact (h.put hv).same (setReach_same _ _ _)
  · exact (h.put hv).same (setReach_same _ _ _)
  · exact (h.put hv).same (setHeight_same _ _ _)
  · exact (h.put hv).same (setHeight_same _ _ _)

theorem Apart.demand (h : Apart u a x) : Apart u a (postArmsDemand x) := by
  unfold postArmsDemand; dsimp only; split <;> split <;> exact h

theorem Apart.endAction (h : Apart u a x) : Apart u a (endAction x) := by
  unfold Machine.endAction; split <;> exact h

theorem Apart.drop (h : Apart u a x) : Apart u a (dropEntry v x) :=
  ⟨h.1, fun e he => h.2 e (List.mem_filter.1 he).1⟩

theorem Apart.planStep (h : Apart u a x) (hv : v ≠ u) : Apart u a (planStep v x) := by
  unfold Machine.planStep
  refine Apart.demand ?_
  split
  · dsimp only
    split
    · exact h.drop.put hv
    · exact (h.drop.put hv : Apart u a _)
  · exact (h.drop.put hv).setSpin hv
  · exact (h.drop.put hv).setSpin hv
  · split
    · refine ⟨h.1, fun e he => ?_⟩
      obtain ⟨y, hy, rfl⟩ := List.mem_map.1 he
      have := h.2 y hy
      split <;> exact this
    · refine Apart.put (x := { x with arms := _ }) ⟨h.1, fun e he => ?_⟩ hv
      rcases List.mem_append.1 he with he | he
      · exact h.2 e he
      · rw [List.mem_singleton.1 he]; exact hv

theorem Apart.startTest (n : Nat) : ∀ {x : State}, Apart u a x → Apart u a (startTest n x) := by
  induction n with
  | zero => exact fun h => h
  | succ n ih =>
    intro x h
    unfold Machine.startTest
    split
    · exact h
    · next e rest hq =>
      have he : e.unit ≠ u := h.2 e (by rw [hq]; exact List.mem_cons_self)
      have hb : Apart u a (beginAction e rest x) := by
        refine Apart.put (x := { x with arms := _ }) ⟨h.1, fun y hy => h.2 y (by rw [hq]; exact List.mem_cons_of_mem _ hy)⟩ he
      split
      · exact h
      · split
        · exact h
        · dsimp only
          split
          · exact ih ((hb.endAction.setComponent he).planStep he)
          · exact hb

end

end Sys2Proof.Machine
end

