-- ==== Sys2Proof/Laws/Quiet.lean ====
section
/-! SUPPORT. In a mode that no posture and no STOP condition changes, the arms, the brushes, the water and the conditions
act among themselves: every other record keeps its value and the reports posted join the queue in order. -/

namespace Sys2Proof.Machine

/-- The state agrees with `b` around the arms, the brushes, the water and the conditions, and its link port is `l` with
some reports posted. -/
def Posted (b : State) (l : LinkPort) (x : State) : Prop :=
  SameAround b x ∧ ∃ more : List Report, x.link = more.foldl LinkPort.post l

theorem SameAround.refl (b : State) : SameAround b b := ⟨rfl, rfl, rfl, rfl, rfl, rfl, rfl, rfl, rfl, rfl, rfl⟩

theorem Posted.refl (b : State) : Posted b b.link b := ⟨SameAround.refl b, [], rfl⟩

theorem posted_again {x : State} {l : LinkPort} {r : Report} (h : ∃ more : List Report, x.link = more.foldl LinkPort.post l) :
    ∃ more : List Report, x.link.post r = more.foldl LinkPort.post l := by
  obtain ⟨more, e⟩ := h
  exact ⟨more ++ [r], by rw [List.foldl_append, ← e]; rfl⟩

theorem Posted.record {b : State} {l : LinkPort} (s : State) (k : CondKind) (v : CondState) (hs : Posted b l s) :
    Posted b l (changeRecord k v s) := by
  obtain ⟨h, m⟩ := hs
  unfold changeRecord
  dsimp only
  split
  · exact ⟨h, m⟩
  · refine ⟨⟨h.pins, h.setup, h.mc, h.pcu, h.drive, ?_, h.recipes, h.sensors, h.clock, h.free, h.pending⟩, posted_again m⟩
    dsimp only
    rw [h.arb]

theorem Posted.plain {b : State} {l : LinkPort} (hm : ¬ b.mc.mode.moves) : Plain (Posted b l) where
  water := wet_of_spray
    (fun _ _ ⟨h, m⟩ => ⟨⟨h.pins, h.setup, h.mc, h.pcu, h.drive, h.arb, h.recipes, h.sensors, h.clock, h.free, h.pending⟩, m⟩)
  brush := fun _ _ _ ⟨h, m⟩ => ⟨⟨h.pins, h.setup, h.mc, h.pcu, h.drive, h.arb, h.recipes, h.sensors, h.clock, h.free, h.pending⟩, m⟩
  arms := fun _ _ _ ⟨h, m⟩ => ⟨⟨h.pins, h.setup, h.mc, h.pcu, h.drive, h.arb, h.recipes, h.sensors, h.clock, h.free, h.pending⟩, m⟩
  record := fun s k v _ => Posted.record s k v
  travel := fun _ _ _ hv ⟨h, _⟩ => absurd (h.mc ▸ hv) hm
  post := fun _ _ ⟨h, m⟩ => ⟨⟨h.pins, h.setup, h.mc, h.pcu, h.drive, h.arb, h.recipes, h.sensors, h.clock, h.free, h.pending⟩, posted_again m⟩
  anyArms := fun _ _ ⟨h, m⟩ => ⟨⟨h.pins, h.setup, h.mc, h.pcu, h.drive, h.arb, h.recipes, h.sensors, h.clock, h.free, h.pending⟩, m⟩
  anyRecord := Posted.record

theorem Posted.told {b : State} {l : LinkPort} (hm : ¬ b.mc.mode.moves) : Told (Posted b l) where
  water := tank_of_spray
    (fun _ _ ⟨h, m⟩ => ⟨⟨h.pins, h.setup, h.mc, h.pcu, h.drive, h.arb, h.recipes, h.sensors, h.clock, h.free, h.pending⟩, m⟩)
    Posted.record
  brush := (Posted.plain hm).brush
  arms := (Posted.plain hm).armed
  record := Posted.record
  travel := (Posted.plain hm).travel
  post := (Posted.plain hm).post

/-- The end of a command whose effect is quiet. -/
theorem Posted.finish {b x : State} {l : LinkPort} (h : Posted b l x) :
    ∃ t more, finish x = .next t ∧ SameAround b t ∧ t.link = LinkPort.reported more l := by
  obtain ⟨h, more, e⟩ := h
  exact ⟨_, more, rfl,
    ⟨h.pins, h.setup, h.mc, h.pcu, h.drive, h.arb, h.recipes, h.sensors, h.clock, h.free, h.pending⟩,
    by simp [LinkPort.reported, e]⟩

/-- Every command ends with the transmitter's turn. -/
theorem exec_finishes (c : Instr) (s : State) : ∃ x : State, exec c s = Machine.finish x := by
  cases c <;> exact ⟨_, rfl⟩

end Sys2Proof.Machine
end

