-- ==== Sys2Proof/WellFormed.lean ====
section
/-! DEFINITION. Which commands can occur: the limits the frame layout and the rows themselves put on their operands. -/

namespace Sys2Proof

/-- A body a link frame can carry: at most 56 bytes (Table 11-1). -/
def bodyFits (body : List Byte) : Bool := decide (body.length ≤ 56)

/-- The operation byte of a UNIT body is not the number of another of its four operations (Table 11-4). -/
def unitRow (op : Nat) (body : List Byte) : Bool :=
  match body with
  | [_, b] => b.toNat == op || decide (3 < b.toNat)
  | _ => true

/-- The command can occur. -/
def Instr.wf : Instr → Bool
  | .hardwareReset => true
  | .wakeActive => true
  | .settleTimerExpiry => true
  | .parkStopTimerExpiry => true
  | .pulseEdge _ _ _ => true
  | .wheelGateClose => true
  | .brushGateClose => true
  | .requestTimerExpiry => true
  | .drivePeriodExpiry => true
  | .dwellTimerExpiry => true
  | .brushRampTimerExpiry _ => true
  | .stallTimerExpiry _ => true
  | .lagTimerExpiry _ => true
  | .endSwitchChange _ _ => true
  | .spacingTimerExpiry => true
  | .cylinderTimeoutExpiry => true
  | .spinDownTimerExpiry _ => true
  | .releaseTimerExpiry u => u != .m
  | .waterRampTimerExpiry => true
  | .valveLeadTimerExpiry => true
  | .valveLagTimerExpiry => true
  | .supplyHoldTimerExpiry => true
  | .arbiterPeriodExpiry => true
  | .roundPeriodTimerExpiry => true
  | .masterFrameSent => true
  | .sensorReplyComplete _ _ _ _ _ => true
  | .replyWindowClose => true
  | .turnaroundExpiry => true
  | .frameReceived _ _ body _ => bodyFits body
  | .interByteGapTimeout _ => true
  | .frameTransmitEnd => true
  | .unknownKind kind _ body => (kind.toNat == 0 || decide (0x18 < kind.toNat)) && bodyFits body
  | .status _ body => bodyFits body
  | .setMode _ body => bodyFits body
  | .travel _ body => bodyFits body
  | .supply _ body => bodyFits body
  | .setupWrite _ body => bodyFits body
  | .setupRead _ body => bodyFits body
  | .recipeWrite _ body => bodyFits body
  | .recipeRead _ body => bodyFits body
  | .recipeCopy _ body => bodyFits body
  | .recipeErase _ body => bodyFits body
  | .refresh _ body => bodyFits body
  | .paceWrite _ body => bodyFits body
  | .paceRead _ body => bodyFits body
  | .zoneAdd _ body => bodyFits body
  | .zoneClear _ body => bodyFits body
  | .zoneList _ body => bodyFits body
  | .push _ body => bodyFits body
  | .pop _ body => bodyFits body
  | .setLift _ body => bodyFits body && unitRow 0 body
  | .releaseLift _ body => bodyFits body && unitRow 1 body
  | .releaseSensed _ body => bodyFits body && unitRow 2 body
  | .releaseKnock _ body => bodyFits body && unitRow 3 body
  | .spray _ body => bodyFits body
  | .clear _ body => bodyFits body
  | .setOdometer _ body => bodyFits body
  | .sensorRead _ body => bodyFits body
  | .restart _ body => bodyFits body
  | .wakeInactive => true
  | .lenAbove56Discard len => decide (56 < len.toNat)

end Sys2Proof
end

