-- ==== Sys2Proof/Tests/Slice0.lean ====
section
/-! SUPPORT. Tests: the checks of WellFormed, the manual's worked figures, and, for each statement that has hypotheses, a
state and operands that meet them. The expected values of the first two parts stand in the manual. -/

namespace Sys2Proof.Tests

open Sys2Proof Sys2Proof.Machine

/-- A command that cannot occur is told so, one for each check of WellFormed. -/
theorem test_wellformed_refuses :
    (Instr.releaseTimerExpiry .m).wf = false ∧
    (Instr.frameReceived 0x01 0 (List.replicate 57 0) 0).wf = false ∧
    (Instr.unknownKind 0x05 0 []).wf = false ∧
    (Instr.unknownKind 0x19 0 (List.replicate 57 0)).wf = false ∧
    (Instr.lenAbove56Discard 56).wf = false ∧
    (Instr.setLift 0 [0, 1]).wf = false ∧ (Instr.releaseLift 0 [0, 0]).wf = false ∧
    (Instr.releaseSensed 0 [0, 3]).wf = false ∧ (Instr.releaseKnock 0 [0, 2]).wf = false ∧
    (Instr.status 0 (List.replicate 57 0)).wf = false ∧ (Instr.setupWrite 0 (List.replicate 57 0)).wf = false := by
  decide

/-- The same commands with operands inside the limits can occur. -/
theorem test_wellformed_accepts :
    (Instr.releaseTimerExpiry .l).wf = true ∧
    (Instr.frameReceived 0x01 0 (List.replicate 56 0) 0).wf = true ∧
    (Instr.unknownKind 0x19 0 []).wf = true ∧ (Instr.unknownKind 0x00 0 []).wf = true ∧
    (Instr.lenAbove56Discard 57).wf = true ∧
    (Instr.setLift 0 [0, 0]).wf = true ∧ (Instr.setLift 0 [0, 4]).wf = true ∧ (Instr.setLift 0 [0]).wf = true ∧
    (Instr.releaseKnock 0 [1, 3]).wf = true := by
  decide

/-- No word spells a command (assumption log 1): the table gives no bits. -/
theorem test_no_word_spells_a_command : decodeTableWord 8 0x01 = none := rfl

/-! ## The manual's worked figures -/

/-- R143: READ to address 01h is 01h, 30h, 00h, 92h. -/
theorem test_master_frame : masterFrame 0x01 .read = [0x01, 0x30, 0x00, 0x92] := by decide +kernel

/-- A wheel that has counted n and is included. -/
def counted (n : Int) : Wheel := ⟨n, 0, true, 0, 0⟩

/-- Section 2.9.1: the four gates at 120 pulses per metre, from odometer 1000. -/
theorem test_gates_across_a_short_reverse :
    let g (a b : Int) (p : PulseCapture) := closeGate 120 (counted a) (counted b) p
    let p1 := g 3 4 { PulseCapture.reset with odometer := 1000 }
    let p2 := g 4 4 p1
    let p3 := g (-1) (-1) p2
    let p4 := g 0 0 p3
    (p1.wl.speed, p1.wr.speed, p1.sample, p1.direction, p1.odometer, p1.remainder) =
      (1250, 1666, 1458, .forward, 1029, 40) ∧
    (p2.sample, p2.direction, p2.odometer, p2.remainder) = (1666, .forward, 1062, 120) ∧
    (p3.wl.speed, p3.sample, p3.direction, p3.odometer, p3.remainder) = (-416, -416, .reverse, 1055, -200) ∧
    (p4.sample, p4.direction, p4.odometer, p4.remainder) = (0, .still, 1055, -200) := by
  decide

/-- Section 2.9.2: the odometer wraps from 4294967290 to 19. -/
theorem test_odometer_wraps :
    let p := closeGate 100 (counted 2) (counted 3) { PulseCapture.reset with odometer := 4294967290 }
    (p.odometer, p.remainder) = (19, 0) := by
  decide

/-- Section 2.9.3: gate 50 excludes the silent wheel, and its sample and increment already use the other one; gate 58
readmits it. -/
theorem test_wheel_is_excluded_and_readmitted :
    let silent : Wheel := ⟨0, 0, true, 49, 0⟩
    let back : Wheel := ⟨20, 0, false, 0, 4⟩
    let p := closeGate 100 (wheelTest silent (counted 20)).1 (counted 20) PulseCapture.reset
    wheelTest silent (counted 20) = (⟨0, 0, false, 0, 0⟩, .excluded) ∧ (p.sample, p.odometer) = (10000, 200) ∧
    wheelTest back (counted 20) = (⟨20, 0, true, 0, 0⟩, .readmitted) := by
  decide

/-- A channel that reads a value in OK. -/
def reading (v : Int) : Channel := ⟨.ok, true, 0, 0, v, 16 * v, v, none⟩

/-- The climb of Sections 3.13.1 and 7.8.1. -/
def climb : State := { State.reset with
  mc := ⟨.work, .work, none, none⟩
  pcu := { PulseCapture.reset with sample := 2400, direction := .forward }
  drive := { Drive.reset with target := 2400, ramped := 2400, correction := 60, dispCmd := 460, demand := 276, brk := true }
  brush := { State.reset.brush with units := ⟨{ BrushRec.reset with c := 110, t := 110, demand := 102 },
    { BrushRec.reset with c := 110, t := 110, demand := 102 }, { BrushRec.reset with c := 120, t := 120, demand := 168 }⟩ }
  spray := { Spray.reset with demand := 6, command := 79, q := 79 }
  arb := { Arbiter.reset with
    supply := 520, stale := false
    consumers := ⟨⟨3, 0, 0, 1000⟩, ⟨1, 276, 122, 442⟩, ⟨2, 168, 168, 1000⟩, ⟨2, 102, 102, 1000⟩, ⟨2, 102, 102, 1000⟩,
      ⟨2, 6, 6, 1000⟩⟩ }
  sensors := { SensorMaster.reset with channels := { SensorMaster.reset.channels with
    drivePA := reading 3000, drivePB := reading 200, auxP := reading 1400, dust := reading 620 } } }

/-- Table 3-4: the demand of the drive by pressure and command; Section 3.13.1: the stages at 0 ms, where the share of 442
holds the correction at 60, and the correction of 10 at 830 ms. -/
theorem test_drive_stages :
    let at_ (p : Int) : State := { climb with sensors := { climb.sensors with channels :=
      { climb.sensors.channels with drivePA := reading p } } }
    let demand (p cmd : Int) := (demandStage (at_ p) { climb.drive with dispCmd := cmd }).demand
    let first := outputStage climb (demandStage climb (commandStage climb (correctionStage climb climb.drive)))
    let free := { climb with
      pcu := { climb.pcu with sample := 1875 }
      arb := { climb.arb with consumers := climb.arb.consumers.set .drive ⟨1, 184, 184, 1000⟩ } }
    let late := commandStage free (correctionStage free climb.drive)
    [demand 1500 460, demand 3000 460, demand 4200 460, demand 5000 1000] = [138, 276, 386, 1000] ∧
    (first.correction, first.dispCmd, first.demand, first.dispOut) = (60, 460, 276, 203) ∧
    (late.correction, late.dispCmd) = (70, 470) := by
  decide

/-- Section 3.13.2: from R at 600 a reversal ramps to 590 in one period with T at 0; at standstill with R at 0 the dwell
starts toward REVERSE. -/
theorem test_reversal_ramps_then_dwells :
    let s := { climb with
      pcu := { climb.pcu with sample := 600 }
      drive := { climb.drive with requested := -800, held := some .forward, ramped := 600 } }
    let still := { s with
      pcu := { s.pcu with sample := 0, direction := .still }, drive := { s.drive with ramped := 0 }, clock := 602000 }
    (rampStage (directionStage s s.drive)).ramped = 590 ∧ (directionStage s s.drive).target = 0 ∧
    (directionStage still still.drive).dwell = some ⟨.reverse, 902000⟩ := by
  decide

/-- Pace table 1 of Sections 4.11.1 and 7.8.1. -/
def paceOne : PaceTable := ⟨5, #v[0, 800, 1600, 2400, 3200, 0], #v[50, 70, 90, 110, 130, 0], 150⟩

/-- Section 4.11.1: the selections of the two tables. -/
theorem test_segments :
    [selectIndex paceOne 2000 2, selectIndex paceOne 2450 2, selectIndex paceOne 2300 3, selectIndex paceOne 2240 3,
      selectIndex paceOne 2380 2, selectIndex paceOne 3300 2, selectIndex paceOne 1400 4] = [2, 3, 3, 2, 2, 4, 1] := by
  decide

/-- Table 4-5: the demand of the brushes at AUX_P 1400. -/
theorem test_brush_demand :
    [brushDemand climb .l 40, brushDemand climb .r 90, brushDemand climb .l 110, brushDemand climb .m 120] =
      [37, 84, 102, 168] := by
  decide

/-- Section 4.11.2: unit R with a target and a command, its share as given. -/
def brushR (t c share : Int) : State := { climb with
  brush := { climb.brush with units := ⟨BrushRec.reset, { BrushRec.reset with spin := .on, t := t, c := c, out := c }, BrushRec.reset⟩ }
  arb := { climb.arb with consumers := climb.arb.consumers.set .brushR ⟨2, 46, 46, share⟩ } }

/-- Section 4.11.2: the kick to 40, the step to 50, the steps down and the stop cut; the share of 300 starves the brush and
600 leaves it 30 rpm. -/
theorem test_kick_starvation_and_stop_cut :
    [rampedCommand (brushR 50 0 1000) .r, rampedCommand (brushR 50 40 1000) .r, rampedCommand (brushR 0 30 1000) .r,
      rampedCommand (brushR 0 20 1000) .r] = [40, 50, 20, 0] ∧
    (let b := (updateOutput .r (brushR 50 50 300)).brushOf .r
     (b.out, b.output, b.starved) = (0, 0, true)) ∧
    (let b := (updateOutput .r (brushR 50 50 600)).brushOf .r
     (b.out, b.output, b.starved) = (30, 200, false)) := by
  decide

/-- The spray of Table 6-2: dose 30, dose_max 80, dust_base 500, ct_up 1/4, ct_dn 1/8. -/
def spraying (d : Int) (low : Bool) (v : Int) : State := { climb with
  pcu := { climb.pcu with sample := v }
  spray := { climb.spray with wanted := ⟨true, false, true, true⟩, low := low }
  sensors := { climb.sensors with channels := { climb.sensors.channels with dust := reading d } } }

/-- Table 6-2: the adjusted doses and the flow targets. -/
theorem test_doses :
    [adjustedDose (spraying 620 false 2400), adjustedDose (spraying 300 false 1500), adjustedDose (spraying 1000 false 5000),
      adjustedDose (spraying 0 false (-1200))] = [33, 27, 42, 23] ∧
    [flowTarget (spraying 620 false 2400), flowTarget (spraying 620 true 2400), flowTarget (spraying 300 false 1500),
      flowTarget (spraying 1000 false 5000), flowTarget (spraying 0 false (-1200))] = [79, 38, 40, 210, 27] := by
  decide

/-- Table 6-3: the demand of the water command at Kw 8. -/
theorem test_water_demand :
    [waterDemand climb 20, waterDemand climb 79, waterDemand climb 210, waterDemand climb 500] = [1, 6, 16, 40] := by
  decide

/-- Table 7-3: the budget at reserve 20 and derate 70. -/
theorem test_budgets :
    let b (supply : Int) (stale derate stop : Bool) :=
      budgetNow { climb with arb := { climb.arb with supply := supply, stale := stale, derate := derate, stop := stop } }
    [b 520 false false false, b 520 false true false, b 0 true false false, b 0 true true false, b 15 false false false,
      b 520 false false true] = [500, 344, 130, 85, 0, 0] := by
  decide

/-- Section 7.8.1: the grants of the six consumers and the drive's share. -/
theorem test_allocation_on_a_climb :
    let a := (allocate climb).arb
    (a.consumers.arms.grant, a.consumers.broomM.grant, a.consumers.brushL.grant, a.consumers.brushR.grant,
      a.consumers.water.grant, a.consumers.drive.grant) = (0, 168, 102, 102, 6, 122) ∧
    (a.budget, a.consumers.drive.share, a.consumers.broomM.share) = (500, 442, 1000) := by
  decide

/-- Section 8.6.2: the vehicle in PARK at odometer 4294960000. -/
def route : State := { State.reset with
  mc := ⟨.park, .park, none, none⟩
  pcu := { PulseCapture.reset with odometer := 4294960000 }
  recipes := { Recipes.reset with reference := 4294960000 } }

/-- Section 8.6.2: the five ZONE_ADDs and the queue they leave. -/
theorem test_zones_across_the_wrap :
    let a1 := takeZoneAdd 5000 4 21 route
    let a2 := takeZoneAdd 4294965000 3 20 a1.1
    let a3 := takeZoneAdd 4294950000 5 19 a2.1
    let a4 := takeZoneAdd 5000 6 22 a3.1
    let a5 := takeZoneAdd 5020 9 23 a4.1
    [a1.2, a2.2, a3.2, a4.2, a5.2] = [[0x00, 1], [0x00, 2], [0x16, 2], [0x02, 2], [0x00, 3]] ∧
    a5.1.recipes.zones = [⟨4294965000, 3, 20⟩, ⟨5000, 6, 22⟩, ⟨5020, 9, 23⟩] := by
  decide

/-- Section 9.8.1: the seven rounds of AUX_P with k 1: state, failures, good run, F and filtered value of each. -/
theorem test_pressure_node_fails_and_recovers :
    let c0 : Channel := reading 1400
    let c1 := c0.apply 1 (.good 1420)
    let c2 := c1.apply 1 (.failure .timeout)
    let c3 := c2.apply 1 (.failure .timeout)
    let c4 := c3.apply 1 (.failure .check)
    let c6 := { c4 with identified := true }.apply 1 (.good 1380)
    let c7 := c6.apply 1 (.good 1390)
    (c1.state, c1.f, c1.filtered) = (.ok, 22560, 1410) ∧ (c2.state, c2.failures) = (.suspect, 1) ∧
    (c3.state, c3.failures, c3.cause) = (.suspect, 2, none) ∧
    (c4.state, c4.failures, c4.cause, c4.identified) = (.lost, 3, some .check, false) ∧
    (c6.state, c6.failures, c6.goodRun, c6.f, c6.filtered, c6.cause) = (.lost, 0, 1, 22080, 1380, some .check) ∧
    (c7.state, c7.goodRun, c7.f, c7.filtered, c7.cause) = (.ok, 0, 22160, 1385, none) := by
  decide

/-- The state a command leaves. -/
def after (c : Instr) (s : State) : State :=
  match exec c s with
  | .next t => t
  | _ => s

/-- Section 10.9: at waking with every channel UNKNOWN the tests on the substitutes make five records PRESENT, and the
Arbiter derates. -/
theorem test_first_waking :
    let t := after .wakeActive State.reset
    (t.mc.mode, t.cond.presentCount, t.cond.latchedCount, t.arb.derate) = (.settle, 5, 0, true) ∧
    [t.cond.oilHigh, t.cond.loopOver, t.cond.tankLow, t.cond.tankEmpty, t.cond.supplyStale] =
      [.present, .present, .present, .present, .present] := by
  decide +kernel

/-- Section 11.10: with the transmitter busy a third request finds both places occupied and is discarded; at the end of the
report the oldest reply begins. -/
theorem test_congested_link :
    let busy := { climb with link := { climb.link with tx := some ⟨false, []⟩ } }
    let s1 := after (.status 1 []) busy
    let s2 := after (.setMode 2 [2]) s1
    let s3 := after (.travel 3 [0, 0]) s2
    let s4 := after .frameTransmitEnd s3
    (s2.mc.mode, s2.link.rx.length, s2.link.reports.length) = (.parking, 2, 1) ∧
    (s3.link.errors, s3.drive.requested, s3.link.rx.length) = (1, 0, 2) ∧
    (s4.link.tx.map fun x => (x.isReply, x.bytes.length, x.bytes.take 4)) = some (true, 62, [0xC3, 56, 0x81, 1]) := by
  decide


/-! ## States that meet the hypotheses of the statements -/

/-- The reset state in a mode. -/
def inMode (m : Mode) : State := { State.reset with mc := ⟨m, m.target, none, none⟩ }

/-- The state with a request that waits untaken in its receive buffer. -/
def buffered (kind tag : Byte) (body : List Byte) (s : State) : State :=
  { s with link := { s.link with rx := [⟨kind, tag, body, none⟩] } }

/-- A queue of waiting commands, and the empty one. -/
theorem witness_StepTakesTheFrontCommand :
    { State.reset with pending := [.wakeActive, .wakeInactive] }.pending = .wakeActive :: [.wakeInactive] ∧
    State.reset.pending = [] := by
  decide

theorem witness_RecordsAreWrittenByTheirOwnCommands :
    (∃ t, exec .wakeActive State.reset = .next t) ∧ ∃ t, exec (.setupWrite 0 [0, 0, 0, 0]) State.reset = .next t :=
  ⟨⟨_, rfl⟩, ⟨_, rfl⟩⟩

/-- A slot that a write has made valid. -/
def validSlot : Slot := ⟨true, RecipeFields.defaults.set 0 300, noDirty.set 0 true⟩

/-- A state at the edges of every law: PARKING at standstill with its timer running, both places and the report queue full,
the error count at its end, a full stack, and eight zone marks up to 2^31 − 1 mm ahead. -/
def lawful : State := { State.reset with
  mc := ⟨.parking, .park, none, some 500000⟩
  drive := { Drive.reset with requested := 500, brk := true }
  setup := { Setup.defaults with brush := Setup.defaults.brush.set 3 39, limits := Setup.defaults.limits.set 0 11000 }
  recipes := { Recipes.reset with
    slots := resetSlots.set 31 validSlot
    overrides := [⟨31, validSlot.fields⟩, ⟨0, RecipeFields.defaults⟩, ⟨31, RecipeFields.defaults⟩]
    zones := [⟨0, 0, 0⟩, ⟨1, 1, 1⟩, ⟨2, 2, 2⟩, ⟨3, 3, 3⟩, ⟨4, 4, 4⟩, ⟨5, 5, 5⟩, ⟨6, 6, 6⟩, ⟨2147483647, 7, 7⟩] }
  link := { LinkPort.reset with
    rx := [⟨0x01, 1, [], some [0x00]⟩, ⟨0x04, 2, [0, 0], none⟩]
    reports := List.replicate 16 (.mode .park .park)
    errors := 65535
    tx := some ⟨true, []⟩ }
  pending := [.parkStopTimerExpiry] }

theorem lawful_steps : ∃ t, step lawful = .next t := ⟨_, rfl⟩

theorem witness_ModeRecordStaysARowOfTheTable : ModeRecordOk lawful ∧ ∃ t, step lawful = .next t :=
  ⟨⟨by decide, by decide, by decide⟩, lawful_steps⟩

theorem witness_DriveStaysAtRestOutsideTravelModes :
    DriveRestOk lawful ∧ DriveRestOk (inMode .park) ∧ ∃ t, step lawful = .next t :=
  ⟨⟨by decide, by decide⟩, ⟨by decide, by decide⟩, lawful_steps⟩

theorem witness_LinkBuffersStayWithinTheirSizes : LinkOk lawful ∧ ∃ t, step lawful = .next t :=
  ⟨⟨by decide, by decide, by decide⟩, lawful_steps⟩

theorem lawful_recipes : RecipesOk lawful where
  slotZero := by decide
  invalid := by decide +kernel
  depth := by decide +kernel
  slots := by
    have h : ∀ n : Fin 32, lawful.recipes.slots[n].fields = RecipeFields.defaults ∨
        lawful.recipes.slots[n].fields = validSlot.fields := by decide +kernel
    intro n
    rcases h n with e | e <;> rw [e] <;> exact fields_in_range_of_check _ (by decide)
  entries := by
    have h : ∀ e ∈ lawful.recipes.base :: lawful.recipes.overrides, e.fields = RecipeFields.defaults ∨
        e.fields = validSlot.fields := by decide +kernel
    intro e he
    rcases h e he with e | e <;> rw [e] <;> exact fields_in_range_of_check _ (by decide)

theorem witness_RecipeTableAndStackStayLawful : RecipesOk lawful ∧ ∃ t, step lawful = .next t :=
  ⟨lawful_recipes, lawful_steps⟩

/-- The ranges can be checked place by place. -/
theorem setup_range_of_check (x : Setup)
    (h : ((List.range 7).all fun g => (List.range 49).all fun n =>
      match (x.group g)[n]?, setupRange g n with
      | some v, some r => decide (r.1 ≤ v ∧ v ≤ r.2)
      | _, _ => true) = true) (g n : Nat) (v : Int) (r : Int × Int) :
    (x.group g)[n]? = some v → setupRange g n = some r → r.1 ≤ v ∧ v ≤ r.2 := by
  intro hv hr
  have hn : n < 49 := by
    have hl : n < (x.group g).length := by
      rcases Nat.lt_or_ge n (x.group g).length with h | h
      · exact h
      · rw [List.getElem?_eq_none h] at hv; cases hv
    have : (x.group g).length ≤ 49 := by unfold Setup.group; split <;> simp
    omega
  have hg : g < 7 := by
    by_contra hc
    have : x.group g = [] := by unfold Setup.group; split <;> first | omega | rfl
    rw [this] at hv; cases hv
  rw [List.all_eq_true] at h
  have h2 := h g (List.mem_range.2 hg)
  rw [List.all_eq_true] at h2
  have h3 := h2 n (List.mem_range.2 hn)
  rw [hv, hr] at h3
  simpa using h3

theorem witness_SetupStaysInRange : SetupOk lawful ∧ ∃ t, step lawful = .next t :=
  ⟨⟨setup_range_of_check _ (by decide), fun u => by cases u <;> decide⟩, lawful_steps⟩

theorem witness_ZoneQueueStaysInOrderOfDistance : ZonesOk lawful ∧ ∃ t, step lawful = .next t :=
  ⟨⟨by decide, by decide, by decide +kernel, by decide⟩, lawful_steps⟩

/-- WORK with an entry of every unit in the manifold queue: L held back by SENSED, R out and to be lowered, the main broom
with its brush ON. -/
def manifold : State := { inMode .work with
  arms := { Arms.reset with
    units := ⟨{ ArmUnit.reset .unknown with
        baseWorking := true, holds := [.sensed, .lift], goal := ⟨false, false, false⟩, activity := .waiting },
      { ArmUnit.reset .out with height := .up, baseWorking := true, goal := ⟨true, true, true⟩, activity := .waiting },
      { ArmUnit.reset .absent with height := .down, spin := .on, activity := .waiting }⟩
    queue := [⟨.l, .swingIn⟩, ⟨.r, .lower⟩, ⟨.m, .lift⟩] }
  pending := [.spacingTimerExpiry] }

theorem witness_ArmsStayLawful : ArmsOk manifold ∧ ∃ t, step manifold = .next t :=
  ⟨⟨fun u => by cases u <;> decide, fun u => by cases u <;> decide, fun u => by cases u <;> decide, by decide,
    fun u => by cases u <;> decide, by decide, by decide, by decide, by intro h; rcases h with h | h <;> cases h⟩, ⟨_, rfl⟩⟩

/-- Levels at the input pins with WAKE active. -/
def wakeHigh (s : State) : State := { s with pins := { s.pins with wake := true } }

/-- The levels of unit L's switches. -/
def withSwitches (w : Switches) (s : State) : State := { s with pins := { s.pins with switches := s.pins.switches.set .l w } }

theorem witness_HardwareResetLeavesTheStatedValues :
    climb.pins.wake = false ∧ (wakeHigh climb).pins.wake = true ∧ (1 : Fin 32) ≠ 0 ∧ (31 : Fin 32) ≠ 0 := by
  decide

theorem witness_WakeLineWakesThePartInStandby :
    (State.reset.mc.mode = .standby ∧ State.reset.pins.wake = false) ∧ (wakeHigh climb).pins.wake = true ∧
    (inMode .settle).mc.mode ≠ .standby ∧
    (State.reset.arms.queue = [] ∧ State.reset.arms.action = none ∧ State.reset.arms.demand = 0) ∧
    (∃ t, exec .wakeActive State.reset = .next t) ∧
    (let s := withSwitches ⟨true, true, false, false⟩ State.reset
     s.mc.mode = .standby ∧ s.pins.wake = false ∧ s.arms.queue = [] ∧ s.arms.action = none ∧
     (s.pins.switches.get .l).isIn = true ∧ (s.pins.switches.get .l).out = true) ∧
    ∃ t, exec .wakeActive (withSwitches ⟨true, true, false, false⟩ State.reset) = .next t :=
  ⟨by decide, by decide, by decide, by decide, ⟨_, rfl⟩, by decide, ⟨_, rfl⟩⟩

theorem witness_SettleAndParkStopExpiriesEnterPark :
    { State.reset with mc := ⟨.settle, .park, some 100000, none⟩ }.mc.settleTimer = some 100000 ∧
    lawful.mc.parkStopTimer = some 500000 := by
  decide

theorem witness_SetModeFollowsItsTable :
    (∀ m ∈ [Mode.park, .transport, .work, .stowing, .parking], ∀ b ∈ [(0 : Byte), 1, 2, 3, 4, 5],
      Ready 0x02 9 [b] (inMode m) ∧ (inMode m).mc.mode ≠ .settle ∧ (inMode m).mc.mode ≠ .standby) ∧
    Ready 0x02 9 [4] (buffered 0x02 9 [4] climb) ∧
    Mode.work.travels = true ∧ Mode.parking.travels = true ∧ (inMode .park).drive.overspeed = false ∧
    (let s := { inMode .work with drive := { Drive.reset with overspeed := true }, cond := climb.cond.set .overspeed .present }
     s.drive.overspeed = true ∧ s.cond.get .overspeed = .present) := by
  unfold Ready; decide

/-- The setup with 3799 as the substitute of both loop pressures: below loop_over by more than its hysteresis. -/
def lowLoop : Setup := { Setup.defaults with sensor := (Setup.defaults.sensor.set 6 3799).set 12 3799 }

/-- No role has an address. -/
def noNodes (s : State) : State := { s with setup := { s.setup with sensor := Vector.replicate 49 0 } }

/-- A reply window is open for TANK. -/
def windowOpen (s : State) : State :=
  { s with sensors := { s.sensors with line := .window ⟨.tank, .read, 5, false, false, false⟩ 900 } }

/-- R154, R146: a RESTART discards the outcome of the transaction in progress, and with no role due its round ends at once, with the
counter 1. -/
theorem test_restart_round :
    let idle := (performRestart (inMode .park)).sensors
    let busy := (performRestart (windowOpen (inMode .park))).sensors
    let none := (performRestart (noNodes (inMode .park))).sensors
    (idle.counter, idle.line) = (0, .sending ⟨.drivePA, .identify, 1, false, false, false⟩ (masterFrame 1 .identify) 160) ∧
    (busy.counter, busy.line) = (0, .window ⟨.tank, .read, 5, false, true, true⟩ 900) ∧
    (none.counter, none.round, none.line) = (1, Option.none, .idle) := by
  decide +kernel

theorem witness_RestartIsAcceptedInParkOrStopped :
    (∀ r ∈ allRoles, (noNodes (inMode .park)).setup.address r = 0) ∧
    ((inMode .park).setup.address .drivePA ≠ 0 ∧ (inMode .park).sensors.line = .idle ∧
      (windowOpen (inMode .park)).sensors.line ≠ .idle ∧ Ready 0x18 0 [] (windowOpen (inMode .park)) ∧
      Ready 0x18 0 [] (noNodes (inMode .park))) ∧
    (∀ u ∈ [BrushUnit.l, .r, .m], ((inMode .park).brushOf u).spin = ((inMode .park).armOf u).spin ∧
      (((inMode .park).brushOf u).heightDown = true ↔ ((inMode .park).armOf u).height = .down)) ∧
    ((∀ m ∈ [Mode.park, .transport, .work, .stowing, .parking],
      Ready 0x18 0 [] (inMode m) ∧ (inMode m).mc.mode ≠ .settle ∧ (inMode m).stopped = true) ∧
    (Ready 0x18 0 [] (buffered 0x18 0 [] State.reset) ∧ State.reset.mc.mode = .standby) ∧
    Ready 0x18 0 [] climb ∧ climb.mc.mode ≠ .settle ∧ climb.mc.mode ≠ .park ∧ climb.stopped = false) ∧
    (SetupOk (inMode .park) ∧ (inMode .park).setup.loopOver ≤
      max ((inMode .park).setup.storedSubstitute .drivePA) ((inMode .park).setup.storedSubstitute .drivePB)) ∧
    (let s := { inMode .park with setup := lowLoop }
     SetupOk s ∧ Ready 0x18 0 [] s ∧ max (s.setup.storedSubstitute .drivePA) (s.setup.storedSubstitute .drivePB) <
       s.setup.loopOver - s.setup.loopHyst) :=
  ⟨by decide, by unfold Ready; decide, by decide, by unfold Ready; decide,
    ⟨⟨setup_range_of_check _ (by decide), fun u => by cases u <;> decide⟩, by decide⟩, ⟨setup_range_of_check _ (by decide), fun u => by cases u <;> decide⟩, by unfold Ready; decide, by decide⟩

theorem witness_ReceivedFrameTakesAPlaceOrIsDiscarded :
    (¬ (([] : List Byte).length ≤ 56 ∧ (0 : Word16) = crc16 [0, 1, 5])) ∧
    ((List.replicate 56 0).length ≤ 56 ∧
      crc16 (byte 56 :: 0x19 :: 0 :: List.replicate 56 0) = crc16 (byte 56 :: 0x19 :: 0 :: List.replicate 56 (0 : Byte))) ∧
    (([] : List Byte).length ≤ 56 ∧ (0xAF08 : Word16) = crc16 (byte 0 :: 0x01 :: 0x05 :: [])) ∧
    climb.mc.mode ≠ .standby ∧ State.reset.mc.mode = .standby ∧
    56 < (57 : Byte).toNat ∧ (56 : Byte).toNat ≤ 56 ∧
    request? (.travel 3 [0, 0]) = some (0x03, 3, [0, 0]) ∧
    ((buffered 0x01 1 [] climb).link.untaken ≠ some ⟨0x03, 3, [0, 0], none⟩ ∧
      (buffered 0x01 1 [] climb).link.untaken ≠ none ∧ (buffered 0x01 1 [] climb).link.rx.length < 2) ∧
    (lawful.link.untaken ≠ some ⟨0x03, 3, [0, 0], none⟩ ∧ 2 ≤ lawful.link.rx.length ∧ lawful.mc.mode ≠ .standby) ∧
    ((∀ k ∈ [(0x00 : Byte), 0x01, 0x03], State.reset.link.untaken ≠ some ⟨k, 3, [], none⟩) ∧ State.reset.link.untaken = none ∧
      State.reset.link.rx.length < 2 ∧ (0x00 : Byte).toNat = 0 ∧ request? (.unknownKind 0x00 3 []) = none ∧
      request? (.status 3 []) = some (0x01, 3, []) ∧ lengthFits 0x01 0 = true ∧ lengthFits 0x03 0 = false ∧
      lengthFits 0x03 2 = true) ∧
    (let s := { State.reset with link := lawful.link }
     s.mc.mode = .standby ∧ s.link.untaken ≠ some ⟨0x01, 3, [], none⟩ ∧ s.link.untaken ≠ none ∧
     2 ≤ s.link.rx.length) := by
  decide +kernel

theorem witness_TransmitterSendsRepliesBeforeReports :
    lawful.link.tx = some ⟨true, []⟩ ∧
    ({ lawful.link with tx := none, rx := freePlace lawful.link.rx } : LinkPort).pendingReply = none ∧
    lawful.link.reports = .mode .park .park :: List.replicate 15 (.mode .park .park) ∧
    (let l := { lawful.link with tx := some ⟨false, []⟩ }
     ({ l with tx := none } : LinkPort).pendingReply = some (⟨0x01, 1, [], some [0x00]⟩, [0x00])) ∧
    (let l := { LinkPort.reset with tx := some ⟨false, []⟩ }
     ({ l with tx := none } : LinkPort).pendingReply = none ∧ l.reports = []) ∧
    State.reset.link.reports.length < 16 ∧ 16 ≤ lawful.link.reports.length ∧
    LinkPort.reset.tx = none ∧ LinkPort.reset.rx = [] ∧
    lawful.link.rx = [⟨0x01, 1, [], some [0x00]⟩, ⟨0x04, 2, [0, 0], none⟩] ∧
    (buffered 0x01 1 [] climb).link.rx = [⟨0x01, 1, [], none⟩] ∧
    (∃ t, exec .wakeInactive State.reset = .next t ∧ t.link.tx = none) :=
  ⟨rfl, rfl, rfl, rfl, ⟨rfl, rfl⟩, by decide, by decide, rfl, rfl, rfl, rfl, ⟨_, rfl, rfl⟩⟩

/-- Table 11-8: the lengths of the five bodies, and a UNIT report written out from it: M, HOLD_TAKEN of STALL, reach ABSENT, height
DOWN and spin ON, SPINNING_DOWN, two holds. -/
theorem test_report_bodies :
    ([Report.mode .work .work, .condition .overspeed .clear .present 1 0, .zone 7 31 5 .skipped,
      .unit .m (.holdTaken .stall) .absent .down .on .spinningDown [.lift, .stall], .recipe 2 31 .zone].map
        fun r => (r.kind, (r.body false).length)) = [(0x40, 3), (0x41, 6), (0x42, 8), (0x43, 11), (0x44, 4)] ∧
    Report.body true (.unit .m (.holdTaken .stall) .absent .down .on .spinningDown [.lift, .stall]) =
      [0x01, 2, 2, 3, 0xD2, 7, 2, 2, 3, 0xFF, 0xFF] := by
  decide

theorem witness_RequestsAreCheckedBeforeTheyAreJudged :
    ((0x00 : Byte).toNat = 0 ∧ Ready 0x00 1 [] (buffered 0x00 1 [] State.reset) ∧ 0x18 < (0x19 : Byte).toNat ∧ Ready 0x19 1 [7] (inMode .settle)) ∧
    (request? (.paceWrite 2 (List.replicate 27 0)) = some (0x0C, 2, List.replicate 27 0) ∧
      lengthFits 0x0C (List.replicate 27 (0 : Byte)).length = false ∧ Ready 0x0C 2 (List.replicate 27 0) (buffered 0x0C 2 (List.replicate 27 0) State.reset)) ∧
    (request? (.restart 2 [0]) = some (0x18, 2, [0]) ∧ lengthFits 0x18 [(0 : Byte)].length = false ∧
      Ready 0x18 2 [0] (inMode .settle)) ∧
    (request? (.setMode 2 [2]) = some (0x02, 2, [2]) ∧ (0x02 : Byte) ≠ 0x01 ∧ lengthFits 0x02 1 = true ∧
      Ready 0x02 2 [2] (inMode .settle) ∧ (inMode .settle).mc.mode = .settle) := by
  unfold Ready; decide

theorem witness_RequestsAreRefusedByMode :
    (request? (.setOdometer 2 [0, 0, 0, 1]) = some (0x16, 2, [0, 0, 0, 1]) ∧ lengthFits 0x16 4 = true ∧
      Ready 0x16 2 [0, 0, 0, 1] (buffered 0x16 2 [0, 0, 0, 1] State.reset) ∧ State.reset.mc.mode = .standby ∧
      (0x16 : Byte) ∈ ([0x02, 0x03, 0x04, 0x16, 0x18] : List Byte)) ∧
    (request? (.setupWrite 2 [0, 0, 0, 1]) = some (0x05, 2, [0, 0, 0, 1]) ∧ lengthFits 0x05 4 = true ∧
      Ready 0x05 2 [0, 0, 0, 1] (inMode .parking) ∧ (inMode .parking).mc.mode ≠ .standby ∧
      (inMode .parking).mc.mode ≠ .park ∧ (inMode .parking).mc.mode ≠ .settle) := by
  unfold Ready; decide

theorem witness_StatusAnswersTheStandingValues :
    Ready 0x01 7 [] climb ∧ Ready 0x01 7 [] (buffered 0x01 7 [] State.reset) ∧
    (let s := { climb with pcu := { climb.pcu with wl := ⟨0, -32768, true, 0, 0⟩, wr := ⟨0, 32767, true, 0, 0⟩ } }
     Ready 0x01 7 [] s ∧ -32768 ≤ s.pcu.wl.speed ∧ s.pcu.wl.speed ≤ 32767 ∧ -32768 ≤ s.pcu.wr.speed ∧
     s.pcu.wr.speed ≤ 32767) := by
  unfold Ready; decide

/-- R4, R5: a request that arrives in STANDBY wakes the part and is answered BUSY in SETTLE. -/
theorem test_request_wakes_the_part :
    let s := takeRequest 0x04 9 [0, 0] (guarded true (notInStandby (takeSupply 0))) State.reset
    (s.mc.mode, s.link.rx) = (.settle, [⟨0x04, 9, [0, 0], some [0x10]⟩]) := by
  decide +kernel

/-- R166: a request that arrives by its own row has ended its frame; the receiver, which a gap left in a frame, waits for a SYNC. -/
theorem test_request_ends_its_frame :
    let s := gapDiscard 0xC3 climb
    (s.link.receiver, (takeRequest 0x04 9 [0, 0] (guarded true (notInStandby (takeSupply 0))) s).link.receiver) =
      (.inFrame, .waitSync) := by
  decide +kernel

/-! ### The Pulse Capture Unit -/

theorem witness_PulseEdgesAreCountedBySignAndSaturate :
    State.reset.mc.mode = .standby ∧ climb.mc.mode ≠ .standby ∧ PulseChannel.bm ∈ [PulseChannel.bl, .br, .bm] ∧
    (PulseChannel.bl, BrushUnit.l) ∈ [(PulseChannel.bl, BrushUnit.l), (.br, .r), (.bm, .m)] := by
  decide

/-- R16: a count at its limit stays there until the gate ends. -/
theorem test_saturated_count_stays :
    [counted 32767, counted 32766, counted (-32768), counted (-32767)].map (fun w => ((w.counted 1).count, (w.counted (-1)).count)) =
      [(32767, 32767), (32767, 32765), (-32768, -32768), (-32766, -32768)] := by
  decide

/-- A wheel that is excluded. -/
def excluded (n : Int) (run : Nat) : Wheel := ⟨n, 0, false, 0, run⟩

theorem witness_WheelGateFormsSpeedAndDistance :
    (Wheel.cleared.included = true ∧ (excluded 0 0).included = false) ∧
    ((counted 0).included = true ∧ (counted (-3)).included = true ∧ (counted 0).count = 0 ∧ 3 ≤ |(counted (-3)).count| ∧
      (counted 0).faultRun + 1 < 50) ∧
    50 ≤ ({ counted 0 with faultRun := 49 } : Wheel).faultRun + 1 ∧
    ¬ ((counted 0).count = 0 ∧ 3 ≤ |(counted 2).count|) ∧
    ((excluded 0 4).count = 0) ∧ ((excluded (-1) 3).count ≠ 0 ∧ (excluded (-1) 3).readmitRun + 1 < 5) ∧
    ((excluded 1 4).count ≠ 0 ∧ 5 ≤ (excluded 1 4).readmitRun + 1) ∧
    ({ climb with pcu := { climb.pcu with wheelGateTimer := some 20000 } }.pcu.wheelGateTimer = some 20000) ∧
    (0 : Int) < 10 := by
  decide

/-- The climb with unit L's activity, spin-down timer and brush as given. -/
def unitL (act : Activity) (due : Timer) (c rpm : Int) : State := { climb with
  arms := { climb.arms with units := climb.arms.units.set .l { ArmUnit.reset .isIn with
    activity := act, spinDownTimer := due } }
  brush := { climb.brush with units := climb.brush.units.set .l { BrushRec.reset with c := c } }
  pcu := { climb.pcu with brushRpm := ⟨rpm, 0, 0⟩ } }

theorem witness_BrushGateMeasuresTheBrushes :
    ({ climb with pcu := { climb.pcu with brushGateTimer := some 100000 } }.pcu.brushGateTimer = some 100000 ∧
      0 < climb.setup.ppr) ∧
    (let s := unitL .spinningUp none 40 20
     (s.armOf .l).activity = .spinningUp ∧ s.setup.stopRpm .l ≤ s.pcu.brushRpm.get .l) ∧
    (let s := unitL .spinningUp none 40 19
     (s.armOf .l).activity = .spinningUp ∧ s.pcu.brushRpm.get .l < s.setup.stopRpm .l) ∧
    (let s := unitL .spinningDown (some 1500000) 0 0
     (s.armOf .l).activity = .spinningDown ∧ (s.brushOf .l).c = 0 ∧ s.pcu.brushRpm.get .l = 0 ∧
     (s.armOf .l).spinDownTimer = some 1500000) ∧
    (let s := unitL .spinningDown none 0 1
     (s.armOf .l).activity = .spinningDown ∧ ¬ ((s.brushOf .l).c = 0 ∧ s.pcu.brushRpm.get .l = 0)) ∧
    (let s := unitL .idle (some 1500000) 0 0
     (s.armOf .l).activity ≠ .spinningUp ∧ (s.armOf .l).activity ≠ .spinningDown ∧
     (s.armOf .l).spinDownTimer = some 1500000) := by
  decide

theorem witness_SetOdometerNeedsAnEmptyZoneQueue :
    (Ready 0x16 1 [0xFF, 0xFF, 0xFF, 0xFF] (inMode .settle) ∧ (inMode .settle).mc.mode = .settle) ∧
    (Ready 0x16 1 [0, 0, 0, 0] (buffered 0x16 1 [0, 0, 0, 0] State.reset) ∧ State.reset.mc.mode = .standby) ∧
    (let s := { inMode .park with recipes := { Recipes.reset with zones := [⟨5, 0, 0⟩] } }
     Ready 0x16 1 [0, 0, 0, 0] s ∧ s.mc.mode ≠ .settle ∧ s.mc.mode ≠ .standby ∧ s.recipes.zones ≠ []) ∧
    (Ready 0x16 1 [0xFF, 0xFF, 0xFF, 0xFF] (inMode .work) ∧ (inMode .work).mc.mode ≠ .settle ∧
      (inMode .work).mc.mode ≠ .standby ∧ (inMode .work).recipes.zones = []) := by
  unfold Ready; decide

/-! ### The Drive Regulator -/

theorem witness_TravelStoresTheRequestedSpeed :
    (Ready 0x03 1 [0x2A, 0xF8] (inMode .settle) ∧ (inMode .settle).mc.mode = .settle) ∧
    (Ready 0x03 1 [0, 0] (buffered 0x03 1 [0, 0] State.reset) ∧ State.reset.mc.mode = .standby) ∧
    (Ready 0x03 1 [0x80, 0x00] (inMode .park) ∧ (inMode .park).mc.mode ≠ .settle ∧ (inMode .park).mc.mode ≠ .standby) ∧
    Ready 0x03 1 [0x2A, 0xF9] climb ∧
    { climb with drive := { climb.drive with requestTimer := some 300000 } }.drive.requestTimer = some 300000 := by
  unfold Ready; decide

/-- The climb with a drive period due. -/
def periodDue (m : Mode) : State := { inMode m with drive := { climb.drive with periodTimer := some 10000 } }

theorem witness_DrivePeriodRunsTheStagesOrRests :
    ((periodDue .settle).drive.periodTimer = some 10000 ∧ (periodDue .settle).mc.mode = .settle ∧
      (periodDue .park).mc.mode = .park) ∧
    ((periodDue .transport).mc.mode = .transport ∧ (periodDue .work).mc.mode = .work ∧
      (periodDue .stowing).mc.mode = .stowing ∧ (periodDue .parking).mc.mode = .parking) ∧
    0 ≤ climb.setup.corrMax ∧
    (Drive.reset.ramped = 0 ∧ State.reset.stopped = true) ∧
    (¬ (climb.drive.ramped = 0 ∧ climb.stopped = true) ∧ climb.arb.consumers.drive.share < 1000) ∧
    (¬ (climb.drive.ramped = 0 ∧ State.reset.stopped = true) ∧ 1000 ≤ State.reset.arb.consumers.drive.share ∧
      climb.drive.clampFlag = false) ∧
    0 < climb.drive.ramped ∧ ({ climb.drive with ramped := -1 } : Drive).ramped < 0 ∧
    (0 ≤ State.reset.arb.consumers.drive.share ∧ State.reset.arb.consumers.drive.share ≤ 1000) ∧
    (Drive.reset.dispCmd = 0) ∧
    (climb.drive.dispCmd ≠ 0 ∧ climb.sensor .drivePB ≤ climb.sensor .drivePA) ∧
    (({ climb.drive with dispCmd := -1 } : Drive).dispCmd ≠ 0 ∧ climb.sensor .drivePB < climb.sensor .drivePA) := by
  decide

/-- A vehicle in WORK that has been held to a direction and is asked for a speed. -/
def asked (requested ramped sample : Int) (dwell : Option Dwell) : State := { inMode .work with
  pcu := { PulseCapture.reset with sample := sample, direction := directionOf sample }
  drive := { Drive.reset with requested := requested, ramped := ramped, held := some .forward, dwell := dwell } }

theorem witness_ReversalWaitsForStandstillAndDwell :
    (0 ≤ (asked 0 0 0 none).cap ∧ 0 ≤ (asked 0 0 0 none).reverseLimit) ∧
    (let s := asked 5 0 0 none
     ¬ (s.drive.held = some .forward ∧ max (-s.reverseLimit) (min s.cap s.drive.requested) < 0)) ∧
    (let s := asked (-1) 600 50 none
     s.stopped = false ∧ s.pcu.direction = .forward ∧ max (-s.reverseLimit) (min s.cap s.drive.requested) < 0) ∧
    (let s := asked (-1) 0 49 (some ⟨.reverse, 300000⟩)
     s.stopped = true ∧ s.drive.dwell ≠ none ∧ max (-s.reverseLimit) (min s.cap s.drive.requested) < 0) ∧
    (let s := asked (-1) 1 49 none
     s.stopped = true ∧ s.drive.dwell = none ∧ s.drive.ramped ≠ 0) ∧
    (let s := asked (-1) 0 (-49) none
     s.stopped = true ∧ s.drive.dwell = none ∧ s.drive.ramped = 0 ∧ s.setup.dwell ≠ 0) ∧
    (let s := { asked (-1) 0 0 none with setup := { Setup.defaults with drive := Setup.defaults.drive.set 4 0 } }
     s.stopped = true ∧ s.drive.dwell = none ∧ s.drive.ramped = 0 ∧ s.setup.dwell = 0 ∧
     max (-s.reverseLimit) (min s.cap s.drive.requested) < 0) ∧
    (asked 0 0 0 (some ⟨.reverse, 300000⟩)).drive.dwell = some ⟨.reverse, 300000⟩ := by
  decide

/-- A drive with its ramp and target as given, and the steps 5 and 10. -/
def ramp (r t : Int) : Drive := { Drive.reset with ramped := r, target := t }

theorem witness_RampMovesTowardTheTarget :
    (0 < (ramp 0 0).accelStep ∧ 0 < (ramp 0 0).decelStep) ∧ ((ramp 7 7).target = (ramp 7 7).ramped) ∧
    ((ramp 0 (-5)).target ≠ 0 ∧ |(ramp 0 (-5)).target| ≤ (ramp 0 (-5)).accelStep) ∧
    (0 < (ramp 0 6).target ∧ (ramp 0 6).accelStep < |(ramp 0 6).target|) ∧
    ((ramp 0 (-6)).target < 0 ∧ (ramp 0 (-6)).accelStep < |(ramp 0 (-6)).target|) ∧
    (0 < (ramp 1 2).ramped ∧ (ramp 1 2).ramped < (ramp 1 2).target) ∧
    ((ramp (-1) (-2)).ramped < 0 ∧ (ramp (-1) (-2)).target < (ramp (-1) (-2)).ramped) ∧
    (0 < (ramp 1 0).ramped ∧ 0 ≤ (ramp 1 0).target ∧ (ramp 1 0).target < (ramp 1 0).ramped) ∧
    ((ramp (-1) 0).ramped < 0 ∧ (ramp (-1) 0).target ≤ 0 ∧ (ramp (-1) 0).ramped < (ramp (-1) 0).target) ∧
    (0 < (ramp 1 (-1)).ramped ∧ (ramp 1 (-1)).target < 0) ∧ ((ramp (-1) 1).ramped < 0 ∧ 0 < (ramp (-1) 1).target) := by
  decide

/-- A vehicle in TRANSPORT at a speed; the limits are 12100 and −1650. -/
def atSpeed (v : Int) (flag : Bool) : State := { inMode .transport with
  pcu := { PulseCapture.reset with sample := v }, drive := { Drive.reset with overspeed := flag } }

theorem witness_OverspeedHasATenthOfHysteresis :
    (let s := atSpeed 12101 false
     s.mc.mode = .transport ∧ s.drive.overspeed = false ∧ s.cap + s.cap.tdiv 10 < s.pcu.sample) ∧
    (let s := atSpeed (-1651) false
     s.drive.overspeed = false ∧ s.pcu.sample < -(s.reverseLimit + s.reverseLimit.tdiv 10)) ∧
    (let s := atSpeed 12100 false
     s.drive.overspeed = false ∧
     ¬ (s.cap + s.cap.tdiv 10 < s.pcu.sample ∨ s.pcu.sample < -(s.reverseLimit + s.reverseLimit.tdiv 10))) ∧
    (let s := atSpeed 11000 true
     s.drive.overspeed = true ∧ -s.reverseLimit ≤ s.pcu.sample ∧ s.pcu.sample ≤ s.cap) ∧
    (let s := atSpeed 11001 true
     s.drive.overspeed = true ∧ s.cap < s.pcu.sample) ∧
    ¬ ((inMode .parking).mc.mode = .transport ∨ (inMode .parking).mc.mode = .work ∨ (inMode .parking).mc.mode = .stowing) := by
  decide

/-! ### The Brush Speed Unit and the pace tables -/

/-- The climb with unit L's brush record as given. -/
def withBrush (b : BrushRec) : State := { climb with brush := { climb.brush with units := climb.brush.units.set .l b } }

theorem paceOne_rises : ∀ j k, j < k → k < paceOne.count → paceOne.bound j < paceOne.bound k := by
  have h : ∀ k < 5, ∀ j < k, paceOne.bound j < paceOne.bound k := by decide
  exact fun j k hj hk => h k hk j hj

theorem witness_SpeedSampleSelectsSegmentAndTarget :
    (((0 : Int) ≤ 3200 ∧ 1 ≤ paceOne.count ∧ paceOne.count ≤ 6 ∧ 4 < paceOne.count ∧ paceOne.bound 0 = 0 ∧
      0 ≤ paceOne.hysteresis ∧ ∀ j k, j < k → k < paceOne.count → paceOne.bound j < paceOne.bound k)) ∧
    (let b := { BrushRec.reset with spin := .on, c := 40 }
     min ((paceTable (withBrush b) .l).rate 4) ((withBrush b).setup.rpmFull .l) ≠ b.t ∧ BrushRec.reset.t = 0) ∧
    (let s := withBrush { BrushRec.reset with t := 39 }
     (s.brushOf .l).c = 0 ∧ (s.brushOf .l).t < s.setup.startRpm .l) ∧
    (let s := withBrush { BrushRec.reset with t := 40, rampTimer := some ⟨.up, 200000⟩ }
     (s.brushOf .l).rampTimer = some ⟨.up, 200000⟩ ∧
     ¬ ((s.brushOf .l).c = (s.brushOf .l).t ∨ ((s.brushOf .l).c = 0 ∧ (s.brushOf .l).t < s.setup.startRpm .l))) ∧
    (let s := withBrush { BrushRec.reset with t := 40 }
     (s.brushOf .l).rampTimer = none ∧ rateInterval s.brush.upRate = some 200) ∧
    (let s := { withBrush { BrushRec.reset with t := 40 } with
       brush := { (withBrush { BrushRec.reset with t := 40 }).brush with upRate := 4 } }
     (s.brushOf .l).rampTimer = none ∧ rateInterval s.brush.upRate = none) :=
  ⟨⟨by decide, by decide, by decide, by decide, by decide, by decide, paceOne_rises⟩, by decide, by decide +kernel,
    by decide, by decide +kernel, by decide +kernel⟩

/-- R60: DIRECT acts at the recipe change that makes the needed direction's rate DIRECT, and a later change of equal fields
leaves the command. -/
theorem test_direct_acts_when_it_comes :
    let f := RecipeFields.defaults.set 7 4
    let s := withBrush { BrushRec.reset with t := 60 }
    (((brushRecipe f s).brushOf .l).c, ((brushRecipe f { s with brush := { s.brush with upRate := 4 } }).brushOf .l).c) =
      (60, 0) := by
  decide

/-- R59: DIRECT takes the place of a timer that runs in the needed direction. -/
theorem test_direct_replaces_a_running_timer :
    let b := { BrushRec.reset with c := 40, t := 90, rampTimer := some ⟨.up, 200000⟩ }
    let s := withBrush b
    let x := (examineRamp .l { s with brush := { s.brush with upRate := 4 } }).brushOf .l
    (x.c, x.rampTimer) = (90, none) := by
  decide

theorem witness_BrushRampTakesOneStep :
    (let s := withBrush { BrushRec.reset with t := 40, rampTimer := some ⟨.up, 200000⟩ }
     (s.brushOf .l).rampTimer = some ⟨.up, 200000⟩ ∧
     (let n := setBrushCommand .l 40 ((s.atTime 200000).putBrush .l { s.brushOf .l with rampTimer := none })
      (n.brushOf .l).c = (n.brushOf .l).t)) ∧
    (let s := withBrush { BrushRec.reset with t := 41, rampTimer := some ⟨.up, 200000⟩ }
     (s.brushOf .l).rampTimer = some ⟨.up, 200000⟩ ∧
     (let n := setBrushCommand .l 40 ((s.atTime 200000).putBrush .l { s.brushOf .l with rampTimer := none })
      ¬ ((n.brushOf .l).c = (n.brushOf .l).t ∨ ((n.brushOf .l).c = 0 ∧ (n.brushOf .l).t < s.setup.startRpm .l)))) ∧
    (0 : Int) = ((withBrush BrushRec.reset).brushOf .l).c ∧ (40 : Int) ≠ ((withBrush BrushRec.reset).brushOf .l).c := by
  decide

/-- Unit L with a command and a target, and both rates as given. -/
def ramping (c t rate : Int) : State :=
  { withBrush { BrushRec.reset with c := c, t := t } with
    brush := { (withBrush { BrushRec.reset with c := c, t := t }).brush with upRate := rate, downRate := rate } }

theorem witness_RampRestartsInTheNeededDirection :
    ([0, 1, 2, 3, 4].map fun r => (ramping 0 41 r).brush.upRate) = [0, 1, 2, 3, 4] ∧
    ([0, 1, 2, 3, 4].map fun r => (ramping 41 0 r).brush.downRate) = [0, 1, 2, 3, 4] ∧
    (let b (c t : Int) := (ramping c t 4).brushOf .l
     let up := State.reset.setup.startRpm .l
     let cut := State.reset.setup.stopRpm .l
     ((b 0 (up - 1)).c < (b 0 (up - 1)).t ∧ (b 0 (up - 1)).c = 0) ∧
     ((b 0 up).c < (b 0 up).t ∧ up ≤ (b 0 up).t) ∧ ((b 1 up).c < (b 1 up).t ∧ (b 1 up).c ≠ 0) ∧
     ((b up (cut - 1)).c ≠ (b up (cut - 1)).t ∧ ¬ (b up (cut - 1)).c < (b up (cut - 1)).t ∧ (b up (cut - 1)).t < cut) ∧
     ((b up cut).c ≠ (b up cut).t ∧ ¬ (b up cut).c < (b up cut).t ∧ cut ≤ (b up cut).t)) := by
  decide

theorem witness_BrushOutputIsScaledOrStarved :
    (let s := brushR 50 50 300
     (s.brushOf .r).starved = false ∧ 0 ≤ (s.brushOf .r).c ∧ 0 ≤ brushShare s .r ∧ brushShare s .r ≤ 1000 ∧
     0 < ((s.brushOf .r).c * brushShare s .r).tdiv 1000 ∧ ((s.brushOf .r).c * brushShare s .r).tdiv 1000 < s.setup.stopRpm .r) ∧
    (let s := brushR 50 20 1000
     (s.brushOf .r).starved = false ∧ s.setup.stopRpm .r ≤ ((s.brushOf .r).c * brushShare s .r).tdiv 1000) ∧
    BrushUnit.l ≠ .r ∧
    (((brushR 50 50 300).brushOf .r).out ≠ 0 ∧ ((brushR 50 0 300).brushOf .r).out = 0 ∧
      ((brushR 50 50 300).brushOf .l).out = 0 ∧ ((brushR 50 0 300).brushOf .l).out = 0 ∧
      ((brushR 50 0 300).brushOf .m).out = 0) := by
  decide

/-- The climb with unit L's brush driven at an output, measured at an rpm. -/
def turning (b : BrushRec) (rpm : Int) : State :=
  { withBrush b with pcu := { climb.pcu with brushRpm := ⟨rpm, 0, 0⟩ } }

theorem witness_StallAndLagAreWatched :
    (let s := turning { BrushRec.reset with stalled := true, out := 40 } 1
     (s.brushOf .l).stalled = true ∧ 0 < s.pcu.brushRpm.get .l) ∧
    (let s := turning { BrushRec.reset with stalled := true, out := 39 } 0
     (s.brushOf .l).stalled = true ∧ (s.brushOf .l).out < s.setup.startRpm .l) ∧
    (let s := turning { BrushRec.reset with stalled := true, out := 40 } 0
     ¬ ((s.brushOf .l).stalled = true ∧ (0 < s.pcu.brushRpm.get .l ∨ (s.brushOf .l).out < s.setup.startRpm .l))) ∧
    (let s := turning { BrushRec.reset with stallTimer := some 2000000, out := 40 } 0
     (s.brushOf .l).stallTimer = some 2000000 ∧ s.cond.get (.brushStall .l) ≠ .present ∧
     ({ s with cond := s.cond.set (.brushStall .l) .present }).cond.get (.brushStall .l) = .present) ∧
    (let s := turning { BrushRec.reset with out := 110 } 89
     s.pcu.brushRpm.get .l < (s.brushOf .l).out - s.setup.lagMargin) ∧
    (let s := turning { BrushRec.reset with out := 110 } 90
     ¬ s.pcu.brushRpm.get .l < (s.brushOf .l).out - s.setup.lagMargin ∧ (s.brushOf .l).lagging = false) ∧
    (let s := turning { BrushRec.reset with out := 110, lagging := true, lagTimer := some 5000000 } 90
     ¬ s.pcu.brushRpm.get .l < (s.brushOf .l).out - s.setup.lagMargin ∧ (s.brushOf .l).lagging = true ∧
     (s.brushOf .l).lagTimer = some 5000000) := by
  decide

theorem witness_SpinAndHeightNoticesCutTheCommand :
    ((withBrush { BrushRec.reset with reselect := true }).brushOf .l).reselect = true ∧
    ((withBrush BrushRec.reset).brushOf .l).reselect = false ∧ (Spin.on = .spinningUp ∨ Spin.on = .on) := by
  decide

/-- The body of a PACE_WRITE of table 3 with hysteresis 501 and two segments, 0 to 40 rpm and 11000 to 300 rpm. -/
def paceBody : List Byte :=
  [3, 0x01, 0xF5, 2, 0, 0, 0, 40, 0x2A, 0xF8, 0x01, 0x2C, 0, 0, 0, 0, 0, 0, 0, 0, 0, 0, 0, 0, 0, 0, 0, 0]

/-- The six places of that body. -/
def pacePlaces : Vector (Byte × Byte × Byte × Byte) 6 :=
  #v[(0, 0, 0, 40), (0x2A, 0xF8, 0x01, 0x2C), (0, 0, 0, 0), (0, 0, 0, 0), (0, 0, 0, 0), (0, 0, 0, 0)]

theorem witness_PaceTablesAreReplacedWholeAndRead :
    paceBody = [3, 0x01, 0xF5, 2] ++ pacePlaces.toList.flatMap (fun p => [p.1, p.2.1, p.2.2.1, p.2.2.2]) ∧
    Ready 0x0C 1 paceBody (inMode .settle) ∧ Ready 0x0C 1 paceBody climb ∧ climb.mc.mode ≠ .settle ∧
    (let bound (i : Nat) : Int := (pacePlaces.toList.map fun p => i16 p.1 p.2.1)[i]?.getD 0
     let rate (i : Nat) : Int := (pacePlaces.toList.map fun p => i16 p.2.2.1 p.2.2.2)[i]?.getD 0
     (3 : Byte).toNat < 4 ∧ 1 ≤ (2 : Byte).toNat ∧ (2 : Byte).toNat ≤ 6 ∧ bound 0 = 0 ∧
     (∀ i < 1, bound i < bound (i + 1)) ∧ (∀ i < 2, bound i ≤ 11000) ∧ ∀ i < 2, 0 ≤ rate i ∧ rate i ≤ 300) ∧
    ¬ (4 : Byte).toNat < 4 ∧
    Ready 0x0D 1 [4] climb ∧ 3 < (4 : Byte).toNat ∧ Ready 0x0D 1 [3] climb ∧ (3 : Fin 4).val = (3 : Byte).toNat := by
  unfold Ready; decide

/-! ### The Arm Sequencer -/

/-- A unit that works: OUT, DOWN and ON. -/
def working : ArmUnit :=
  { ArmUnit.reset .out with height := .down, spin := .on, baseWorking := true, goal := ⟨true, true, true⟩ }

/-- A state in a mode with unit L as given. -/
def withArm (m : Mode) (a : ArmUnit) : State :=
  { inMode m with arms := { Arms.reset with units := Arms.reset.units.set .l a } }

/-- A unit that is stowed, with its reach as given. -/
def stowed (r : Reach) : ArmUnit := { ArmUnit.reset r with height := .up, spin := .off }

theorem witness_PostureChangesAreNotified :
    Height.down = working.height ∧ Reach.out = working.reach ∧ Spin.on = working.spin ∧ Reach.unknown ≠ working.reach ∧
    Spin.off ≠ working.spin ∧ Height.unknown ≠ working.height ∧ working.height = .down ∧
    Height.down ≠ (ArmUnit.reset .out).height ∧ working.spin ≠ .off ∧ BrushUnit.r ≠ .l ∧
    (let s := { inMode .stowing with arms := { Arms.reset with units := ⟨{ stowed .isIn with spin := .spinningDown },
       stowed .isIn, stowed .absent⟩ } }
     s.mc.mode = .stowing ∧ Spin.off ≠ (s.armOf .l).spin ∧ (setSpin .l .off s).allStowed = true) ∧
    (let s := { inMode .stowing with arms := { Arms.reset with units := ⟨{ stowed .isIn with height := .unknown },
       stowed .isIn, stowed .absent⟩ } }
     Height.up ≠ (s.armOf .l).height ∧ (setHeight .l .up s).allStowed = true) ∧
    (let s := { inMode .stowing with arms := { Arms.reset with units := ⟨{ stowed .isIn with reach := .out },
       stowed .isIn, stowed .absent⟩ } }
     Reach.isIn ≠ (s.armOf .l).reach ∧ (setReach .l .isIn s).allStowed = true) ∧
    (let s := { inMode .transport with arms := { Arms.reset with units := ⟨stowed .isIn, stowed .isIn, stowed .absent⟩ } }
     s.mc.mode = .transport ∧ (setReach .l .unknown s).allStowed = false ∧ (setHeight .l .unknown s).allStowed = false ∧
     (setSpin .l .on s).allStowed = false) := by
  decide

/-- R8, R12: the SPIN_DOWN that stows the last unit enters TRANSPORT, and a reach lost in TRANSPORT enters PARKING. -/
theorem test_posture_ends_stowing_and_transport :
    let units (a : ArmUnit) : PerUnit ArmUnit := ⟨a, stowed .isIn, stowed .absent⟩
    let s := { inMode .stowing with arms := { Arms.reset with units := units { stowed .isIn with spin := .spinningDown } } }
    let x := { inMode .transport with clock := 7, arms := { Arms.reset with units := units (stowed .isIn) } }
    (setSpin .l .off s).mc = ⟨.transport, .transport, none, none⟩ ∧
    (setReach .l .unknown x).mc = ⟨.parking, .park, none, some 500007⟩ := by
  decide

theorem witness_HoldsShapeTheGoal :
    (let s := withArm .work { working with holds := [.lift, .sensed] }
     Hold.lift ∈ (s.armOf .l).holds ∧ Hold.stall ∉ (s.armOf .l).holds) ∧
    (let s := withArm .work { working with holds := [.lift, .sensed] }
     let x := withArm .work working
     (x.mc.mode = .work ∧ x.arms.unitsMask.get .l = true ∧ (x.armOf .l).holds = [] ∧ ⟨true, true, true⟩ = (x.armOf .l).goal) ∧
     ⟨false, false, false⟩ ≠ (s.armOf .l).goal) := by
  decide

/-- R72, R79: a stowed unit of the units mask plans its swing out when its goal becomes WORKING, and nothing again after it. -/
theorem test_change_of_goal_plans :
    let x := reformGoal .l (withArm .work (stowed .isIn))
    ((x.armOf .l).goal, (x.armOf .l).activity, x.arms.queue, (reformGoal .l x).arms.queue) =
      (⟨true, true, true⟩, .waiting, [⟨.l, .swingOut⟩], [⟨.l, .swingOut⟩]) := by
  decide

theorem witness_HoldsAreTakenByHostAndCurb :
    (Instr.releaseKnock 5 [2, 3] ∈ [Instr.setLift 5 [2, 3], .releaseLift 5 [2, 3], .releaseSensed 5 [2, 3],
        .releaseKnock 5 [2, 3]] ∧ Ready 0x13 5 [2, 3] climb ∧ climb.mc.mode ≠ .settle ∧ 2 ≤ (3 : Byte).toNat) ∧
    (Ready 0x13 5 [3, 0] climb ∧ 2 < (3 : Byte).toNat) ∧ (Ready 0x13 5 [0, 4] climb ∧ 3 < (4 : Byte).toNat) ∧
    (Ready 0x13 5 [2, 0] climb ∧ (2 : Byte).toNat = unitNumber .m) ∧ (Ready 0x13 5 [1, 1] climb ∧ (1 : Byte).toNat = unitNumber .r) ∧
    (Ready 0x13 5 [0, 2] climb ∧ BrushUnit.l ≠ .m ∧ .sensed ∉ (climb.armOf .l).holds) ∧
    (let s := withArm .work { working with holds := [.sensed], releaseTimer := some 500000 }
     let h := s.holding 0x13 5 [0, 2]
     let freed := releaseHold .l .sensed (h.putArm .l { s.armOf .l with releaseTimer := none })
     Ready 0x13 5 [0, 2] s ∧ .sensed ∈ (s.armOf .l).holds ∧ s.setup.obstacle ≤ freed.sensor (curbRole .l) ∧
     (s.armOf .l).releaseTimer = some 500000) := by
  unfold Ready; decide

/-- A working unit L in WORK, with SENSED held or not, and its curb channel OK at a reading. -/
def curbAt (v : Int) (held : Bool) (t : Timer) : State :=
  { withArm .work { working with holds := if held then [.sensed] else [], releaseTimer := t } with
    sensors := { SensorMaster.reset with channels := { SensorMaster.reset.channels with curbL := reading v } } }

theorem witness_CurbReadingsTakeAndReleaseSensed :
    ((let s := curbAt 149 true none
      let h := s.holding 0x13 5 [0, 2]
      (releaseHold .l .sensed (h.putArm .l { s.armOf .l with releaseTimer := none })).sensor (curbRole .l) < s.setup.obstacle) ∧
     .sensed ∈ ((curbAt 149 true none).armOf .l).holds) ∧
    (let s := curbAt 149 false none
     .sensed ∉ (s.armOf .l).holds ∧ s.sensor (curbRole .l) < s.setup.obstacle) ∧
    (let s := curbAt 150 false none
     .sensed ∉ (s.armOf .l).holds ∧ s.setup.obstacle ≤ s.sensor (curbRole .l)) ∧
    (let s := curbAt 249 true none
     .sensed ∈ (s.armOf .l).holds ∧
     ¬ (s.usable (curbRole .l) = true ∧ s.setup.obstacle + s.setup.releaseMm ≤ s.sensor (curbRole .l))) ∧
    (let s := curbAt 250 true (some 500000)
     .sensed ∈ (s.armOf .l).holds ∧ s.usable (curbRole .l) = true ∧
     s.setup.obstacle + s.setup.releaseMm ≤ s.sensor (curbRole .l) ∧ (s.armOf .l).releaseTimer ≠ none) ∧
    (let s := curbAt 250 true none
     s.usable (curbRole .l) = true ∧ s.setup.obstacle + s.setup.releaseMm ≤ s.sensor (curbRole .l) ∧
     (s.armOf .l).releaseTimer = none) := by
  decide

/-- Table 5-9: the release timer that a reading in STANDBY started is stopped at waking, and the hold stays. -/
theorem test_release_timer_stops_at_waking :
    let s := curbAt 250 true (some 500000)
    let x := (wake { s with mc := ⟨.standby, .standby, none, none⟩ }).armOf .l
    (x.releaseTimer, x.holds) = (none, [.sensed]) := by
  decide +kernel

theorem witness_PlannerTakesTheFirstLineThatApplies :
    (nextAction .l { working with activity := .idle } = none ∧ nextAction .l { working with activity := .waiting } = none) ∧
    nextAction .l { working with spin := .off } = some .spinUp ∧
    nextAction .l { working with goal := Goal.stowed } = some .spinDown ∧
    nextAction .l { ArmUnit.reset .isIn with goal := ⟨true, true, true⟩, activity := .waiting } = some (.cyl .swingOut) ∧
    nextAction .m { ArmUnit.reset .absent with goal := ⟨true, true, true⟩ } = some (.cyl .lower) ∧
    ((inMode .standby).mc.mode = .standby ∧ (inMode .settle).mc.mode = .settle) ∧
    (climb.mc.mode ≠ .standby ∧ climb.mc.mode ≠ .settle ∧ (climb.armOf .l).activity = .idle) ∧
    (let s := withArm .work { working with spin := .spinningUp, activity := .spinningUp }
     (s.armOf .l).activity = .spinningUp ∧ (s.armOf .l).goal.on = true) ∧
    (let s := withArm .work { working with spin := .spinningUp, activity := .spinningUp, goal := Goal.stowed }
     (s.armOf .l).activity = .spinningUp ∧ (s.armOf .l).goal.on = false) ∧
    ((withArm .work { working with activity := .moving .lift }).armOf .l).activity = .moving .lift := by
  decide

/-- A state in WORK with unit L at the head of the manifold queue for a SWING_OUT, the last SWING_IN ended at a time, the
present time and the levels of L's switches as given. -/
def headWaits (ended now : Nat) (w : Switches) : State :=
  withSwitches w { withArm .work { ArmUnit.reset .isIn with activity := .waiting } with
    clock := now
    arms := { (withArm .work { ArmUnit.reset .isIn with activity := .waiting }).arms with
      queue := [⟨.l, .swingOut⟩], lastEnd := ⟨none, some ended, none, none⟩, spacingTimer := some 300000 } }

theorem headWaits_met (w : Switches) :
    ∀ x e, (headWaits 0 300000 w).arms.lastEnd.get x = some e →
      e + ((headWaits 0 300000 w).setup.spacing x .swingOut).toNat * 1000 ≤ (headWaits 0 300000 w).clock := by
  intro x e h
  cases x <;> cases h
  show 0 + (300 : Int).toNat * 1000 ≤ 300000
  decide

theorem witness_HeadActionStartsWhenPowerAndSpacingAllow :
    State.reset.arms.queue = [] ∧
    (let s := headWaits 0 299999 ⟨true, false, false, false⟩
     s.arms.queue = [⟨.l, .swingOut⟩] ∧ s.arms.action = none ∧ s.arb.consumers.arms.share = 1000 ∧
     s.arms.demandRead = true ∧ s.arms.lastEnd.get .swingIn = some 0 ∧
     ¬ (0 + (s.setup.spacing .swingIn .swingOut).toNat * 1000 ≤ s.clock) ∧ s.arms.spacingTimer = some 300000) ∧
    (let s := headWaits 0 300000 ⟨true, false, false, false⟩
     s.arms.queue = [⟨.l, .swingOut⟩] ∧ s.arms.action = none ∧ s.arb.consumers.arms.share = 1000 ∧
     s.arms.demandRead = true ∧ switchLevel s .l .swingOut = false) ∧
    (∀ x e, (headWaits 0 300000 ⟨true, false, false, false⟩).arms.lastEnd.get x = some e →
      e + ((headWaits 0 300000 ⟨true, false, false, false⟩).setup.spacing x .swingOut).toNat * 1000 ≤
        (headWaits 0 300000 ⟨true, false, false, false⟩).clock) ∧
    switchLevel (headWaits 0 300000 ⟨false, true, false, false⟩) .l .swingOut = true ∧
    (let s := headWaits 0 0 ⟨true, false, false, false⟩
     ¬ ({ s.arms with demandRead := false }.demandRead = true) ∧
     ({ s.arms with action := some ⟨.r, .lift, 3000000⟩ } : Arms).action = some ⟨.r, .lift, 3000000⟩) :=
  ⟨by decide, by decide, by decide, headWaits_met _, by decide, by decide⟩

/-- Unit L in WORK with its reach, its switches and the action in progress as given. -/
def switched (m : Mode) (r : Reach) (w : Switches) (c : Option CylAction) : State :=
  withSwitches w { withArm m (ArmUnit.reset r) with arms := { (withArm m (ArmUnit.reset r)).arms with action := c } }

theorem witness_EndSwitchesAreFollowed :
    ((switched .standby .isIn ⟨true, false, false, false⟩ none).mc.mode = .standby) ∧
    (let s := switched .work .isIn ⟨true, false, false, false⟩ none
     s.mc.mode ≠ .standby ∧ switchLevel s .l .swingOut = false ∧ switchLevel s .l .swingIn = true) ∧
    (let s := switched .work .isIn ⟨false, false, false, false⟩ (some ⟨.l, .swingOut, 4000000⟩)
     switchLevel s .l .swingOut = false ∧ switchLevel s .l .swingIn = false ∧
     s.arms.action = some ⟨.l, .swingOut, 4000000⟩) ∧
    (let s := switched .work .unknown ⟨false, false, false, false⟩ (some ⟨.l, .swingIn, 4000000⟩)
     switchLevel s .l .swingOut = false ∧ s.arms.action = some ⟨.l, .swingIn, 4000000⟩ ∧
     (CylKind.swingIn).movesHeight = (CylKind.swingOut).movesHeight) ∧
    (let s := switched .work .unknown ⟨false, false, false, false⟩ none
     s.arms.action = none ∧ ¬ holdsValue (s.armOf .l) .swingOut = true) ∧
    (let s := switched .work .out ⟨true, true, false, false⟩ none
     switchLevel s .l .swingOut = true ∧ switchLevel s .l .swingIn = true ∧ s.arms.action = none ∧
     holdsValue (s.armOf .l) .swingOut = true) ∧
    (let s := switched .work .isIn ⟨true, false, false, false⟩ none
     switchLevel s .l .swingIn = true ∧ holdsValue (s.armOf .l) .swingIn = true ∧ CylKind.swingIn ≠ .swingOut) ∧
    (let s := switched .work .unknown ⟨true, false, false, false⟩ none
     switchLevel s .l .swingIn = true ∧ ¬ holdsValue (s.armOf .l) .swingIn = true) ∧
    (let s := switched .work .isIn ⟨true, false, false, false⟩ (some ⟨.l, .lift, 3000000⟩)
     s.arms.action = some ⟨.l, .lift, 3000000⟩ ∧ (CylKind.lift).movesHeight = true) ∧
    (CylKind.swingOut).movesHeight = false ∧
    (∃ e ∈ manifold.arms.queue, e.unit = .l) ∧ (manifold.armOf .l).activity ≠ .fault ∧
    (let s := withArm .work { working with activity := .fault }
     s.arms.action = none ∧ s.arms.queue = [] ∧ (s.armOf .l).activity = .fault) ∧
    (let s := withArm .work { working with activity := .spinningUp, spin := .off }
     (s.armOf .l).activity = .spinningUp ∧ (s.armOf .l).spin = .off) ∧
    (let s := withArm .work { working with activity := .spinningUp }
     ¬ (((s.armOf .l).activity = .spinningUp ∨ (s.armOf .l).activity = .spinningDown) ∧ (s.armOf .l).spin = .off)) := by
  decide

/-- R88, R89: a working unit that falls in FAULT goes OFF with its UNIT report; one in FAULT already posts none. -/
theorem test_fault_is_reported_once :
    let s := enterFault .l (withArm .work working)
    (s.link.reports, (enterFault .l s).link.reports.length) =
      ([.unit .l .fault .out .down .off .fault []], 1) := by
  decide +kernel

/-! ### The Spray Controller -/

theorem witness_SprayFormsTheWantedSetAndFlowTarget :
    (Ready 0x14 1 [1] (inMode .settle) ∧ (inMode .settle).mc.mode = .settle) ∧
    (Ready 0x14 1 [2] (buffered 0x14 1 [2] State.reset) ∧ State.reset.mc.mode ≠ .settle) ∧ Ready 0x14 1 [0] climb ∧
    (spraying 500 false 100).spray.seq = .dry ∧ 0 ≤ (spraying 500 false 99).spray.doseMax := by
  unfold Ready; decide

/-- The climb with the water as given. -/
def water (p : Spray) : State := { climb with spray := p }

/-- Water that flows at a command toward a target. -/
def flowing (command q : Int) : Spray := { Spray.reset with
  enable := true, brushOn := ⟨true, true, true⟩, wanted := ⟨true, false, true, true⟩, valves := ⟨true, false, true, true⟩
  command := command, q := q, seq := .flowing, pumpFlow := command, wpump := 2 * command, rampTimer := some 100000 }

theorem witness_WaterFollowsTargetLeadAndLag :
    (flowTarget (water (flowing 79 79)) = (flowing 79 79).q ∧ flowTarget (water (flowing 50 60)) ≠ (flowing 50 60).q ∧
      flowTarget (water (flowing 50 60)) ≠ 0 ∧ (flowing 50 60).command ≠ 0 ∧
      (water (flowing 50 60)).spray.rampTimer = some 100000) ∧
    (let p := { flowing 0 0 with seq := .dry, pumpFlow := 0, wpump := 0 }
     flowTarget (water p) ≠ p.q ∧ p.command = 0) ∧
    (let p := { flowing 20 20 with wanted := Nozzles.none }
     flowTarget (water p) ≠ p.q ∧ flowTarget (water p) = 0) ∧
    ((0 : Int) ≠ (flowing 20 20).command ∧ (20 : Int) = (flowing 20 20).command ∧ (40 : Int) ≠ (flowing 20 40).command) ∧
    ({ flowing 20 20 with leadTimer := some 200000 }.leadTimer = some 200000 ∧ 0 < (flowing 20 20).command ∧
      Spray.reset.command ≤ 0 ∧ { flowing 0 0 with seq := .lag, lagTimer := some 500000 }.lagTimer = some 500000) ∧
    ((flowing 20 20).seq = .flowing ∧ Spray.reset.seq ≠ .flowing ∧ 0 ≤ climb.arb.consumers.water.share ∧
      climb.arb.consumers.water.share ≤ 1000) := by
  decide

/-- The lawful state with its water flowing and a ramp step waiting. -/
def lawfulWater : State := { lawful with spray := flowing 50 60, pending := [.waterRampTimerExpiry] }

theorem witness_PumpRunsOnlyIntoOpenValves :
    (WaterOk lawfulWater ∧ RecipesOk lawfulWater ∧ ∃ t, step lawfulWater = .next t) ∧ (flowing 50 60).wpump ≠ 0 ∧
    (∃ t, exec .waterRampTimerExpiry lawfulWater = .next t) :=
  ⟨⟨⟨by decide, by decide, by decide, by decide, by decide, by decide, by decide, by decide, by decide⟩,
    ⟨lawful_recipes.1, lawful_recipes.2, lawful_recipes.3, lawful_recipes.4, lawful_recipes.5⟩, ⟨_, rfl⟩⟩, by decide, ⟨_, rfl⟩⟩

/-- R101: a recipe whose mask leaves out the main broom's nozzle and whose idle flow is 0 reaches water that flows at
standstill: the valve of the group that left closes at once, though the flow target 0 enters LAG. -/
theorem test_leaving_group_closes_as_the_flow_ends :
    let s := { climb with
      pcu := { climb.pcu with sample := 0 }
      spray := { flowing 20 20 with idleFlow := 0, mask := ⟨true, false, false, true⟩ } }
    let p := (formWanted s).spray
    (p.wanted, p.valves, p.seq, p.q, p.wpump) = (⟨true, false, false, true⟩, ⟨true, false, false, true⟩, .lag, 0, 0) := by
  decide

/-! ### The Load Share Arbiter -/

theorem witness_SupplyIsStoredAndGoesStale :
    (Ready 0x04 1 [0x07, 0xD0] (inMode .settle) ∧ (inMode .settle).mc.mode = .settle) ∧
    (Ready 0x04 1 [0, 0] (buffered 0x04 1 [0, 0] State.reset) ∧ State.reset.mc.mode = .standby) ∧
    (Ready 0x04 1 [0x07, 0xD1] (inMode .park) ∧ (inMode .park).mc.mode ≠ .settle ∧ (inMode .park).mc.mode ≠ .standby) ∧
    { climb with arb := { climb.arb with holdTimer := some 2000000 } }.arb.holdTimer = some 2000000 := by
  unfold Ready; decide

theorem witness_AllocationGrantsByLevelWithinTheBudget :
    visitOrder climb.arb.consumers = [.arms, .broomM, .brushL, .brushR] ++ .water :: [.drive] ∧
    ([Consumer.arms, .drive, .broomM, .brushL, .brushR, .water].all fun c =>
      decide (0 ≤ climb.demandOf c ∧ 0 ≤ (climb.arb.consumers.get c).grant)) = true ∧
    0 ≤ climb.setup.grantRise ∧
    { climb with arb := { climb.arb with periodTimer := some 10000 } }.arb.periodTimer = some 10000 := by
  decide

/-! ### The Sensor Link Master -/

/-- A transaction with AUX_P at address 3. -/
def auxRead : Transaction := ⟨.auxP, .read, 3, false, false, false⟩

/-- A round with a READ of AUX_P to follow and the two curbs due. -/
def auxRound (follow : Option Role) (due : List Role) : Round := ⟨due, follow, roundSettings climb, false⟩

/-- The climb with the line and the round as given. -/
def onLine (l : Line) (x : Option Round) : State :=
  { climb with sensors := { climb.sensors with line := l, round := x, roundTimer := some 10000 } }

theorem witness_SensorLineRunsItsPhases :
    (onLine (.sending auxRead [3, 0x30, 0, 0] 160) none).sensors.line = .sending auxRead [3, 0x30, 0, 0] 160 ∧
    (onLine (.window auxRead 1160) none).sensors.line = .window auxRead 1160 ∧
    (∀ tx due, (onLine .idle none).sensors.line ≠ .window tx due) ∧
    (auxRead.discard = false ∧ auxRead.orphan = false ∧
      (onLine (.window auxRead 1160) (some (auxRound none []))).sensors.round = some (auxRound none []) ∧
      (auxRound none []).closing = false) ∧
    ({ auxRead with orphan := true }.orphan = true ∧ { auxRead with discard := true }.discard = true ∧
      ∀ x, (onLine (.window auxRead 1160) (some { auxRound none [] with closing := true })).sensors.round = some x →
        x.closing = true) ∧
    ((auxRound (some .auxP) [.curbL]).follow = some .auxP ∧ (auxRound none [.curbL, .curbR]).due = .curbL :: [.curbR] ∧
      (auxRound none []).due = [] ∧ (auxRound none []).follow = none) ∧
    ((onLine .idle none).sensors.roundTimer = some 10000 ∧ (onLine (.turnaround 1210) none).sensors.line = .turnaround 1210 ∧
      (onLine (.turnaround 1210) none).sensors.round = none) :=
  ⟨rfl, rfl, fun _ _ h => Line.noConfusion h, ⟨rfl, rfl, rfl, rfl⟩, ⟨rfl, rfl, fun _ h => Option.some.inj h ▸ rfl⟩,
    ⟨rfl, rfl, rfl, rfl⟩, ⟨rfl, rfl, rfl⟩⟩

theorem witness_EnteringStandbyBringsEveryBlockToRest :
    (onLine .idle none).sensors.round = none ∧
    (let s := onLine (.sending auxRead [3, 0x30, 0, 0] 160) (some (auxRound none [.curbL]))
     s.sensors.round = some (auxRound none [.curbL]) ∧ ∃ tx frame due, s.sensors.line = .sending tx frame due) ∧
    (let s := onLine (.window auxRead 1160) (some (auxRound none []))
     s.sensors.round = some (auxRound none []) ∧ ∃ tx due, s.sensors.line = .window tx due) ∧
    (let s := onLine (.turnaround 1210) (some (auxRound none []))
     s.sensors.round ≠ none ∧ ¬ ((∃ tx frame due, s.sensors.line = .sending tx frame due) ∨
       ∃ tx due, s.sensors.line = .window tx due)) :=
  ⟨rfl, ⟨rfl, _, _, _, rfl⟩, ⟨rfl, _, _, rfl⟩, by decide, fun
    | .inl ⟨_, _, _, h⟩ => Line.noConfusion h
    | .inr ⟨_, _, h⟩ => Line.noConfusion h⟩

/-- R146: STANDBY amid a transaction leaves the round until its outcome, which is applied; then the counter advances. -/
theorem test_standby_round_ends_with_its_transaction :
    let s := enterStandby (onLine (.window auxRead 1160) (some (auxRound none [.curbL])))
    let t := after (.sensorReplyComplete 3 0 5 0xDC (crc8 [3, 0, 5, 0xDC])) s
    (s.sensors.roundTimer, s.sensors.round.isSome, s.sensors.counter) = (none, true, 0) ∧
    (t.sensors.round, t.sensors.counter, (t.sensors.channels.get .auxP).raw) = (none, 1, 1500) := by
  decide +kernel

/-- R152: a transaction keeps the warming policy of its round. -/
theorem test_policy_of_the_round_judges :
    let s := onLine (.window { auxRead with holdWarming := true } 1160) (some (auxRound none []))
    ((after (.sensorReplyComplete 3 1 5 0xDC (crc8 [3, 1, 5, 0xDC])) s).sensors.channels.get .auxP).raw = 1400 := by
  decide +kernel

theorem witness_ChannelsFollowTheirOutcomes :
    ((Channel.fresh .unknown).state = .unknown ∧ (reading 5).state = .ok ∧
      { reading 5 with state := .suspect }.state = .suspect) ∧
    ({ reading 5 with state := .lost }.goodRun = 0 ∧ { reading 5 with state := .lost, goodRun := 1 }.goodRun ≠ 0) ∧
    ((Channel.fresh .unassigned).state = .unassigned ∧ (Channel.fresh .unknown).state ≠ .unassigned) ∧
    (climb.sensors.channels.get .auxP).state = .ok ∧
    ¬ ((climb.sensors.channels.get .tank).state = .ok ∨ (climb.sensors.channels.get .tank).state = .suspect) ∧
    (Ready 0x17 1 [0] (inMode .settle) ∧ Ready 0x17 1 [8] climb ∧ climb.mc.mode ≠ .settle ∧ 7 < (8 : Byte).toNat) ∧
    (Ready 0x17 1 [7] climb ∧
      [Role.drivePA, .drivePB, .auxP, .oilT, .tank, .dust, .curbL, .curbR][(7 : Byte).toNat]? = some .curbR) := by
  unfold Ready; decide

/-! ### The Condition Monitor -/

/-- The climb with one condition record as given. -/
def condAt (k : CondKind) (v : CondState) : State := { climb with cond := climb.cond.set k v }

theorem witness_ConditionRecordsFollowTheirNotices :
    ((condAt .oilHigh .present).cond.get .oilHigh = .present ∧ climb.cond.get .oilHigh ≠ .present) ∧
    (climb.arb.derate = true ↔ climb.cond.get .oilHigh = .present ∨ climb.cond.get .loopOver = .present) ∧
    (climb.arb.stop = true ↔ climb.cond.get .oilOver = .present) ∧ CondKind.tankLow ≠ .oilHigh ∧
    CondKind.tankLow ≠ .loopOver ∧ CondKind.tankLow ≠ .oilOver := by
  decide

theorem witness_ClearEndsALatchedCondition :
    (Ready 0x15 1 [0] (inMode .settle) ∧ Ready 0x15 1 [32] climb ∧ climb.mc.mode ≠ .settle ∧ 31 < (32 : Byte).toNat) ∧
    (Ready 0x15 1 [1] (condAt .oilOver .latched) ∧ (1 : Byte).toNat = CondKind.oilOver.number ∧
      (condAt .oilOver .latched).cond.get .oilOver = .latched) ∧
    (Ready 0x15 1 [1] (condAt .oilOver .present) ∧ (condAt .oilOver .present).cond.get .oilOver = .present) ∧
    (Ready 0x15 1 [31] (condAt .overspeed .present) ∧ (31 : Byte).toNat = CondKind.overspeed.number) ∧
    (let s := withArm .work { ArmUnit.reset .isIn with activity := .fault }
     (s.armOf .l).activity = .fault ∧ s.cond.get (.armTimeout .l) = .clear ∧ s.cond.get (.switch .l) = .clear ∧
     ¬ (((s.pins.switches.get .l).isIn = true ∧ (s.pins.switches.get .l).out = true) ∨
       ((s.pins.switches.get .l).up = true ∧ (s.pins.switches.get .l).down = true))) ∧
    (let s := withSwitches ⟨true, true, false, false⟩ (withArm .work { ArmUnit.reset .isIn with activity := .fault })
     (s.armOf .l).activity = .fault ∧ s.cond.get (.switch .l) = .clear ∧ (s.pins.switches.get .l).isIn = true ∧
     (s.pins.switches.get .l).out = true) := by
  unfold Ready; decide

/-- R161, R88: a latched switch condition cleared while both switches of the pair are active is PRESENT again, and the reply
says so. -/
theorem test_clear_answers_the_state_after :
    let s := withSwitches ⟨true, true, false, false⟩ { withArm .standby { ArmUnit.reset .unknown with activity := .fault } with
      cond := climb.cond.set (.switch .l) .latched }
    let r := takeClear 17 s
    (r.2, r.1.cond.get (.switch .l), (r.1.armOf .l).activity) = ([0x00, 0x01], .present, .fault) := by
  decide

/-- The climb with the oil temperature and one loop pressure as given. -/
def heated (oil loop : Int) (s : State) : State := { s with sensors := { s.sensors with channels :=
  { s.sensors.channels with oilT := reading oil, drivePA := reading loop } } }

theorem witness_MonitorTestsItsLimits :
    (let s := heated 85 4000 climb
     s.cond.get .oilHigh = .clear ∧ s.setup.oilHigh ≤ s.sensor .oilT ∧ s.cond.get .loopOver = .clear ∧
     s.setup.loopOver ≤ max (s.sensor .drivePA) (s.sensor .drivePB)) ∧
    (let s := heated 79 3799 (condAt .oilHigh .present)
     s.cond.get .oilHigh = .present ∧ s.sensor .oilT < s.setup.oilHigh - s.setup.oilHyst) ∧
    (let s := heated 80 3800 (condAt .oilHigh .present)
     ¬ (s.cond.get .oilHigh = .clear ∧ s.setup.oilHigh ≤ s.sensor .oilT) ∧
     ¬ (s.cond.get .oilHigh = .present ∧ s.sensor .oilT < s.setup.oilHigh - s.setup.oilHyst)) ∧
    (let s := heated 100 0 climb
     s.cond.get .oilOver ≠ .present ∧ s.setup.oilOver ≤ s.sensor .oilT ∧ s.mc.mode = .work) ∧
    (let s := heated 100 0 (inMode .parking)
     ¬ (s.mc.mode = .transport ∨ s.mc.mode = .work ∨ s.mc.mode = .stowing) ∧ s.setup.oilOver ≤ s.sensor .oilT) ∧
    (let s := heated 94 0 (condAt .oilOver .present)
     s.cond.get .oilOver = .present ∧ s.sensor .oilT < s.setup.oilOver - s.setup.oilHyst) ∧
    (let s := heated 95 0 (condAt .oilOver .present)
     ¬ (s.cond.get .oilOver = .present ∧ s.sensor .oilT < s.setup.oilOver - s.setup.oilHyst)) ∧
    (let s := heated 0 3799 (condAt .loopOver .present)
     s.cond.get .loopOver = .present ∧
     max (s.sensor .drivePA) (s.sensor .drivePB) < s.setup.loopOver - s.setup.loopHyst) ∧
    (let s := heated 0 3800 (condAt .loopOver .present)
     ¬ (s.cond.get .loopOver = .present ∧
       max (s.sensor .drivePA) (s.sensor .drivePB) < s.setup.loopOver - s.setup.loopHyst)) := by
  decide

/-! ### The Recipe Unit and the setup -/

theorem witness_RecipeSlotsAreWrittenAndRead :
    (Ready 0x07 1 [31, 22, 0, 4] (inMode .settle) ∧ Ready 0x07 1 [32, 22, 0, 4] climb ∧ climb.mc.mode ≠ .settle ∧
      31 < (32 : Byte).toNat) ∧
    (Ready 0x07 1 [31, 23, 0, 4] climb ∧ (31 : Byte).toNat ≤ 31 ∧ 22 < (23 : Byte).toNat) ∧
    (Ready 0x07 1 [31, 22, 0, 4, 22, 0, 3] climb ∧ (31 : Fin 32).val = (31 : Byte).toNat ∧
      ([((22 : Byte), (0 : Byte), (4 : Byte)), (22, 0, 3)].all fun p => decide (p.1.toNat ≤ 22)) = true ∧
      ([((22 : Byte), (0 : Byte), (4 : Byte)), (22, 0, 3)].filter fun q => q.1.toNat = 22).getLast? = some (22, 0, 3)) ∧
    (Ready 0x08 1 [0, 32] climb ∧ Ready 0x08 1 [0, 31] climb ∧ Ready 0x08 1 [1, 1] climb ∧
      climb.recipes.depth ≤ (1 : Byte).toNat) ∧
    (Ready 0x08 1 [1, 3] (inMode .settle) ∧
      (lawful.recipes.base :: lawful.recipes.overrides)[(3 : Byte).toNat]?.map StackEntry.source = some 31) ∧
    (Ready 0x08 1 [2, 0] climb ∧ 1 < (2 : Byte).toNat) := by
  unfold Ready; decide

theorem witness_RecipeSlotsAreCopiedAndErased :
    (Ready 0x09 1 [0, 31] (inMode .settle) ∧ Ready 0x09 1 [0, 32] climb ∧ climb.mc.mode ≠ .settle ∧ 31 < (32 : Byte).toNat) ∧
    (Ready 0x09 1 [31, 0] climb ∧ climb.recipes.slots[(31 : Fin 32)].valid = false) ∧
    (Ready 0x09 1 [0, 31] climb ∧ climb.recipes.slots[(0 : Fin 32)].valid = true) ∧
    (Ready 0x0A 1 [0] (inMode .settle) ∧ Ready 0x0A 1 [32] climb ∧ Ready 0x0A 1 [31] climb ∧ Ready 0x0A 1 [0] climb) := by
  unfold Ready; decide

/-- The climb with the recipe table and the stack of `lawful`, at a depth. -/
def stacked (overrides : List StackEntry) : State :=
  { climb with recipes := { lawful.recipes with overrides := overrides, zones := [] } }

theorem witness_StackRequestsChangeTheActiveRecipe :
    (Ready 0x11 1 [0] (inMode .settle) ∧ Ready 0x11 1 [0] (buffered 0x11 1 [0] State.reset) ∧ State.reset.mc.mode = .standby) ∧
    (Ready 0x11 1 [32] climb ∧ climb.mc.mode ≠ .settle ∧ climb.mc.mode ≠ .standby ∧ 31 < (32 : Byte).toNat) ∧
    (Ready 0x11 1 [31] climb ∧ climb.recipes.slots[(31 : Fin 32)].valid = false) ∧
    (let s := stacked lawful.recipes.overrides
     Ready 0x11 1 [31] s ∧ s.recipes.slots[(31 : Fin 32)].valid = true ∧ 4 ≤ s.recipes.depth) ∧
    (let s := stacked (lawful.recipes.overrides.take 2)
     Ready 0x11 1 [31] s ∧ s.recipes.slots[(31 : Fin 32)].valid = true ∧ s.recipes.depth < 4) ∧
    (Ready 0x12 1 [] (inMode .settle) ∧ Ready 0x12 1 [] (buffered 0x12 1 [] State.reset) ∧ Ready 0x12 1 [] climb ∧ climb.recipes.overrides = []) ∧
    (Ready 0x12 1 [] (stacked lawful.recipes.overrides) ∧ (stacked lawful.recipes.overrides).recipes.overrides ≠ []) := by
  unfold Ready; decide

theorem witness_RefreshCopiesDirtyFields :
    (Ready 0x0B 1 [31, 1] (inMode .settle) ∧ Ready 0x0B 1 [32, 1] climb ∧ climb.mc.mode ≠ .settle ∧ 31 < (32 : Byte).toNat) ∧
    (let s := stacked lawful.recipes.overrides
     Ready 0x0B 1 [31, 1] s ∧ s.recipes.top.source = 31 ∧ s.recipes.slots[(31 : Fin 32)].dirty[(0 : Fin 23)] = true ∧
     (1 : Byte).toNat.testBit 0 = true) ∧
    (Ready 0x0B 1 [31, 2] (stacked []) ∧ (stacked []).recipes.top.source ≠ 31) := by
  unfold Ready; decide

/-- Section 8.6.1: after the write of four fields of slot 2 the refresh of TRAVEL and WATER reaches two entries and leaves
the mark of level DRIVE; the value 250 of idle_flow was clamped to 200. -/
theorem test_masked_refresh_under_an_override :
    let two : StackEntry := ⟨2, RecipeFields.defaults⟩
    let five : StackEntry := ⟨5, RecipeFields.defaults.set 0 1200⟩
    let s := { climb with recipes := { Recipes.reset with
      slots := resetSlots.set 2 ⟨true, RecipeFields.defaults, noDirty⟩, base := two, overrides := [five, two] } }
    let w := takeRecipeWrite 2 [(0, 1800), (10, 40), (15, 250), (18, 2)] s
    let r := takeRefresh 2 0x09 w.1
    (w.2, r.2) = ([0x01, 15], [0x00, 2]) ∧
    (fieldSpeedCap r.1.recipes.top.fields, fieldDose r.1.recipes.base.fields, fieldIdleFlow r.1.recipes.base.fields,
      fieldLevelDrive r.1.recipes.base.fields) = (1800, 40, 200, 1) ∧
    r.1.recipes.overrides[0]? = some five ∧
    (r.1.recipes.slots[2].dirty.toList.zipIdx.filter fun d => d.1).map Prod.snd = [18] ∧
    (r.1.drive.speedCap, r.1.spray.dose, r.1.spray.idleFlow) = (1800, 40, 200) := by
  decide

theorem witness_ZonesAreQueuedAndEntered :
    (Ready 0x0E 1 [0, 0, 0, 5, 0, 9] (inMode .settle) ∧ Ready 0x0E 1 [0, 0, 0, 5, 32, 9] climb ∧ climb.mc.mode ≠ .settle) ∧
    (Ready 0x0E 1 [0x80, 0, 0, 0, 31, 9] climb ∧ 2 ^ 31 ≤ ((0x80000000 : Word32) - climb.pcu.odometer).toNat) ∧
    (((0x7FFFFFFF : Word32) - climb.pcu.odometer).toNat < 2 ^ 31 ∧ (∃ z ∈ lawful.recipes.zones, z.mark = 0x7FFFFFFF)) ∧
    ((∀ z ∈ lawful.recipes.zones, z.mark ≠ 7) ∧ 8 ≤ lawful.recipes.zones.length) ∧
    ((∀ z ∈ lawful.recipes.zones.take 7, z.mark ≠ 7) ∧ (lawful.recipes.zones.take 7).length < 8) ∧
    (Ready 0x0F 1 [] (inMode .settle) ∧ Ready 0x0F 1 [] (buffered 0x0F 1 [] State.reset) ∧ Ready 0x10 1 [] (inMode .settle) ∧ Ready 0x10 1 [] climb) ∧
    (let s := { climb with recipes := { climb.recipes with reference := 1 } }
     1 ≤ (s.recipes.reference - s.pcu.odometer).toNat ∧ (s.recipes.reference - s.pcu.odometer).toNat ≤ 2 ^ 31) ∧
    (let s := { climb with recipes := { climb.recipes with reference := 0x80000000 } }
     (s.recipes.reference - s.pcu.odometer).toNat = 2 ^ 31) ∧
    ¬ (1 ≤ (climb.recipes.reference - climb.pcu.odometer).toNat ∧
      (climb.recipes.reference - climb.pcu.odometer).toNat ≤ 2 ^ 31) := by
  unfold Ready; decide

theorem witness_SetupIsWrittenInRangeAndActsAndIsRead :
    (Ready 0x05 1 [1, 0, 0, 20] (inMode .settle) ∧ (inMode .settle).mc.mode = .settle) ∧
    (Ready 0x05 1 [1, 0, 0, 20] climb ∧ climb.mc.mode ≠ .settle ∧ climb.mc.mode ≠ .standby ∧ climb.mc.mode ≠ .park) ∧
    (Ready 0x05 1 [4, 24, 0, 1] (buffered 0x05 1 [4, 24, 0, 1] State.reset) ∧ State.reset.mc.mode = .standby ∧ setupRange 4 24 = none) ∧
    (Ready 0x05 1 [1, 0, 0, 20] (inMode .park) ∧ (inMode .park).mc.mode = .park ∧ setupRange 1 0 ≠ none) ∧
    (let s := { State.reset with arms := { Arms.reset with spacingTimer := some 300000, queue := [⟨.l, .lift⟩] } }
     s.arms.spacingTimer = some 300000 ∧ s.arms.queue = [⟨.l, .lift⟩] ∧ State.reset.arms.queue = []) ∧
    (Ready 0x06 1 [4, 24, 25] (buffered 0x06 1 [4, 24, 25] State.reset) ∧ Ready 0x06 1 [7, 0, 1] (buffered 0x06 1 [7, 0, 1] State.reset) ∧ Ready 0x06 1 [0, 0, 0] (buffered 0x06 1 [0, 0, 0] State.reset) ∧
      Ready 0x06 1 [0, 6, 2] (buffered 0x06 1 [0, 6, 2] State.reset) ∧ 7 < (6 : Byte).toNat + (2 : Byte).toNat) := by
  unfold Ready; decide

/-- R66, R172 (assumption logs 15 and 36): start_rpm of unit L falls to its stop_rpm, which is lowered and named at the end; a
stop_rpm named twice, clamped and too high, is named once. -/
theorem test_setup_write_lowers_stop_rpm :
    let write (pairs : List (Byte × Int)) := takeSetupWrite 1 pairs (inMode .park)
    let after (pairs : List (Byte × Int)) := ((write pairs).1.setup.startRpm .l, (write pairs).1.setup.stopRpm .l, (write pairs).2)
    after [(0, 20)] = (20, 19, [0x01, 3]) ∧ after [(3, 400), (0, 50), (3, 300)] = (50, 49, [0x01, 3]) ∧
    after [(3, 38)] = (40, 38, [0x00]) := by
  decide

end Sys2Proof.Tests
end

section
/-! The ramp stage of the Drive Regulator (R36): one equation of `rampStep` per row of Table 3-3, its sign, and what the
stage leaves in the drive's record. -/

namespace Sys2Proof.Machine

/-! ## The model's arithmetic in the library's terms -/

theorem least_eq_min (a b : Int) : least a b = min a b := by simp only [least, min_def]

theorem most_eq_max (a b : Int) : most a b = max a b := by simp only [most, max_def]

theorem mag_eq_abs (x : Int) : mag x = |x| := Int.natCast_natAbs x

/-! ## The rows of Table 3-3 -/

theorem rampStep_at_target (r accel decel : Int) : rampStep r r accel decel = r := by simp [rampStep]

theorem rampStep_zero {t accel : Int} (decel : Int) (ht : t ≠ 0) :
    rampStep 0 t accel decel = if |t| ≤ accel then t else if 0 < t then accel else -accel := by
  simp [rampStep, ht, mag_eq_abs]

theorem rampStep_forward_growing {r t : Int} (accel decel : Int) (hr : 0 < r) (ht : r < t) :
    rampStep r t accel decel = min t (r + accel) := by
  simp [rampStep, ht.ne', hr.ne', hr, ht, least_eq_min]

theorem rampStep_forward_shrinking {r t : Int} (accel decel : Int) (hr : 0 < r) (ht : t < r) :
    rampStep r t accel decel = max (max t 0) (r - decel) := by
  simp [rampStep, ht.ne, hr.ne', hr, ht.not_gt, most_eq_max]

theorem rampStep_reverse_growing {r t : Int} (accel decel : Int) (hr : r < 0) (ht : t < r) :
    rampStep r t accel decel = max t (r - accel) := by
  simp [rampStep, ht.ne, hr.ne, hr.not_gt, ht, most_eq_max]

theorem rampStep_reverse_shrinking {r t : Int} (accel decel : Int) (hr : r < 0) (ht : r < t) :
    rampStep r t accel decel = min (min t 0) (r + decel) := by
  simp [rampStep, ht.ne', hr.ne, hr.not_gt, ht.not_gt, least_eq_min]

/-! ## No step crosses 0 -/

theorem rampStep_nonneg {r : Int} (t : Int) {accel : Int} (decel : Int) (ha : 0 < accel) (hr : 0 < r) :
    0 ≤ rampStep r t accel decel := by
  rcases lt_trichotomy t r with ht | rfl | ht
  · rw [rampStep_forward_shrinking accel decel hr ht]; omega
  · rw [rampStep_at_target]; omega
  · rw [rampStep_forward_growing accel decel hr ht]; omega

theorem rampStep_nonpos {r : Int} (t : Int) {accel : Int} (decel : Int) (ha : 0 < accel) (hr : r < 0) :
    rampStep r t accel decel ≤ 0 := by
  rcases lt_trichotomy t r with ht | rfl | ht
  · rw [rampStep_reverse_growing accel decel hr ht]; omega
  · rw [rampStep_at_target]; omega
  · rw [rampStep_reverse_shrinking accel decel hr ht]; omega

theorem mul_rampStep_nonneg (r t : Int) {accel : Int} (decel : Int) (ha : 0 < accel) :
    0 ≤ r * rampStep r t accel decel := by
  rcases lt_trichotomy r 0 with hr | rfl | hr
  · exact mul_nonneg_of_nonpos_of_nonpos hr.le (rampStep_nonpos t decel ha hr)
  · simp
  · exact mul_nonneg hr.le (rampStep_nonneg t decel ha hr)

/-! ## The stage -/

@[simp] theorem rampStage_ramped (d : Drive) :
    (rampStage d).ramped = rampStep d.ramped d.target d.accelStep d.decelStep := rfl

/-- R36's last sentence: R's sign when it has one, the direction held before when R is 0. -/
theorem headingOf_unless_zero (held : Option Heading) (r : Int) :
    (if r = 0 then held else headingOf r) =
      if 0 < r then some .forward else if r < 0 then some .reverse else held := by
  rcases lt_trichotomy r 0 with hr | rfl | hr
  · simp [headingOf, hr, hr.ne, hr.not_gt]
  · simp
  · simp [headingOf, hr, hr.ne']

/-- The stage writes R and the held direction alone. -/
theorem rampStage_eq (d : Drive) :
    rampStage d = { d with
      ramped := (rampStage d).ramped
      held := if 0 < (rampStage d).ramped then some .forward
        else if (rampStage d).ramped < 0 then some .reverse else d.held } := by
  simp only [rampStage, headingOf_unless_zero]

/-- Settles O30: the rows of Table 3-3 one by one, where the two rows that shrink R share one equation, with T or 0 as
the bound that is not passed. -/
theorem rampMovesTowardTheTarget : Obligations.RampMovesTowardTheTarget := by
  intro d haccel _
  refine ⟨rampStage_eq d, ?_⟩
  simp only [rampStage_ramped]
  refine ⟨fun ht => ?atTarget, fun hr ht hnear => ?near, fun hr ht hfar => ?farForward, fun hr ht hfar => ?farReverse,
    rampStep_forward_growing _ _, rampStep_reverse_growing _ _,
    fun hr h0 ht => ?shrinkForward, fun hr h0 ht => ?shrinkReverse,
    fun hr ht => ?stopForward, fun hr ht => ?stopReverse, mul_rampStep_nonneg _ _ _ haccel⟩
  case atTarget => rw [ht, rampStep_at_target]
  case near => rw [hr, rampStep_zero _ ht, if_pos hnear]
  case farForward => rw [hr, rampStep_zero _ ht.ne', if_neg hfar.not_ge, if_pos ht]
  case farReverse => rw [hr, rampStep_zero _ ht.ne, if_neg hfar.not_ge, if_neg ht.not_gt]
  case shrinkForward => rw [rampStep_forward_shrinking _ _ hr ht, max_eq_left h0]
  case shrinkReverse => rw [rampStep_reverse_shrinking _ _ hr ht, min_eq_left h0]
  case stopForward => rw [rampStep_forward_shrinking _ _ hr (ht.trans hr), max_eq_right ht.le]
  case stopReverse => rw [rampStep_reverse_shrinking _ _ hr (hr.trans ht), min_eq_right ht.le]

end Sys2Proof.Machine
end

section
/-! A channel's filter in the Sensor Link Master (R150): the two divisions rounded down by their bounds, and the seed and
the filter step in terms of them. -/

namespace Sys2Proof.Machine

/-! ## The two divisions, rounded down -/

/-- Rounded down: the quotient times 2^k does not pass x, and the next quotient's does. -/
theorem fdiv_two_pow_bounds (x : Int) (k : Nat) :
    x.fdiv (2 ^ k) * 2 ^ k ≤ x ∧ x < (x.fdiv (2 ^ k) + 1) * 2 ^ k := by
  have hpos : (0 : Int) < 2 ^ k := Int.pow_pos (by decide)
  rw [Int.fdiv_eq_ediv_of_nonneg x hpos.le]
  exact ⟨Int.ediv_mul_le x hpos.ne', Int.lt_ediv_add_one_mul_self x hpos⟩

/-- Nearest, a half rounding up: F lies at most 8 below 16 times the filtered value and less than 8 above it. -/
theorem filteredOf_bounds (f : Int) : 16 * filteredOf f - 8 ≤ f ∧ f < 16 * filteredOf f + 8 := by
  obtain ⟨hle, hlt⟩ : filteredOf f * 16 ≤ f + 8 ∧ f + 8 < (filteredOf f + 1) * 16 := fdiv_two_pow_bounds (f + 8) 4
  omega

/-- A filter state that is 16 times an integer has that integer as its filtered value. -/
theorem filteredOf_sixteen_mul (v : Int) : filteredOf (16 * v) = v := by
  have hbounds := filteredOf_bounds (16 * v)
  omega

/-! ## The filter's operations -/

@[simp] theorem Channel.withFilter_f (c : Channel) (f : Int) : (c.withFilter f).f = f := rfl

@[simp] theorem Channel.withFilter_filtered (c : Channel) (f : Int) : (c.withFilter f).filtered = filteredOf f := rfl

/-- The filter writes F and the filtered value alone. -/
theorem Channel.withFilter_eq (c : Channel) (f : Int) :
    c.withFilter f = { c with f := (c.withFilter f).f, filtered := (c.withFilter f).filtered } := rfl

theorem Channel.seed_eq (c : Channel) : c.seed = { c with f := 16 * c.raw, filtered := c.raw } := by
  rw [seed, withFilter_eq, withFilter_f, withFilter_filtered, filteredOf_sixteen_mul]

theorem Channel.filterStep_f (k : Nat) (c : Channel) :
    (c.filterStep k).f = c.f + (16 * c.raw - c.f).fdiv (2 ^ k) := rfl

theorem Channel.filterStep_filtered_bounds (k : Nat) (c : Channel) :
    16 * (c.filterStep k).filtered - 8 ≤ (c.filterStep k).f ∧
      (c.filterStep k).f < 16 * (c.filterStep k).filtered + 8 :=
  filteredOf_bounds (c.filterStep k).f

/-- With k at 0 the whole way to the reading is added, so the step is a seed. -/
theorem Channel.filterStep_zero (c : Channel) : c.filterStep 0 = c.seed := by
  rw [filterStep, seed, Int.pow_zero, Int.fdiv_one, add_sub_cancel]

/-- Settles O50: the step and the filtered value by the bounds of their divisions, and the step with k at 0 as the seed. -/
theorem filterStepsTowardTheReading : Obligations.FilterStepsTowardTheReading := by
  intro c k
  obtain ⟨hstep, hstepLt⟩ := fdiv_two_pow_bounds (16 * c.raw - c.f) k
  obtain ⟨hhalf, hhalfLt⟩ := c.filterStep_filtered_bounds k
  have hzero : c.filterStep 0 = { c with f := 16 * c.raw, filtered := c.raw } := c.filterStep_zero.trans c.seed_eq
  exact ⟨c.seed_eq, c.filterStep_f k, hstep, hstepLt, hhalf, hhalfLt, c.withFilter_eq _,
    congrArg Channel.f hzero, congrArg Channel.filtered hzero⟩

end Sys2Proof.Machine
end

section
/-! What a change of a condition record leaves alone, field by field, and the properties that say nothing of the arms and
the water: the elementary updates that such a property has to keep (`Loose`), from which the sets of Laws/Keeps.lean and
Laws/Commands.lean follow. -/

namespace Sys2Proof.Machine

/-! ## A condition record's change, field by field -/

section
variable (k : CondKind) (v : CondState) (p : Bool) (s : State)

@[simp] theorem changeRecord_pins : (changeRecord k v s).pins = s.pins := by unfold changeRecord; dsimp only; split <;> rfl
@[simp] theorem changeRecord_setup : (changeRecord k v s).setup = s.setup := by unfold changeRecord; dsimp only; split <;> rfl
@[simp] theorem changeRecord_pcu : (changeRecord k v s).pcu = s.pcu := by unfold changeRecord; dsimp only; split <;> rfl
@[simp] theorem changeRecord_drive : (changeRecord k v s).drive = s.drive := by unfold changeRecord; dsimp only; split <;> rfl
@[simp] theorem changeRecord_brush : (changeRecord k v s).brush = s.brush := by unfold changeRecord; dsimp only; split <;> rfl
@[simp] theorem changeRecord_spray : (changeRecord k v s).spray = s.spray := by unfold changeRecord; dsimp only; split <;> rfl
@[simp] theorem changeRecord_recipes : (changeRecord k v s).recipes = s.recipes := by
  unfold changeRecord; dsimp only; split <;> rfl
@[simp] theorem changeRecord_sensors : (changeRecord k v s).sensors = s.sensors := by
  unfold changeRecord; dsimp only; split <;> rfl
@[simp] theorem changeRecord_clock : (changeRecord k v s).clock = s.clock := by unfold changeRecord; dsimp only; split <;> rfl
@[simp] theorem changeRecord_free : (changeRecord k v s).free = s.free := by unfold changeRecord; dsimp only; split <;> rfl
@[simp] theorem changeRecord_pending : (changeRecord k v s).pending = s.pending := by
  unfold changeRecord; dsimp only; split <;> rfl
@[simp] theorem changeRecord_armOf (u : BrushUnit) : (changeRecord k v s).armOf u = s.armOf u := by simp [State.armOf]
@[simp] theorem changeRecord_brushOf (u : BrushUnit) : (changeRecord k v s).brushOf u = s.brushOf u := by
  simp [State.brushOf]

/-- The table after a change is the old one with the record set, also where the record keeps its state. -/
@[simp] theorem changeRecord_cond : (changeRecord k v s).cond = s.cond.set k v := by
  unfold changeRecord
  dsimp only
  split
  · next h => rw [← h, CondTable.set_get]
  · rfl

@[simp] theorem notice_pins : (notice k p s).pins = s.pins := changeRecord_pins _ _ _
@[simp] theorem notice_setup : (notice k p s).setup = s.setup := changeRecord_setup _ _ _
@[simp] theorem notice_mc : (notice k p s).mc = s.mc := changeRecord_mc _ _ _
@[simp] theorem notice_pcu : (notice k p s).pcu = s.pcu := changeRecord_pcu _ _ _
@[simp] theorem notice_drive : (notice k p s).drive = s.drive := changeRecord_drive _ _ _
@[simp] theorem notice_brush : (notice k p s).brush = s.brush := changeRecord_brush _ _ _
@[simp] theorem notice_arms : (notice k p s).arms = s.arms := changeRecord_arms _ _ _
@[simp] theorem notice_spray : (notice k p s).spray = s.spray := changeRecord_spray _ _ _
@[simp] theorem notice_recipes : (notice k p s).recipes = s.recipes := changeRecord_recipes _ _ _
@[simp] theorem notice_sensors : (notice k p s).sensors = s.sensors := changeRecord_sensors _ _ _
@[simp] theorem notice_clock : (notice k p s).clock = s.clock := changeRecord_clock _ _ _
@[simp] theorem notice_free : (notice k p s).free = s.free := changeRecord_free _ _ _
@[simp] theorem notice_pending : (notice k p s).pending = s.pending := changeRecord_pending _ _ _
@[simp] theorem notice_armOf (u : BrushUnit) : (notice k p s).armOf u = s.armOf u := changeRecord_armOf _ _ _ _
@[simp] theorem notice_brushOf (u : BrushUnit) : (notice k p s).brushOf u = s.brushOf u := changeRecord_brushOf _ _ _ _
@[simp] theorem notice_cond : (notice k p s).cond = s.cond.set k ((s.cond.get k).noticed k p) := changeRecord_cond _ _ _

/-- A notice of the state that stands changes nothing. -/
theorem notice_same (h : (s.cond.get k).noticed k p = s.cond.get k) : notice k p s = s := by
  simp [notice, changeRecord, h]

end

/-! ## The overspeed flag's clearing -/

/-- The clearing writes the flag, whatever it was. -/
@[simp] theorem clearOverspeed_drive (s : State) : (clearOverspeed s).drive = { s.drive with overspeed := false } := by
  unfold clearOverspeed setOverspeed
  split
  · simp
  · next h => rw [Bool.not_eq_true] at h; rw [← h]

@[simp] theorem clearOverspeed_pcu (s : State) : (clearOverspeed s).pcu = s.pcu := by
  unfold clearOverspeed setOverspeed; split <;> simp

@[simp] theorem clearOverspeed_recipes (s : State) : (clearOverspeed s).recipes = s.recipes := by
  unfold clearOverspeed setOverspeed; split <;> simp

@[simp] theorem clearOverspeed_setup (s : State) : (clearOverspeed s).setup = s.setup := by
  unfold clearOverspeed setOverspeed; split <;> simp

@[simp] theorem clearOverspeed_clock (s : State) : (clearOverspeed s).clock = s.clock := by
  unfold clearOverspeed setOverspeed; split <;> simp

@[simp] theorem clearOverspeed_pending (s : State) : (clearOverspeed s).pending = s.pending := by
  unfold clearOverspeed setOverspeed; split <;> simp

@[simp] theorem clearOverspeed_pins (s : State) : (clearOverspeed s).pins = s.pins := by
  unfold clearOverspeed setOverspeed; split <;> simp

@[simp] theorem clearOverspeed_free (s : State) : (clearOverspeed s).free = s.free := by
  unfold clearOverspeed setOverspeed; split <;> simp

@[simp] theorem clearOverspeed_brush (s : State) : (clearOverspeed s).brush = s.brush := by
  unfold clearOverspeed setOverspeed; split <;> simp

@[simp] theorem clearOverspeed_spray (s : State) : (clearOverspeed s).spray = s.spray := by
  unfold clearOverspeed setOverspeed; split <;> simp

@[simp] theorem clearOverspeed_sensors (s : State) : (clearOverspeed s).sensors = s.sensors := by
  unfold clearOverspeed setOverspeed; split <;> simp

/-! ## Properties that say nothing of the arms and the water -/

/-- A property that every elementary update of the blocks keeps, the arms' and the water's records being free. -/
structure Loose (P : State → Prop) : Prop where
  drive : ∀ s d, SameOutput s.drive d → P s → P { s with drive := d }
  drivePeriod : ∀ s, P s → P (drivePeriod s)
  spray : ∀ s p, P s → P { s with spray := p }
  brush : ∀ s b, P s → P { s with brush := b }
  arms : ∀ s a, P s → P { s with arms := a }
  sensors : ∀ s x, P s → P { s with sensors := x }
  arb : ∀ s a, P s → P { s with arb := a }
  cond : ∀ s c, P s → P { s with cond := c }
  travel : ∀ s m, m.travels = true → P s → P (driveEnterTravel (modeReport (takeMode m s)))
  park : ∀ s b, P s → P (driveEnterPark b (modeReport (takeMode .park s)))
  post : ∀ s r, P s → P (s.post r)

section
variable {P : State → Prop} (h : Loose P) {s : State}
include h

theorem Loose.changeRecord {k : CondKind} {v : CondState} (hs : P s) : P (changeRecord k v s) := by
  unfold Machine.changeRecord
  dsimp only
  split
  · exact hs
  · exact h.arb _ _ (h.cond _ _ (h.post _ _ hs))

theorem Loose.plain : Plain P where
  water := wet_of_spray h.spray
  brush := fun s b _ => h.brush s b
  record := fun _ _ _ _ => h.changeRecord
  travel := fun s m hm _ => h.travel s m hm
  arms := fun s a _ => h.arms s a
  post := h.post
  anyArms := h.arms
  anyRecord := fun _ _ _ => h.changeRecord

theorem Loose.blocks : Blocks P where
  drive := h.drive
  drivePeriod := h.drivePeriod
  water := water_of_spray h.spray fun _ _ _ => h.changeRecord
  brush := h.brush
  arms := h.plain.armed
  sensors := h.sensors
  arb := h.arb
  cond := h.cond
  travel := h.travel
  park := h.park
  post := h.post

end

/-- A property that every elementary update keeps is an invariant of the steps. -/
theorem Whole.invariant {P : State → Prop} (h : Whole P) (hq : ∀ s q, P s → P { s with pending := q }) {s t : State}
    (hs : P s) (ht : Machine.step s = .next t) : P t := by
  obtain ⟨t', e, ht'⟩ := h.step hq hs
  rw [ht] at e
  cases e
  exact ht'

end Sys2Proof.Machine
end

section
/-! Invariants of the steps that need no more than the blocks' elementary updates: Mode Control's record, the drive at
rest, the link buffers, the recipe table and stack. -/

namespace Sys2Proof.Machine

/-! ## Entries to modes, on the records of Mode Control and the drive -/

@[simp] theorem takeMode_pcu (m : Mode) (s : State) : (takeMode m s).pcu = s.pcu := rfl
@[simp] theorem takeMode_mode (m : Mode) (s : State) : (takeMode m s).mc.mode = m := rfl

@[simp] theorem driveEnterTravel_mc (s : State) : (driveEnterTravel s).mc = s.mc := by
  unfold driveEnterTravel
  dsimp only
  split <;> simp

@[simp] theorem driveEnterTravel_pcu (s : State) : (driveEnterTravel s).pcu = s.pcu := by
  unfold driveEnterTravel
  dsimp only
  split <;> simp

/-- Entry to a travel mode writes the brake and, in PARKING, the overspeed flag. -/
theorem driveEnterTravel_drive (s : State) : (driveEnterTravel s).drive = { s.drive with
    brk := true, overspeed := if s.mc.mode = .parking then false else s.drive.overspeed } := by
  unfold driveEnterTravel
  dsimp only
  split <;> simp

theorem Mode.travels_not_settle {m : Mode} (h : m.travels = true) : m ≠ .settle := by
  rintro rfl
  cases h

/-- A ZONE_ADD replaces the queue or changes nothing. -/
theorem takeZoneAdd_keeps {P : State → Prop} (hz : ∀ s zs, P s → P (s.putZones zs)) {s : State} {mark : Word32}
    {slot tag : Byte} (hs : P s) : P (takeZoneAdd mark slot tag s).1 := by
  unfold takeZoneAdd
  split
  · exact hs
  · dsimp only
    split
    · exact hs
    · split
      · exact hz _ _ hs
      · split
        · exact hs
        · exact hz _ _ hs

/-! ## Mode Control's record (R1, R9) -/

/-- The record's law is about Mode Control and the sample alone. -/
theorem ModeRecordOk.same {s t : State} (hs : ModeRecordOk s) (hm : t.mc = s.mc) (hp : t.pcu.sample = s.pcu.sample) :
    ModeRecordOk t := by
  have hstop : t.stopped = s.stopped := by simp only [State.stopped, hp]
  exact ⟨hm ▸ hs.target, hm ▸ hs.settle, by rw [hm, hstop]; exact hs.parkStop⟩

/-- A mode taken at its entry, other than SETTLE, obeys its law. -/
theorem modeRecordOk_takeMode {m : Mode} (h : m ≠ .settle) (s : State) : ModeRecordOk (takeMode m s) := by
  refine ⟨rfl, by simp [takeMode, h], ?_⟩
  have hstop : (takeMode m s).stopped = s.stopped := rfl
  rw [hstop]
  simp only [takeMode]
  split
  · next e => simpa [State.startMs] using e
  · next e => simpa using e

theorem modeRecordOk_enterSettle (s : State) : ModeRecordOk (enterSettle s) :=
  ⟨rfl, by simp [enterSettle, modeReport, takeMode, State.startMs], by simp [enterSettle, modeReport, takeMode]⟩

/-- The law survives every update of another block. -/
theorem loose_modeRecordOk : Loose ModeRecordOk where
  drive := fun _ _ _ hs => hs.same rfl rfl
  drivePeriod := fun _ hs => hs.same rfl rfl
  spray := fun _ _ hs => hs.same rfl rfl
  brush := fun _ _ hs => hs.same rfl rfl
  arms := fun _ _ hs => hs.same rfl rfl
  sensors := fun _ _ hs => hs.same rfl rfl
  arb := fun _ _ hs => hs.same rfl rfl
  cond := fun _ _ hs => hs.same rfl rfl
  travel := fun s _ hm _ => (modeRecordOk_takeMode (Mode.travels_not_settle hm) s).same
    (by simp [modeReport]) (by simp [modeReport])
  park := fun s b _ => (modeRecordOk_takeMode (m := .park) (by decide) s).same
    (by cases b <;> simp [driveEnterPark, modeReport]) (by cases b <;> simp [driveEnterPark, modeReport])
  post := fun _ _ hs => hs.same rfl rfl

/-- The part of the law that a new sample leaves: the park-stop timer runs in PARKING alone. -/
structure ModeTimersOk (s : State) : Prop where
  target : s.mc.target = s.mc.mode.target
  settle : s.mc.settleTimer.isSome = true ↔ s.mc.mode = .settle
  parkStop : s.mc.parkStopTimer.isSome = true → s.mc.mode = .parking

theorem ModeTimersOk.same {s t : State} (hs : ModeTimersOk s) (hm : t.mc = s.mc) : ModeTimersOk t :=
  ⟨hm ▸ hs.target, hm ▸ hs.settle, hm ▸ hs.parkStop⟩

theorem ModeRecordOk.timers {s : State} (hs : ModeRecordOk s) : ModeTimersOk s :=
  ⟨hs.target, hs.settle, fun h => (hs.parkStop.1 h).1⟩

theorem loose_modeTimersOk : Loose ModeTimersOk where
  drive := fun _ _ _ hs => hs.same rfl
  drivePeriod := fun _ hs => hs.same rfl
  spray := fun _ _ hs => hs.same rfl
  brush := fun _ _ hs => hs.same rfl
  arms := fun _ _ hs => hs.same rfl
  sensors := fun _ _ hs => hs.same rfl
  arb := fun _ _ hs => hs.same rfl
  cond := fun _ _ hs => hs.same rfl
  travel := fun s _ hm _ => (modeRecordOk_takeMode (Mode.travels_not_settle hm) s).timers.same (by simp [modeReport])
  park := fun s b _ => (modeRecordOk_takeMode (m := .park) (by decide) s).timers.same
    (by cases b <;> simp [driveEnterPark, modeReport])
  post := fun _ _ hs => hs.same rfl

/-- The park-stop test makes the timer run exactly in PARKING with the vehicle stopped (R9). -/
theorem modeRecordOk_parkStopTest {s : State} (hs : ModeTimersOk s) : ModeRecordOk (parkStopTest s) := by
  obtain ⟨target, settle, parkStop⟩ := hs
  have hstop : ∀ mc, State.stopped { s with mc := mc } = s.stopped := fun _ => rfl
  unfold parkStopTest
  split
  case isTrue hm =>
    refine ⟨target, settle, ?_⟩
    rw [hstop]
    cases hp : s.stopped <;> cases ht : s.mc.parkStopTimer <;> simp [hm, hp, hstop, State.startMs]
  case isFalse hm =>
    exact ⟨target, settle, ⟨fun h => absurd (parkStop h) hm, fun h => absurd h.1 hm⟩⟩

theorem modeRecordOk_gate {s : State} (hs : ModeRecordOk s) : ModeRecordOk (wheelGateOver s) := by
  have weak := loose_modeTimersOk.blocks
  have h : ModeTimersOk (evaluateFlow (forUnits brushSpeedSample (overspeedTest (wheelNotice
      (wheelTest s.pcu.wr s.pcu.wl).2 (wheelNotice (wheelTest s.pcu.wl s.pcu.wr).2 { s with pcu :=
        { closeGate s.setup.ppm (wheelTest s.pcu.wl s.pcu.wr).1 (wheelTest s.pcu.wr s.pcu.wl).1 s.pcu with
          wheelGateTimer := s.startMs 20 } }))))) :=
    weak.speedSample (weak.wheelNotice (weak.wheelNotice (hs.timers.same rfl)))
  exact loose_modeRecordOk.blocks.odometerUpdate (fun _ _ hx => hx.same rfl rfl) (fun _ _ hx => hx.same rfl rfl)
    (fun _ _ hx => hx.same rfl rfl) (modeRecordOk_parkStopTest h)

theorem modeRecordOk_setOdometer {s : State} (v : Word32) (hs : ModeRecordOk s) : ModeRecordOk (takeSetOdometer v s).1 := by
  unfold takeSetOdometer
  split
  · exact loose_modeRecordOk.blocks.odometerUpdate (fun _ _ hx => hx.same rfl rfl) (fun _ _ hx => hx.same rfl rfl)
      (fun _ _ hx => hx.same rfl rfl) (hs.same rfl rfl)
  · exact hs

/-- A reset leaves STANDBY with no timer. -/
theorem modeRecordOk_reset (s : State) : ModeRecordOk (afterReset s) :=
  ⟨rfl, by simp [afterReset, State.reset], by simp [afterReset, State.reset]⟩

theorem whole_modeRecordOk : Whole ModeRecordOk where
  toBlocks := loose_modeRecordOk.blocks
  clock := fun _ _ _ hs => hs.same rfl rfl
  free := fun _ _ hs => hs.same rfl rfl
  pcu := fun _ _ _ hp hs => hs.same rfl hp
  pins := fun _ _ hs => hs.same rfl rfl
  waking := fun s _ _ => loose_modeRecordOk.blocks.wakes (fun _ _ hx => hx.same rfl rfl) <| by
    have h := modeRecordOk_enterSettle s
    exact ⟨by simpa [driveWake, pulseWake] using h.target, by simpa [driveWake, pulseWake] using h.settle,
      by simp [driveWake, pulseWake, enterSettle, modeReport, takeMode]⟩
  restarting := fun s _ => loose_modeRecordOk.blocks.restarts (fun _ _ hx => hx.same rfl rfl) <| by
    have h := modeRecordOk_enterSettle s
    exact ⟨h.target, h.settle, by simp [driveRestart, pulseRestart, enterSettle, modeReport, takeMode]⟩
  resting := fun s _ => loose_modeRecordOk.blocks.rests (fun _ _ hx => hx.same rfl rfl) <|
    (modeRecordOk_takeMode (m := .standby) (by decide) s).same
      (by simp [driveEnterStandby, pulseStandby, modeReport]) (by simp [driveEnterStandby, pulseStandby, modeReport])
  link := fun _ _ _ hs => hs.same rfl rfl
  setup := fun _ _ _ _ hs => hs.same rfl rfl
  pace := fun _ _ hs => hs.same rfl rfl
  slot := fun _ _ _ _ _ hs => hs.same rfl rfl
  refresh := fun _ _ _ hs => hs.same rfl rfl
  stack := fun _ _ _ _ _ hs => hs.same rfl rfl
  zoneAdd := fun _ _ _ _ hs => takeZoneAdd_keeps (fun _ _ hx => hx.same rfl rfl) hs
  zoneClear := fun _ hs => hs.same rfl rfl
  restart := fun _ hs => hs.same rfl rfl
  gate := fun _ hs => modeRecordOk_gate hs
  setOdometer := fun _ v hs => modeRecordOk_setOdometer v hs
  reset := fun s _ => modeRecordOk_reset s

/-- Settles O4: the law of the record is kept by the blocks' updates, and the park-stop test restores it at a gate. -/
theorem modeRecordStaysARowOfTheTable : Obligations.ModeRecordStaysARowOfTheTable := by
  unfold Obligations.ModeRecordStaysARowOfTheTable
  intro s t hs ht
  have h := whole_modeRecordOk.invariant (fun _ _ hx => hx.same rfl rfl) hs ht
  refine ⟨h, ?_⟩
  have target := h.target
  cases hm : t.mc.mode <;> simp [hm, target, Mode.target]

/-! ## The drive at rest outside the travel modes (R30, R43, R46) -/

theorem DriveRestOk.same {s t : State} (hs : DriveRestOk s) (hm : t.mc.mode = s.mc.mode) (hd : t.drive = s.drive) :
    DriveRestOk t :=
  ⟨by rw [hm, hd]; exact hs.brake, by rw [hm, hd]; exact hs.rest⟩

/-- What it means for the drive's formed parts to be zero, part by part. -/
theorem eq_zeroed_iff (d : Drive) : d = d.zeroed ↔ d.target = 0 ∧ d.ramped = 0 ∧ d.correction = 0 ∧
    d.clampFlag = false ∧ d.dispCmd = 0 ∧ d.demand = 0 ∧ d.overrun = false ∧ d.dispOut = 0 := by
  cases d
  simp only [Drive.zeroed, Drive.mk.injEq, true_and, and_true]

/-! The stages of a drive period do not write the brake. -/

theorem directionStage_brk (s : State) (d : Drive) : (directionStage s d).brk = d.brk := by
  unfold directionStage
  dsimp only
  repeat' split
  all_goals rfl

theorem correctionStage_brk (s : State) (d : Drive) : (correctionStage s d).brk = d.brk := by
  unfold correctionStage
  split
  · rfl
  · split <;> rfl

theorem demandStage_brk (s : State) (d : Drive) : (demandStage s d).brk = d.brk := by
  unfold demandStage
  split
  · rfl
  · dsimp only
    split <;> split <;> rfl

theorem driveStages_brk (s : State) (d : Drive) : (driveStages s d).brk = d.brk := calc
  (driveStages s d).brk = (correctionStage s (rampStage (directionStage s d))).brk := demandStage_brk s _
  _ = (rampStage (directionStage s d)).brk := correctionStage_brk s _
  _ = d.brk := directionStage_brk s d

/-- The drive's law holds wherever the drive is at rest with the brake applied and the mode is not a travel mode. -/
theorem driveRestOk_of_atRest {s : State} {d : Drive} (hm : s.mc.mode.travels = false)
    (hd : SameOutput d.atRest s.drive) : DriveRestOk s := by
  obtain ⟨ht, hr, hc, hf, hx, hp, ho, hy, hb⟩ := hd
  exact ⟨by rw [hb, hm]; rfl, fun _ => (eq_zeroed_iff _).2 ⟨ht, hr, hc, hf, hx, hp, ho, hy⟩⟩

theorem loose_driveRestOk : Loose DriveRestOk where
  drive := fun s d hd hs => by
    obtain ⟨ht, hr, hc, hf, hx, hp, ho, hy, hb⟩ := hd
    refine ⟨hb.trans hs.brake, fun hm => (eq_zeroed_iff _).2 ?_⟩
    dsimp only
    rw [ht, hr, hc, hf, hx, hp, ho, hy]
    exact (eq_zeroed_iff _).1 (hs.rest hm)
  drivePeriod := fun s hs => by
    refine ⟨?_, fun hm => ?_⟩
    · unfold drivePeriod
      dsimp only
      split
      · exact (driveStages_brk _ _).trans hs.brake
      · exact hs.brake
    · have hm : s.mc.mode.travels = false := hm
      simp only [drivePeriod, hm, Bool.false_eq_true, if_false, Drive.zeroed]
  spray := fun _ _ hs => hs.same rfl rfl
  brush := fun _ _ hs => hs.same rfl rfl
  arms := fun _ _ hs => hs.same rfl rfl
  sensors := fun _ _ hs => hs.same rfl rfl
  arb := fun _ _ hs => hs.same rfl rfl
  cond := fun _ _ hs => hs.same rfl rfl
  travel := fun s m hm _ =>
    ⟨by simp [driveEnterTravel_drive, modeReport, hm], fun h => by simp [modeReport, hm] at h⟩
  park := fun s b _ => driveRestOk_of_atRest (d := s.drive)
    (by cases b <;> simp [driveEnterPark, modeReport, Mode.travels])
    (by cases b <;> simp [driveEnterPark, modeReport, SameOutput, takeMode])
  post := fun _ _ hs => hs.same rfl rfl

theorem whole_driveRestOk : Whole DriveRestOk where
  toBlocks := loose_driveRestOk.blocks
  clock := fun _ _ _ hs => hs.same rfl rfl
  free := fun _ _ hs => hs.same rfl rfl
  pcu := fun _ _ _ _ hs => hs.same rfl rfl
  pins := fun _ _ hs => hs.same rfl rfl
  waking := fun s _ _ => loose_driveRestOk.blocks.wakes (fun _ _ hx => hx.same rfl rfl) <|
    driveRestOk_of_atRest (d := s.drive) (by simp [driveWake, pulseWake, enterSettle, modeReport, Mode.travels])
      (by simp [driveWake, pulseWake, enterSettle, modeReport, SameOutput, takeMode])
  restarting := fun s _ => loose_driveRestOk.blocks.restarts (fun _ _ hx => hx.same rfl rfl) <|
    driveRestOk_of_atRest (d := s.drive) (by simp [driveRestart, pulseRestart, enterSettle, modeReport, Mode.travels])
      (by simp [driveRestart, pulseRestart, enterSettle, modeReport, SameOutput, takeMode])
  resting := fun s _ => loose_driveRestOk.blocks.rests (fun _ _ hx => hx.same rfl rfl) <|
    driveRestOk_of_atRest (d := s.drive) (by simp [driveEnterStandby, pulseStandby, modeReport, Mode.travels])
      (by simp [driveEnterStandby, pulseStandby, modeReport, SameOutput, takeMode])
  link := fun _ _ _ hs => hs.same rfl rfl
  setup := fun _ _ _ _ hs => hs.same rfl rfl
  pace := fun _ _ hs => hs.same rfl rfl
  slot := fun _ _ _ _ _ hs => hs.same rfl rfl
  refresh := fun _ _ _ hs => hs.same rfl rfl
  stack := fun _ _ _ _ _ hs => hs.same rfl rfl
  zoneAdd := fun _ _ _ _ hs => takeZoneAdd_keeps (fun _ _ hx => hx.same rfl rfl) hs
  zoneClear := fun _ hs => hs.same rfl rfl
  restart := fun _ hs => hs.same rfl rfl
  gate := fun _ hs => loose_driveRestOk.blocks.wheelGate (fun _ _ hx => hx.same rfl rfl) (fun _ _ hx => hx.same rfl rfl)
    (fun _ _ hx => hx.same rfl rfl) (fun _ _ hx => hx.same rfl rfl) (fun _ _ hx => hx.same rfl rfl) hs
  setOdometer := fun _ _ hs => loose_driveRestOk.blocks.takeSetOdometer (fun _ _ hx => hx.same rfl rfl)
    (fun _ _ hx => hx.same rfl rfl) (fun _ _ hx => hx.same rfl rfl) (fun _ _ hx => hx.same rfl rfl) hs
  reset := fun s _ => ⟨rfl, fun _ => rfl⟩

/-- Settles O5: the blocks' updates outside the drive period leave the drive's formed parts alone, every entry to a mode
writes the brake, and the drive period forms zeros outside the travel modes. -/
theorem driveStaysAtRestOutsideTravelModes : Obligations.DriveStaysAtRestOutsideTravelModes := by
  unfold Obligations.DriveStaysAtRestOutsideTravelModes
  intro s t hs ht
  exact whole_driveRestOk.invariant (fun _ _ hx => hx.same rfl rfl) hs ht

/-! ## Properties of the records that requests own -/

/-- A property that says nothing of Mode Control, the drive, the brushes, the arms, the water, the arbiter, the sensors,
the conditions, and the pulse capture but for the odometer, and that a report keeps. -/
structure Outer (P : State → Prop) : Prop where
  mc : ∀ s m, P s → P { s with mc := m }
  drive : ∀ s d, P s → P { s with drive := d }
  pcu : ∀ s p, p.odometer = s.pcu.odometer → P s → P { s with pcu := p }
  spray : ∀ s p, P s → P { s with spray := p }
  brush : ∀ s b, P s → P { s with brush := b }
  arms : ∀ s a, P s → P { s with arms := a }
  sensors : ∀ s x, P s → P { s with sensors := x }
  arb : ∀ s a, P s → P { s with arb := a }
  cond : ∀ s c, P s → P { s with cond := c }
  post : ∀ s r, P s → P (s.post r)

section
variable {P : State → Prop} (h : Outer P) {s : State}
include h

theorem Outer.changeRecord {k : CondKind} {v : CondState} (hs : P s) : P (changeRecord k v s) := by
  unfold Machine.changeRecord
  dsimp only
  split
  · exact hs
  · exact h.arb _ _ (h.cond _ _ (h.post _ _ hs))

theorem Outer.clearOverspeed (hs : P s) : P (clearOverspeed s) := by
  unfold Machine.clearOverspeed
  split
  · exact h.changeRecord (h.drive _ _ hs)
  · exact hs

theorem Outer.modeReport {m : Mode} (hs : P s) : P (modeReport (takeMode m s)) := h.post _ _ (h.mc _ _ hs)

theorem Outer.enterSettle (hs : P s) : P (enterSettle s) := h.post _ _ (h.mc _ _ (h.mc _ _ hs))

theorem Outer.loose : Loose P where
  drive := fun s d _ => h.drive s d
  drivePeriod := fun _ hs => h.drive _ _ hs
  spray := h.spray
  brush := h.brush
  arms := h.arms
  sensors := h.sensors
  arb := h.arb
  cond := h.cond
  travel := fun s m _ hs => by
    unfold driveEnterTravel
    dsimp only
    split
    · exact h.clearOverspeed (h.drive _ _ (h.modeReport hs))
    · exact h.drive _ _ (h.modeReport hs)
  park := fun s b hs => by
    unfold driveEnterPark
    exact h.clearOverspeed (h.drive _ _ (h.modeReport hs))
  post := h.post

theorem Outer.waking (hs : P s) : P (armsWake (brushWake (driveWake (pulseWake (Machine.enterSettle s))))) :=
  h.loose.blocks.wakes h.arms (h.clearOverspeed (h.drive _ _ (h.pcu _ _ rfl (h.enterSettle hs))))

theorem Outer.restarting (hs : P s) :
    P (armsRestart (brushRestart (driveRestart (pulseRestart (Machine.enterSettle s))))) :=
  h.loose.blocks.restarts h.arms (h.drive _ _ (h.pcu _ _ rfl (h.enterSettle hs)))

theorem Outer.resting (hs : P s) :
    P (armsStandby (brushStandby (driveEnterStandby (pulseStandby (Machine.modeReport (takeMode .standby s)))))) :=
  h.loose.blocks.rests h.arms (h.clearOverspeed (h.drive _ _ (h.pcu _ _ rfl (h.modeReport hs))))

/-- What a wheel gate does before the Recipe Unit has the odometer update, for a property that the new odometer keeps. -/
theorem Outer.beforeUpdate {p : PulseCapture} {a b : WheelNews} (hs : P { s with pcu := p }) :
    P (parkStopTest (Machine.evaluateFlow (forUnits Machine.brushSpeedSample (Machine.overspeedTest
      (Machine.wheelNotice a (Machine.wheelNotice b { s with pcu := p })))))) := by
  have h1 := h.loose.blocks.speedSample (h.loose.blocks.wheelNotice (n := a) (h.loose.blocks.wheelNotice (n := b) hs))
  unfold parkStopTest
  split
  · exact h.mc _ _ h1
  · exact h1

end

/-! ## The link buffers (R166, R167, R169) -/

theorem LinkOk.same {s t : State} (hs : LinkOk s) (hl : t.link = s.link) : LinkOk t :=
  ⟨by rw [hl]; exact hs.places, by rw [hl]; exact hs.reports, by rw [hl]; exact hs.errors⟩

/-- A report joins the queue only below sixteen. -/
theorem LinkPort.post_reports_length {l : LinkPort} (r : Report) (h : l.reports.length ≤ 16) :
    (l.post r).reports.length ≤ 16 := by
  unfold LinkPort.post
  split
  · simp only [List.length_append, List.length_singleton]
    omega
  · exact h

theorem outer_linkOk : Outer LinkOk where
  mc := fun _ _ hs => hs.same rfl
  drive := fun _ _ hs => hs.same rfl
  pcu := fun _ _ _ hs => hs.same rfl
  spray := fun _ _ hs => hs.same rfl
  brush := fun _ _ hs => hs.same rfl
  arms := fun _ _ hs => hs.same rfl
  sensors := fun _ _ hs => hs.same rfl
  arb := fun _ _ hs => hs.same rfl
  cond := fun _ _ hs => hs.same rfl
  post := fun _ r hs => ⟨by simpa using hs.places, LinkPort.post_reports_length r hs.reports, by simpa using hs.errors⟩

theorem whole_linkOk : Whole LinkOk where
  toBlocks := outer_linkOk.loose.blocks
  clock := fun _ _ _ hs => hs.same rfl
  free := fun _ _ hs => hs.same rfl
  pcu := fun _ _ _ _ hs => hs.same rfl
  pins := fun _ _ hs => hs.same rfl
  waking := fun _ _ hs => outer_linkOk.waking hs
  restarting := fun _ hs => outer_linkOk.restarting hs
  resting := fun _ hs => outer_linkOk.resting hs
  link := fun s l hl hs => by
    obtain ⟨hrx, hreports, herrors⟩ := hl
    obtain ⟨places, reports, errors⟩ := hs
    exact ⟨by dsimp only; omega, by dsimp only; omega, by dsimp only; omega⟩
  setup := fun _ _ _ _ hs => hs.same rfl
  pace := fun _ _ hs => hs.same rfl
  slot := fun _ _ _ _ _ hs => hs.same rfl
  refresh := fun _ _ _ hs => hs.same rfl
  stack := fun _ _ _ _ _ hs => hs.same rfl
  zoneAdd := fun _ _ _ _ hs => takeZoneAdd_keeps (fun _ _ hx => hx.same rfl) hs
  zoneClear := fun _ hs => hs.same rfl
  restart := fun _ hs => hs.same rfl
  gate := fun _ hs => outer_linkOk.loose.blocks.wheelGate (fun _ _ hx => hx.same rfl) (fun _ _ hx => hx.same rfl)
    (fun _ _ hx => hx.same rfl) (fun _ _ hx => hx.same rfl) (fun _ _ hx => hx.same rfl) hs
  setOdometer := fun _ _ hs => outer_linkOk.loose.blocks.takeSetOdometer (fun _ _ hx => hx.same rfl)
    (fun _ _ hx => hx.same rfl) (fun _ _ hx => hx.same rfl) (fun _ _ hx => hx.same rfl) hs
  reset := fun _ _ => ⟨Nat.zero_le _, Nat.zero_le _, Nat.zero_le _⟩

/-- Settles O6: no update of the link port makes a buffer longer than its bound (`LinkStep`), and posting a report stops
at sixteen. -/
theorem linkBuffersStayWithinTheirSizes : Obligations.LinkBuffersStayWithinTheirSizes := by
  unfold Obligations.LinkBuffersStayWithinTheirSizes
  intro s t hs ht
  exact whole_linkOk.invariant (fun _ _ hx => hx.same rfl) hs ht

/-! ## Every command answers (logs 7, 8, 16, 22, 24) -/

/-- The queue is a given state's, and the time is at least that state's. -/
def TimeKept (b x : State) : Prop := x.pending = b.pending ∧ b.clock ≤ x.clock

theorem outer_timeKept (b : State) : Outer (TimeKept b) :=
  ⟨fun _ _ hs => hs, fun _ _ hs => hs, fun _ _ _ hs => hs, fun _ _ hs => hs, fun _ _ hs => hs, fun _ _ hs => hs,
    fun _ _ hs => hs, fun _ _ hs => hs, fun _ _ hs => hs, fun _ _ hs => hs⟩

theorem whole_timeKept (b : State) : Whole (TimeKept b) where
  toBlocks := (outer_timeKept b).loose.blocks
  clock := fun _ _ hn hs => ⟨hs.1, Nat.le_trans hs.2 hn⟩
  free := fun _ _ hs => hs
  pcu := fun _ _ _ _ hs => hs
  pins := fun _ _ hs => hs
  waking := fun _ _ hs => (outer_timeKept b).waking hs
  restarting := fun _ hs => (outer_timeKept b).restarting hs
  resting := fun _ hs => (outer_timeKept b).resting hs
  link := fun _ _ _ hs => hs
  setup := fun _ _ _ _ hs => hs
  pace := fun _ _ hs => hs
  slot := fun _ _ _ _ _ hs => hs
  refresh := fun _ _ _ hs => hs
  stack := fun _ _ _ _ _ hs => hs
  zoneAdd := fun _ _ _ _ hs => takeZoneAdd_keeps (fun _ _ hx => hx) hs
  zoneClear := fun _ hs => hs
  restart := fun _ hs => hs
  gate := fun _ hs => (outer_timeKept b).loose.blocks.wheelGate (fun _ _ hx => hx) (fun _ _ hx => hx)
    (fun _ _ hx => hx) (fun _ _ hx => hx) (fun _ _ hx => hx) hs
  setOdometer := fun _ _ hs => (outer_timeKept b).loose.blocks.takeSetOdometer (fun _ _ hx => hx)
    (fun _ _ hx => hx) (fun _ _ hx => hx) (fun _ _ hx => hx) hs
  reset := fun _ hs => hs

/-- Settles O2: no update of a command touches the queue or turns the time back. -/
theorem everyCommandAnswersANextState : Obligations.EveryCommandAnswersANextState := by
  unfold Obligations.EveryCommandAnswersANextState
  intro c s
  exact (whole_timeKept s).exec c ⟨rfl, Nat.le_refl _⟩

end Sys2Proof.Machine
end

section
/-! Invariants of the recipe table and stack, of the setup, and of the zone queue. -/

namespace Sys2Proof.Machine

/-! ## The recipe table and stack (R127, R128, R132) -/

theorem RecipesOk.same {s t : State} (hs : RecipesOk s) (hr : t.recipes = s.recipes) : RecipesOk t :=
  ⟨by rw [hr]; exact hs.slotZero, by rw [hr]; exact hs.invalid, by rw [hr]; exact hs.depth, by rw [hr]; exact hs.slots,
    by rw [hr]; exact hs.entries⟩

theorem RecipesOk.fieldsOk {s : State} (hs : RecipesOk s) : FieldsOk s.recipes := ⟨hs.slots, hs.entries⟩

theorem putSlot_slots (s : State) (n m : Fin 32) (x : Slot) :
    (s.putSlot n x).recipes.slots[m] = if m = n then x else s.recipes.slots[m] := by
  simp only [State.putSlot, Fin.getElem_fin, Vector.getElem_set, Fin.ext_iff, eq_comm]

/-- A lawful slot put into a lawful table leaves it lawful. -/
theorem recipesOk_putSlot {s : State} {n : Fin 32} {x : Slot} (hx : SlotOk n x) (hf : FieldsInRange x.fields)
    (hs : RecipesOk s) : RecipesOk (s.putSlot n x) where
  slotZero := by
    have h := putSlot_slots s n 0 x
    rw [show (s.putSlot n x).recipes.slots[0] = (s.putSlot n x).recipes.slots[(0 : Fin 32)] from rfl, h]
    split
    · next e =>
      rcases hx with hv | ⟨hn, _⟩
      · exact hv
      · exact absurd e.symm hn
    · exact hs.slotZero
  invalid := fun m => by
    rw [putSlot_slots]
    split
    · intro hv
      rcases hx with hv' | ⟨_, hx⟩
      · rw [hv'] at hv
        cases hv
      · exact hx
    · exact hs.invalid m
  depth := hs.depth
  slots := fun m => by
    rw [putSlot_slots]
    split
    · exact hf
    · exact hs.slots m
  entries := hs.entries

@[simp] theorem refreshSlot_fields (g : Byte) (x : Slot) : (refreshSlot g x).fields = x.fields := by
  simp only [refreshSlot]

@[simp] theorem refreshSlot_valid (g : Byte) (x : Slot) : (refreshSlot g x).valid = x.valid := by
  simp only [refreshSlot]

/-- A REFRESH clears dirty marks alone, so an invalid slot keeps its state. -/
theorem slotOk_refreshSlot {s : State} (g : Byte) (n : Fin 32) (hs : RecipesOk s) :
    SlotOk n (refreshSlot g s.recipes.slots[n]) := by
  cases hv : s.recipes.slots[n].valid with
  | true =>
    rw [SlotOk, refreshSlot_valid]
    exact Or.inl hv
  | false =>
    refine Or.inr ⟨?_, ?_⟩
    · rintro rfl
      have h0 : s.recipes.slots[(0 : Fin 32)].valid = true := hs.slotZero
      rw [hv] at h0
      cases h0
    · rw [hs.invalid n hv]
      simp only [refreshSlot, Slot.invalid, noDirty, Slot.mk.injEq, true_and]
      ext i hi
      simp

theorem outer_recipesOk : Outer RecipesOk where
  mc := fun _ _ hs => hs.same rfl
  drive := fun _ _ hs => hs.same rfl
  pcu := fun _ _ _ hs => hs.same rfl
  spray := fun _ _ hs => hs.same rfl
  brush := fun _ _ hs => hs.same rfl
  arms := fun _ _ hs => hs.same rfl
  sensors := fun _ _ hs => hs.same rfl
  arb := fun _ _ hs => hs.same rfl
  cond := fun _ _ hs => hs.same rfl
  post := fun _ _ hs => hs.same rfl

/-- A base whose fields are a slot's, as a reached zone makes it. -/
theorem recipesOk_base {s : State} {n : Fin 32} (hs : RecipesOk s) :
    RecipesOk { s with recipes := { s.recipes with base := ⟨n, s.recipes.slots[n].fields⟩ } } where
  slotZero := hs.slotZero
  invalid := hs.invalid
  depth := hs.depth
  slots := hs.slots
  entries := fun e he => by
    rcases List.mem_cons.1 he with rfl | he
    · exact hs.slots n
    · exact hs.entries e (List.mem_cons_of_mem _ he)

/-- A queue and a reference are no part of the law. -/
theorem RecipesOk.zones {s : State} (zs : List ZoneEntry) (n : Word32) (hs : RecipesOk s) :
    RecipesOk { s with recipes := { s.recipes with zones := zs, reference := n } } :=
  ⟨hs.slotZero, hs.invalid, hs.depth, hs.slots, hs.entries⟩

theorem resetSlots_eq (n : Fin 32) : resetSlots[n] = { Slot.invalid with valid := decide (n = 0) } := by
  by_cases hn : n = 0
  · subst hn
    rfl
  · have h0 : (0 : ℕ) ≠ n.val := fun e => hn (Fin.ext e.symm)
    simp [resetSlots, Vector.getElem_replicate, h0, hn, Slot.invalid]

theorem recipesOk_reset (s : State) : RecipesOk (afterReset s) where
  slotZero := by
    have h := resetSlots_eq 0
    exact congrArg Slot.valid h
  invalid := fun n hv => by
    have h : (afterReset s).recipes.slots[n] = _ := resetSlots_eq n
    rw [h] at hv ⊢
    simp only at hv
    rw [hv]
    rfl
  depth := ⟨Nat.le_refl 1, Nat.succ_le_succ (Nat.zero_le 3)⟩
  slots := fun n => by
    have h : (afterReset s).recipes.slots[n] = _ := resetSlots_eq n
    rw [h]
    exact defaults_inRange
  entries := fun e he => by
    rw [List.mem_singleton.1 he]
    exact defaults_inRange

theorem whole_recipesOk : Whole RecipesOk where
  toBlocks := outer_recipesOk.loose.blocks
  clock := fun _ _ _ hs => hs.same rfl
  free := fun _ _ hs => hs.same rfl
  pcu := fun _ _ _ _ hs => hs.same rfl
  pins := fun _ _ hs => hs.same rfl
  waking := fun _ _ hs => outer_recipesOk.waking hs
  restarting := fun _ hs => outer_recipesOk.restarting hs
  resting := fun _ hs => outer_recipesOk.resting hs
  link := fun _ _ _ hs => hs.same rfl
  setup := fun _ _ _ _ hs => hs.same rfl
  pace := fun _ _ hs => ⟨hs.slotZero, hs.invalid, hs.depth, hs.slots, hs.entries⟩
  slot := fun _ _ _ hx hf hs => recipesOk_putSlot hx (hf hs.fieldsOk) hs
  refresh := fun s n g hs => recipesOk_putSlot (slotOk_refreshSlot g n hs)
    (by rw [refreshSlot_fields]; exact hs.slots n) hs
  stack := fun s b o ho hf hs => by
    refine ⟨hs.slotZero, hs.invalid, ⟨Nat.succ_pos _, ?_⟩, hs.slots, hf hs.fieldsOk⟩
    have hd := hs.depth.2
    simp only [Recipes.depth] at hd ⊢
    omega
  zoneAdd := fun _ _ _ _ hs => takeZoneAdd_keeps (fun _ zs hx => hx.zones zs _) hs
  zoneClear := fun _ hs => hs.zones [] _
  restart := fun s hs => ⟨hs.slotZero, hs.invalid, ⟨Nat.le_refl 1, Nat.succ_le_succ (Nat.zero_le 3)⟩, hs.slots, fun e he => by
    rw [List.mem_singleton.1 he]
    exact hs.slots 0⟩
  gate := fun _ hs => outer_recipesOk.loose.blocks.wheelGate (fun _ _ hx => hx.same rfl) (fun _ _ hx => hx.same rfl)
    (fun _ _ hx => recipesOk_base hx) (fun _ zs hx => hx.zones zs _) (fun _ n hx => hx.zones _ n) hs
  setOdometer := fun _ _ hs => outer_recipesOk.loose.blocks.takeSetOdometer (fun _ _ hx => hx.same rfl)
    (fun _ _ hx => recipesOk_base hx) (fun _ zs hx => hx.zones zs _) (fun _ n hx => hx.zones _ n) hs
  reset := fun s _ => recipesOk_reset s

/-- Settles O7: every write puts lawful slots and entries, a stack grows below depth 4 alone, and erasing restores the
invalid slot but in place 0. -/
theorem recipeTableAndStackStayLawful : Obligations.RecipeTableAndStackStayLawful := by
  unfold Obligations.RecipeTableAndStackStayLawful
  intro s t hs ht
  exact whole_recipesOk.invariant (fun _ _ hx => hx.same rfl) hs ht

/-! ## The setup (R172, R66) -/

/-- One stored value replaced changes one place of one group. -/
theorem Setup.put_group (x : Setup) (g n h : Nat) (v : Int) :
    (x.put g n v).group h = if h = g then (x.group g).set n v else x.group h := by
  by_cases e : h = g
  · subst e
    rw [if_pos rfl]
    unfold Setup.put Setup.group
    split <;> simp
  · rw [if_neg e]
    unfold Setup.put
    split <;> unfold Setup.group <;> split <;> first | rfl | exact absurd rfl e

/-- Every stored parameter lies in its range. -/
def RangesOk (x : Setup) : Prop :=
  ∀ (g n : Nat) (v : Int) (r : Int × Int), (x.group g)[n]? = some v → setupRange g n = some r → r.1 ≤ v ∧ v ≤ r.2

theorem RangesOk.put {x : Setup} {g n : Nat} {v : Int} (hx : RangesOk x)
    (hv : ∀ r, setupRange g n = some r → r.1 ≤ v ∧ v ≤ r.2) : RangesOk (x.put g n v) := by
  intro h m w r hw hr
  rw [Setup.put_group] at hw
  split at hw
  · next e =>
    subst e
    rw [List.getElem?_set] at hw
    split at hw
    · next e =>
      subst e
      split at hw
      · cases hw
        exact hv r hr
      · cases hw
    · exact hx _ _ _ _ hw hr
  · exact hx _ _ _ _ hw hr

/-- A range of Table 11-5 stands in its group's list, at its number. -/
theorem setupRange_eq_some {g n : Nat} {r : Int × Int} (h : setupRange g n = some r) :
    g < 7 ∧ (setupRanges g)[n]? = some (some r) := by
  have hg : g < 7 := by
    by_contra hc
    have : setupRanges g = [] := by
      unfold setupRanges
      split <;> first | omega | rfl
    rw [setupRange, this] at h
    cases h
  refine ⟨hg, ?_⟩
  unfold setupRange at h
  cases e : (setupRanges g)[n]? with
  | none => rw [e] at h; cases h
  | some o => rw [e] at h; exact congrArg some h

/-- No listed range is empty. -/
theorem setupRange_le {g n : Nat} {r : Int × Int} (h : setupRange g n = some r) : r.1 ≤ r.2 := by
  have all : ∀ g ∈ List.range 7, ∀ o ∈ setupRanges g, ∀ r ∈ o, r.1 ≤ r.2 := by decide
  obtain ⟨hg, hr⟩ := setupRange_eq_some h
  exact all g (List.mem_range.2 hg) _ (List.mem_of_getElem? hr) r rfl

theorem clamp_mem {lo hi : Int} (h : lo ≤ hi) (x : Int) : lo ≤ clamp lo hi x ∧ clamp lo hi x ≤ hi := by
  unfold clamp
  omega

/-- A limited value lies in its parameter's range. -/
theorem limited_mem {g : Nat} {n : Byte} {r : Int × Int} (h : setupRange g n.toNat = some r) (v : Int) :
    r.1 ≤ limited g n v ∧ limited g n v ≤ r.2 := by
  rw [limited, h]
  exact clamp_mem (setupRange_le h) v

theorem rangesOk_applyPairs (g : Nat) (ps : List (Byte × Int)) : ∀ x, RangesOk x → RangesOk (applyPairs g ps x) := by
  induction ps with
  | nil => exact fun x hx => hx
  | cons p ps ih => exact fun x hx => ih _ (hx.put fun r hr => limited_mem hr p.2)

/-! The stop_rpm of the units that lie too high are set below their start_rpm, which stays. -/

theorem startRpm_getElem (x : Setup) (u : BrushUnit) : (x.group 1)[unitNumber u]? = some (x.startRpm u) := by
  cases u <;> simp [Setup.group, unitNumber, Setup.startRpm]

theorem stopRpm_getElem (x : Setup) (u : BrushUnit) : (x.group 1)[stopNumber u]? = some (x.stopRpm u) := by
  cases u <;> simp [Setup.group, stopNumber, unitNumber, Setup.stopRpm]

theorem RangesOk.startRpm {x : Setup} (hx : RangesOk x) (u : BrushUnit) : 1 ≤ x.startRpm u ∧ x.startRpm u ≤ 300 :=
  hx 1 _ _ (1, 300) (startRpm_getElem x u) (by cases u <;> rfl)

theorem startRpm_put_stop (x : Setup) (u v : BrushUnit) (n : Int) :
    (x.put 1 (stopNumber u) n).startRpm v = x.startRpm v := by
  cases u <;> cases v <;> simp [Setup.put, Setup.startRpm, stopNumber, unitNumber]

theorem stopRpm_put_stop (x : Setup) (u v : BrushUnit) (n : Int) :
    (x.put 1 (stopNumber u) n).stopRpm v = if v = u then n else x.stopRpm v := by
  cases u <;> cases v <;> simp [Setup.put, Setup.stopRpm, stopNumber, unitNumber]

/-- Some units' stop_rpm lowered: one of these units has start_rpm − 1, and every other keeps its value. -/
theorem lowered_stops (us : List BrushUnit) : ∀ (x : Setup),
    let y := us.foldl (fun x u => x.put 1 (stopNumber u) (x.startRpm u - 1)) x
    (RangesOk x → RangesOk y) ∧ ∀ v, y.startRpm v = x.startRpm v ∧
      y.stopRpm v = if v ∈ us then x.startRpm v - 1 else x.stopRpm v := by
  induction us with
  | nil => exact fun x => ⟨fun hx => hx, fun v => ⟨rfl, by simp⟩⟩
  | cons u us ih =>
    intro x
    obtain ⟨hr, hv⟩ := ih (x.put 1 (stopNumber u) (x.startRpm u - 1))
    refine ⟨fun hx => hr (hx.put fun r hs => ?_), fun v => ?_⟩
    · have h := hx.startRpm u
      have hs : r = (0, 299) := by cases u <;> exact (Option.some.inj hs).symm
      rw [hs]
      exact ⟨by dsimp only; omega, by dsimp only; omega⟩
    · obtain ⟨hstart, hstop⟩ := hv v
      rw [startRpm_put_stop] at hstart hstop
      refine ⟨hstart, hstop.trans ?_⟩
      rw [stopRpm_put_stop]
      by_cases e : v = u <;> by_cases m : v ∈ us <;> simp [e, m]

theorem mem_stopsTooHigh (x : Setup) (u : BrushUnit) : u ∈ stopsTooHigh x ↔ x.startRpm u ≤ x.stopRpm u := by
  unfold stopsTooHigh
  cases u <;> simp

theorem lowerStops_startRpm (x : Setup) (u : BrushUnit) : (lowerStops x).startRpm u = x.startRpm u :=
  ((lowered_stops _ x).2 u).1

theorem lowerStops_stopRpm (x : Setup) (u : BrushUnit) :
    (lowerStops x).stopRpm u = if x.startRpm u ≤ x.stopRpm u then x.startRpm u - 1 else x.stopRpm u :=
  ((lowered_stops _ x).2 u).2.trans (by simp only [mem_stopsTooHigh])

theorem rangesOk_writtenSetup {g : Nat} {ps : List (Byte × Int)} {x : Setup} (hx : RangesOk x) :
    RangesOk (writtenSetup g ps x) := by
  unfold writtenSetup
  split
  · exact (lowered_stops _ _).1 (rangesOk_applyPairs g ps x hx)
  · exact rangesOk_applyPairs g ps x hx

/-- A write of another group leaves the brush parameters alone. -/
theorem applyPairs_brush {g : Nat} (hg : g ≠ 1) (ps : List (Byte × Int)) : ∀ x, (applyPairs g ps x).brush = x.brush := by
  have put : ∀ (x : Setup) (n : Nat) (v : Int), (x.put g n v).brush = x.brush := by
    intro x n v
    unfold Setup.put
    split <;> first | rfl | exact absurd rfl hg
  induction ps with
  | nil => exact fun _ => rfl
  | cons p ps ih => exact fun x => (ih _).trans (put _ _ _)

theorem stops_writtenSetup {g : Nat} {ps : List (Byte × Int)} {x : Setup}
    (hx : ∀ u, x.stopRpm u < x.startRpm u) (u : BrushUnit) :
    (writtenSetup g ps x).stopRpm u < (writtenSetup g ps x).startRpm u := by
  unfold writtenSetup
  split
  · rw [lowerStops_startRpm, lowerStops_stopRpm]
    split <;> omega
  · next hg =>
    have hb := applyPairs_brush hg ps x
    have h := hx u
    cases u <;> simpa only [Setup.stopRpm, Setup.startRpm, hb] using h

theorem SetupOk.same {s t : State} (hs : SetupOk s) (h : t.setup = s.setup) : SetupOk t :=
  ⟨by rw [h]; exact hs.range, by rw [h]; exact hs.stops⟩

theorem outer_setupOk : Outer SetupOk where
  mc := fun _ _ hs => hs.same rfl
  drive := fun _ _ hs => hs.same rfl
  pcu := fun _ _ _ hs => hs.same rfl
  spray := fun _ _ hs => hs.same rfl
  brush := fun _ _ hs => hs.same rfl
  arms := fun _ _ hs => hs.same rfl
  sensors := fun _ _ hs => hs.same rfl
  arb := fun _ _ hs => hs.same rfl
  cond := fun _ _ hs => hs.same rfl
  post := fun _ _ hs => hs.same rfl

theorem rangesOk_defaults : RangesOk Setup.defaults := by
  have all : ∀ g ∈ List.range 7, ∀ p ∈ (Setup.defaults.group g).zip (setupRanges g), ∀ r ∈ p.2, r.1 ≤ p.1 ∧ p.1 ≤ r.2 := by
    decide
  intro g n v r hv hr
  obtain ⟨hg, hr⟩ := setupRange_eq_some hr
  exact all g (List.mem_range.2 hg) (v, some r) (List.mem_of_getElem? (List.getElem?_zip_eq_some.2 ⟨hv, hr⟩)) r rfl

theorem setupOk_reset (s : State) : SetupOk (afterReset s) :=
  ⟨rangesOk_defaults,
    fun u => show Setup.defaults.stopRpm u < Setup.defaults.startRpm u by cases u <;> decide⟩

theorem whole_setupOk : Whole SetupOk where
  toBlocks := outer_setupOk.loose.blocks
  clock := fun _ _ _ hs => hs.same rfl
  free := fun _ _ hs => hs.same rfl
  pcu := fun _ _ _ _ hs => hs.same rfl
  pins := fun _ _ hs => hs.same rfl
  waking := fun _ _ hs => outer_setupOk.waking hs
  restarting := fun _ hs => outer_setupOk.restarting hs
  resting := fun _ hs => outer_setupOk.resting hs
  link := fun _ _ _ hs => hs.same rfl
  setup := fun _ _ _ _ hs => ⟨rangesOk_writtenSetup hs.range, stops_writtenSetup hs.stops⟩
  pace := fun _ _ hs => hs.same rfl
  slot := fun _ _ _ _ _ hs => hs.same rfl
  refresh := fun _ _ _ hs => hs.same rfl
  stack := fun _ _ _ _ _ hs => hs.same rfl
  zoneAdd := fun _ _ _ _ hs => takeZoneAdd_keeps (fun _ _ hx => hx.same rfl) hs
  zoneClear := fun _ hs => hs.same rfl
  restart := fun _ hs => hs.same rfl
  gate := fun _ hs => outer_setupOk.loose.blocks.wheelGate (fun _ _ hx => hx.same rfl) (fun _ _ hx => hx.same rfl)
    (fun _ _ hx => hx.same rfl) (fun _ _ hx => hx.same rfl) (fun _ _ hx => hx.same rfl) hs
  setOdometer := fun _ _ hs => outer_setupOk.loose.blocks.takeSetOdometer (fun _ _ hx => hx.same rfl)
    (fun _ _ hx => hx.same rfl) (fun _ _ hx => hx.same rfl) (fun _ _ hx => hx.same rfl) hs
  reset := fun s _ => setupOk_reset s

/-- Settles O8: a write limits each value to its range, the BRUSH group's stop_rpm are then lowered below their start_rpm,
and the tables of ranges are read off. -/
theorem setupStaysInRange : Obligations.SetupStaysInRange := by
  unfold Obligations.SetupStaysInRange
  refine ⟨fun s t hs ht => whole_setupOk.invariant (fun _ _ hx => hx.same rfl) hs ht, by decide, fun g n => ?_⟩
  unfold setupRange
  split
  · rfl
  · next hg =>
    have none : setupRanges g = [] := by
      unfold setupRanges
      split <;> first | omega | rfl
    rw [none]
    rfl

end Sys2Proof.Machine
end

section
/-! The zone queue stays in order of distance (R137), through the odometer's updates. -/

namespace Sys2Proof.Machine

/-! ## Distances at two odometers -/

/-- A mark's distance at a new odometer is its old distance and the way back, modulo 2^32. -/
theorem distanceAhead_moved (o n m : Word32) :
    distanceAhead n m = (distanceAhead o m + (o - n).toNat) % 2 ^ 32 := by
  have h : m - n = (m - o) + (o - n) := by abel
  rw [distanceAhead, h, BitVec.toNat_add]
  rfl

/-- Two marks at the same distance are the same mark. -/
theorem distanceAhead_inj {o a b : Word32} (h : distanceAhead o a = distanceAhead o b) : a = b := by
  have e := BitVec.eq_of_toNat_eq h
  have := congrArg (· + o) e
  simpa using this

/-- A queue in strictly ascending distance ahead of an odometer, each entry less than 2^31 ahead. -/
def Ascending (o : Word32) (zs : List ZoneEntry) : Prop :=
  (zs.Pairwise fun a b => distanceAhead o a.mark < distanceAhead o b.mark) ∧ ∀ z ∈ zs, distanceAhead o z.mark < 2 ^ 31

theorem ascending_nil (o : Word32) : Ascending o [] := ⟨List.Pairwise.nil, fun _ h => absurd h (by simp)⟩

/-- Part of a queue, all of whose distances have changed by the same amount, is in order at the new odometer. -/
theorem Ascending.moved {o n : Word32} {zs ys : List ZoneEntry} (h : Ascending o zs) (hsub : ys.Sublist zs)
    (hmono : ∀ a ∈ ys, ∀ b ∈ ys, distanceAhead o a.mark < distanceAhead o b.mark →
      distanceAhead n a.mark < distanceAhead n b.mark)
    (hahead : ∀ z ∈ ys, distanceAhead n z.mark < 2 ^ 31) : Ascending n ys :=
  ⟨(h.1.sublist hsub).imp_of_mem fun {a b} ha hb hlt => hmono a ha b hb hlt, hahead⟩

/-- Back by at most 2^31, every distance grows by the way without passing 2^32. -/
theorem ascending_filter_of_back {o n : Word32} {zs : List ZoneEntry} (h : Ascending o zs) (hback : movesBack o n = true) :
    Ascending n (zs.filter fun z => !tooFar n z.mark) := by
  simp only [movesBack, Bool.and_eq_true, decide_eq_true_eq] at hback
  refine h.moved List.filter_sublist (fun a ha b hb hlt => ?_) (fun z hz => ?_)
  · have ha := h.2 a (List.mem_of_mem_filter ha)
    have hb := h.2 b (List.mem_of_mem_filter hb)
    rw [distanceAhead_moved o n a.mark, distanceAhead_moved o n b.mark]
    omega
  · have := (List.mem_filter.1 hz).2
    simp only [tooFar, Bool.not_eq_true', decide_eq_false_iff_not, not_le] at this
    exact this

/-- Forward by less than 2^31, an entry stays ahead exactly when it was farther than the way. -/
theorem reached_iff {o n m : Word32} (hm : distanceAhead o m < 2 ^ 31) (hforward : ¬ movesBack o n = true) :
    reached n m = true ↔ distanceAhead o m ≤ (n - o).toNat := by
  have hback : (o - n).toNat = (2 ^ 32 - (n - o).toNat) % 2 ^ 32 := by
    rw [show o - n = -(n - o) by abel, BitVec.toNat_neg]
  have hlt : (n - o).toNat < 2 ^ 32 := BitVec.isLt _
  simp only [movesBack, Bool.and_eq_true, decide_eq_true_eq] at hforward
  simp only [reached, Bool.or_eq_true, beq_iff_eq, decide_eq_true_eq, distanceAhead_moved o n m]
  omega

theorem distanceAhead_forward {o n m : Word32} (hm : distanceAhead o m < 2 ^ 31) (hforward : ¬ movesBack o n = true)
    (hfar : (n - o).toNat < distanceAhead o m) : distanceAhead n m = distanceAhead o m - (n - o).toNat := by
  have hback : (o - n).toNat = (2 ^ 32 - (n - o).toNat) % 2 ^ 32 := by
    rw [show o - n = -(n - o) by abel, BitVec.toNat_neg]
  have hlt : (n - o).toNat < 2 ^ 32 := BitVec.isLt _
  simp only [movesBack, Bool.and_eq_true, decide_eq_true_eq] at hforward
  rw [distanceAhead_moved o n m]
  omega

/-- In an ordered queue the entries behind those at the head that lie within a distance all lie beyond it. -/
theorem beyond_of_mem_dropWhile {o : Word32} {d : Nat} {zs : List ZoneEntry}
    (h : zs.Pairwise fun a b => distanceAhead o a.mark < distanceAhead o b.mark) {z : ZoneEntry}
    (hz : z ∈ zs.dropWhile fun z => decide (distanceAhead o z.mark ≤ d)) : d < distanceAhead o z.mark := by
  induction zs with
  | nil => simp at hz
  | cons y ys ih =>
    rw [List.pairwise_cons] at h
    rw [List.dropWhile_cons] at hz
    split at hz
    · exact ih h.2 hz
    · next hy =>
      rw [decide_eq_true_eq, not_le] at hy
      rcases List.mem_cons.1 hz with rfl | hz
      · exact hy
      · exact Nat.lt_trans hy (h.1 z hz)

theorem dropWhile_congr {α : Type} {p q : α → Bool} {l : List α} (h : ∀ a ∈ l, p a = q a) :
    l.dropWhile p = l.dropWhile q := by
  induction l with
  | nil => rfl
  | cons a l ih =>
    rw [List.dropWhile_cons, List.dropWhile_cons, h a List.mem_cons_self,
      ih fun b hb => h b (List.mem_cons_of_mem _ hb)]

theorem ascending_restZones {o n : Word32} {zs : List ZoneEntry} (h : Ascending o zs) (hforward : ¬ movesBack o n = true) :
    Ascending n (restZones n zs) := by
  have hrest : restZones n zs = zs.dropWhile fun z => decide (distanceAhead o z.mark ≤ (n - o).toNat) := by
    unfold restZones
    refine dropWhile_congr fun z hz => ?_
    rw [Bool.eq_iff_iff, decide_eq_true_iff]
    exact reached_iff (h.2 z hz) hforward
  rw [hrest]
  have hmem : ∀ z, z ∈ zs.dropWhile (fun z => decide (distanceAhead o z.mark ≤ (n - o).toNat)) →
      distanceAhead n z.mark = distanceAhead o z.mark - (n - o).toNat ∧ (n - o).toNat < distanceAhead o z.mark ∧
        distanceAhead o z.mark < 2 ^ 31 := by
    intro z hz
    have ahead := h.2 z ((List.dropWhile_sublist _).subset hz)
    have beyond := beyond_of_mem_dropWhile h.1 hz
    exact ⟨distanceAhead_forward ahead hforward beyond, beyond, ahead⟩
  refine h.moved (List.dropWhile_sublist _) (fun a ha b hb hlt => ?_) (fun z hz => ?_)
  · obtain ⟨ea, _, _⟩ := hmem a ha
    obtain ⟨eb, hb, _⟩ := hmem b hb
    omega
  · obtain ⟨ez, _, hz⟩ := hmem z hz
    omega

/-! ## The requests -/

theorem mem_insertZone {o : Word32} {z y : ZoneEntry} {zs : List ZoneEntry} :
    y ∈ insertZone o z zs ↔ y = z ∨ y ∈ zs := by
  induction zs with
  | nil => simp [insertZone]
  | cons x xs ih =>
    unfold insertZone
    split
    · simp
    · simp only [List.mem_cons, ih]
      tauto

theorem insertZone_length (o : Word32) (z : ZoneEntry) (zs : List ZoneEntry) :
    (insertZone o z zs).length = zs.length + 1 := by
  induction zs with
  | nil => rfl
  | cons x xs ih =>
    unfold insertZone
    split
    · rfl
    · simp [ih]

/-- A new mark less than 2^31 ahead takes its place in the order. -/
theorem Ascending.insert {o : Word32} {z : ZoneEntry} {zs : List ZoneEntry} (h : Ascending o zs)
    (hz : distanceAhead o z.mark < 2 ^ 31) (hnew : ∀ y ∈ zs, y.mark ≠ z.mark) : Ascending o (insertZone o z zs) := by
  obtain ⟨order, ahead⟩ := h
  refine ⟨?_, fun y hy => ?_⟩
  · induction zs with
    | nil => exact List.pairwise_singleton _ _
    | cons x xs ih =>
      rw [List.pairwise_cons] at order
      unfold insertZone
      split
      · next hlt =>
        refine List.pairwise_cons.2 ⟨fun y hy => ?_, List.pairwise_cons.2 order⟩
        rcases List.mem_cons.1 hy with rfl | hy
        · exact hlt
        · exact Nat.lt_trans hlt (order.1 y hy)
      · next hge =>
        have hne : distanceAhead o x.mark ≠ distanceAhead o z.mark :=
          fun e => hnew x List.mem_cons_self (distanceAhead_inj e)
        refine List.pairwise_cons.2 ⟨fun y hy => ?_, ih (fun y hy => hnew y (List.mem_cons_of_mem _ hy)) order.2
          (fun y hy => ahead y (List.mem_cons_of_mem _ hy))⟩
        rcases mem_insertZone.1 hy with rfl | hy
        · omega
        · exact order.1 y hy
  · rcases mem_insertZone.1 hy with rfl | hy
    · exact hz
    · exact ahead y hy

/-- A queue's order is that of its marks. -/
theorem Ascending.of_marks {o : Word32} {zs ys : List ZoneEntry} (h : Ascending o zs)
    (e : ys.map ZoneEntry.mark = zs.map ZoneEntry.mark) : Ascending o ys := by
  obtain ⟨order, ahead⟩ := h
  refine ⟨?_, fun y hy => ?_⟩
  · have h1 : (zs.map ZoneEntry.mark).Pairwise fun a b => distanceAhead o a < distanceAhead o b :=
      List.pairwise_map.2 order
    rw [← e, List.pairwise_map] at h1
    exact h1
  · have hm : y.mark ∈ zs.map ZoneEntry.mark := e ▸ List.mem_map_of_mem hy
    obtain ⟨z, hz, he⟩ := List.mem_map.1 hm
    rw [← he]
    exact ahead z hz

/-! ## The law -/

theorem ZonesOk.same {s t : State} (hs : ZonesOk s) (hr : t.recipes = s.recipes) (hp : t.pcu.odometer = s.pcu.odometer) :
    ZonesOk t :=
  ⟨by rw [hr]; exact hs.count, by rw [hr, hp]; exact hs.order, by rw [hr, hp]; exact hs.ahead,
    by rw [hr, hp]; exact hs.reference⟩

theorem ZonesOk.ascending {s : State} (hs : ZonesOk s) : Ascending s.pcu.odometer s.recipes.zones := ⟨hs.order, hs.ahead⟩

theorem ZonesOk.ofAscending {s : State} (hc : s.recipes.zones.length ≤ 8)
    (ha : Ascending s.pcu.odometer s.recipes.zones) (hr : s.recipes.reference = s.pcu.odometer) : ZonesOk s :=
  ⟨hc, ha.1, ha.2, hr⟩

theorem outer_zonesOk : Outer ZonesOk where
  mc := fun _ _ hs => hs.same rfl rfl
  drive := fun _ _ hs => hs.same rfl rfl
  pcu := fun _ _ hp hs => hs.same rfl hp
  spray := fun _ _ hs => hs.same rfl rfl
  brush := fun _ _ hs => hs.same rfl rfl
  arms := fun _ _ hs => hs.same rfl rfl
  sensors := fun _ _ hs => hs.same rfl rfl
  arb := fun _ _ hs => hs.same rfl rfl
  cond := fun _ _ hs => hs.same rfl rfl
  post := fun _ _ hs => hs.same rfl rfl

/-- The queue and the reference are given, at a given odometer. -/
def QueueIs (zs : List ZoneEntry) (reference odometer : Word32) (x : State) : Prop :=
  x.recipes.zones = zs ∧ x.recipes.reference = reference ∧ x.pcu.odometer = odometer

theorem outer_queueIs (zs : List ZoneEntry) (r o : Word32) : Outer (QueueIs zs r o) where
  mc := fun _ _ hs => hs
  drive := fun _ _ hs => hs
  pcu := fun _ _ hp hs => ⟨hs.1, hs.2.1, hp.trans hs.2.2⟩
  spray := fun _ _ hs => hs
  brush := fun _ _ hs => hs
  arms := fun _ _ hs => hs
  sensors := fun _ _ hs => hs
  arb := fun _ _ hs => hs
  cond := fun _ _ hs => hs
  post := fun _ _ hs => hs

theorem queueIs_takeZone {zs : List ZoneEntry} {r o : Word32} {z : ZoneEntry} {x : State} (hx : QueueIs zs r o x) :
    QueueIs zs r o (takeZone z x) := by
  unfold takeZone
  dsimp only
  split <;> exact hx

/-- An odometer update of a queue in order at the reference leaves one in order at the odometer. -/
theorem zonesOk_odometerUpdate {s : State} (hc : s.recipes.zones.length ≤ 8)
    (ha : Ascending s.recipes.reference s.recipes.zones) : ZonesOk (odometerUpdate s) := by
  have settle : ∀ {zs : List ZoneEntry} {r : Word32} {x : State}, QueueIs zs r s.pcu.odometer x → zs.length ≤ 8 →
      Ascending s.pcu.odometer zs →
      ZonesOk { x with recipes := { x.recipes with reference := s.pcu.odometer } } := by
    rintro _ _ x ⟨rfl, rfl, ho⟩ hlen hasc
    exact .ofAscending hlen (by dsimp only; rw [ho]; exact hasc) ho.symm
  unfold odometerUpdate
  split
  case isTrue hback =>
    unfold reverseUpdate
    refine settle (foldl_keeps (P := QueueIs _ _ _) (f := fun x z => zoneReport z .dropped x) (fun _ _ hx => hx) _
      (s := s.putZones (s.recipes.zones.filter fun z => !tooFar s.pcu.odometer z.mark)) ⟨rfl, rfl, rfl⟩) ?_
      (ascending_filter_of_back ha hback)
    exact Nat.le_trans (List.length_filter_le _ _) hc
  case isFalse hforward =>
    have h : ZonesOk _ := settle (foldl_keeps (P := QueueIs _ _ _) (f := fun x z => takeZone z x)
      (fun _ _ hx => queueIs_takeZone hx) (dueZones s.pcu.odometer s.recipes.zones)
      (s := s.putZones (restZones s.pcu.odometer s.recipes.zones)) ⟨rfl, rfl, rfl⟩)
      (Nat.le_trans (List.dropWhile_sublist _).length_le hc) (ascending_restZones ha hforward)
    unfold forwardUpdate
    dsimp only
    split
    · exact outer_zonesOk.loose.blocks.recipeChange h
    · exact h

theorem zonesOk_gate {s : State} (hs : ZonesOk s) : ZonesOk (wheelGateOver s) := by
  obtain ⟨hz, hr, -⟩ := (outer_queueIs s.recipes.zones s.recipes.reference
    (closeGate s.setup.ppm (wheelTest s.pcu.wl s.pcu.wr).1 (wheelTest s.pcu.wr s.pcu.wl).1 s.pcu).odometer).beforeUpdate
    (s := s) (p := { closeGate s.setup.ppm (wheelTest s.pcu.wl s.pcu.wr).1 (wheelTest s.pcu.wr s.pcu.wl).1 s.pcu with
      wheelGateTimer := s.startMs 20 }) (a := (wheelTest s.pcu.wr s.pcu.wl).2) (b := (wheelTest s.pcu.wl s.pcu.wr).2)
    ⟨rfl, rfl, rfl⟩
  refine zonesOk_odometerUpdate ?_ ?_
  · rw [hz]
    exact hs.count
  · rw [hz, hr, hs.reference]
    exact hs.ascending

theorem zonesOk_setOdometer {s : State} (v : Word32) (hs : ZonesOk s) : ZonesOk (takeSetOdometer v s).1 := by
  unfold takeSetOdometer
  split
  · next he =>
    have empty : s.recipes.zones = [] := List.isEmpty_iff.1 he
    refine zonesOk_odometerUpdate hs.count ?_
    dsimp only
    rw [empty]
    exact ascending_nil _
  · exact hs

theorem zonesOk_putZones {s : State} {zs : List ZoneEntry} (hs : ZonesOk s) (hc : zs.length ≤ 8)
    (ha : Ascending s.pcu.odometer zs) : ZonesOk (s.putZones zs) := .ofAscending hc ha hs.reference

theorem zonesOk_zoneAdd {s : State} (mark : Word32) (slot tag : Byte) (hs : ZonesOk s) :
    ZonesOk (takeZoneAdd mark slot tag s).1 := by
  unfold takeZoneAdd
  split
  · exact hs
  · next n _ =>
    dsimp only
    split
    · exact hs
    · next hnear =>
      split
      · refine zonesOk_putZones hs (by simpa using hs.count) (hs.ascending.of_marks ?_)
        rw [List.map_map]
        refine List.map_congr_left fun e _ => ?_
        simp only [Function.comp_apply]
        split
        · next h => exact h.symm
        · rfl
      · next hnew =>
        split
        · exact hs
        · next hroom =>
          refine zonesOk_putZones hs ?_ (hs.ascending.insert (Nat.lt_of_not_le hnear) fun y hy e => hnew ?_)
          · rw [insertZone_length]
            omega
          · exact List.any_eq_true.2 ⟨y, hy, beq_iff_eq.2 e⟩

theorem whole_zonesOk : Whole ZonesOk where
  toBlocks := outer_zonesOk.loose.blocks
  clock := fun _ _ _ hs => hs.same rfl rfl
  free := fun _ _ hs => hs.same rfl rfl
  pcu := fun _ _ ho _ hs => hs.same rfl ho
  pins := fun _ _ hs => hs.same rfl rfl
  waking := fun _ _ hs => outer_zonesOk.waking hs
  restarting := fun _ hs => outer_zonesOk.restarting hs
  resting := fun _ hs => outer_zonesOk.resting hs
  link := fun _ _ _ hs => hs.same rfl rfl
  setup := fun _ _ _ _ hs => hs.same rfl rfl
  pace := fun _ _ hs => ⟨hs.count, hs.order, hs.ahead, hs.reference⟩
  slot := fun _ _ _ _ _ hs => ⟨hs.count, hs.order, hs.ahead, hs.reference⟩
  refresh := fun _ _ _ hs => ⟨hs.count, hs.order, hs.ahead, hs.reference⟩
  stack := fun _ _ _ _ _ hs => ⟨hs.count, hs.order, hs.ahead, hs.reference⟩
  zoneAdd := fun _ mark slot tag hs => zonesOk_zoneAdd mark slot tag hs
  zoneClear := fun _ hs => zonesOk_putZones hs (Nat.zero_le _) (ascending_nil _)
  restart := fun _ _ => .ofAscending (Nat.zero_le _) (ascending_nil _) rfl
  gate := fun _ hs => zonesOk_gate hs
  setOdometer := fun _ v hs => zonesOk_setOdometer v hs
  reset := fun _ _ => .ofAscending (Nat.zero_le _) (ascending_nil _) rfl

/-- Settles O9: an odometer update moves every distance by the same way, back without passing 2^32 and forward past
exactly the entries that leave; a ZONE_ADD inserts in order. -/
theorem zoneQueueStaysInOrderOfDistance : Obligations.ZoneQueueStaysInOrderOfDistance := by
  unfold Obligations.ZoneQueueStaysInOrderOfDistance
  intro s t hs ht
  exact whole_zonesOk.invariant (fun _ _ hx => hx.same rfl rfl) hs ht

end Sys2Proof.Machine
end

section
/-! The arms stay lawful (R69, R72, R73, R80, R81, R91): the operations of Laws/Arms.lean keep the law, and no other update
touches the arms or lets the planner rest. -/

namespace Sys2Proof.Machine

theorem Mode.plans_of_travels {m : Mode} (h : m.travels = true) : m.plans = true := by cases m <;> first | rfl | cases h

theorem blocks_armsOk : Blocks ArmsOk where
  drive := fun _ _ _ hs => armsOk_same hs rfl (.inr rfl)
  drivePeriod := fun _ hs => armsOk_same hs rfl (.inr rfl)
  water := water_of_spray (fun _ _ hs => armsOk_same hs rfl (.inr rfl))
    fun _ _ _ hs => armsOk_same hs (changeRecord_arms _ _ _) (.inr (by rw [changeRecord_mc]))
  brush := fun _ _ hs => armsOk_same hs rfl (.inr rfl)
  arms := armsOk_armed
  sensors := fun _ _ hs => armsOk_same hs rfl (.inr rfl)
  arb := fun _ _ hs => armsOk_same hs rfl (.inr rfl)
  cond := fun _ _ hs => armsOk_same hs rfl (.inr rfl)
  travel := fun s m hm hs => armsOk_same hs
    (by unfold driveEnterTravel; dsimp only; split <;> first | rfl | exact clearOverspeed_arms _)
    (.inl (by simpa [modeReport] using Mode.plans_of_travels hm))
  park := fun s b hs => armsOk_same hs (by cases b <;> exact clearOverspeed_arms _)
    (.inl (by cases b <;> simp [driveEnterPark, modeReport, Mode.plans]))
  post := fun _ _ hs => armsOk_same hs rfl (.inr rfl)

theorem armsOk_reset : ArmsOk State.reset :=
  armsOk_iff.2
    { posture := fun u h => absurd (by cases u <;> rfl) h
      spins := fun u _ h => by cases u <;> rcases h with h | h <;> cases h
      holds := fun u => by cases u <;> exact List.nodup_nil
      broom := fun h hh => by cases hh
      goal := fun u => by cases u <;> rfl
      single := List.nodup_nil
      waiting := fun x hx => by cases hx
      rest := fun _ => ⟨rfl, rfl, fun u => by cases u <;> exact Or.inl rfl⟩ }

theorem whole_armsOk : Whole ArmsOk where
  toBlocks := blocks_armsOk
  clock := fun _ _ _ hs => armsOk_same hs rfl (.inr rfl)
  free := fun _ _ hs => armsOk_same hs rfl (.inr rfl)
  pcu := fun _ _ _ _ hs => armsOk_same hs rfl (.inr rfl)
  pins := fun _ _ hs => armsOk_same hs rfl (.inr rfl)
  waking := fun _ hm hs => armsOk_waking hm hs
  restarting := fun s _ => armsOk_restarting s
  resting := fun _ hs => armsOk_resting hs
  link := fun _ _ _ hs => armsOk_same hs rfl (.inr rfl)
  setup := fun _ _ _ _ hs => armsOk_same hs rfl (.inr rfl)
  pace := fun _ _ hs => armsOk_same hs rfl (.inr rfl)
  slot := fun _ _ _ _ _ hs => armsOk_same hs rfl (.inr rfl)
  refresh := fun _ _ _ hs => armsOk_same hs rfl (.inr rfl)
  stack := fun _ _ _ _ _ hs => armsOk_same hs rfl (.inr rfl)
  zoneAdd := fun _ _ _ _ hs => takeZoneAdd_keeps (fun _ _ hx => armsOk_same hx rfl (.inr rfl)) hs
  zoneClear := fun _ hs => armsOk_same hs rfl (.inr rfl)
  restart := fun _ hs => armsOk_same hs rfl (.inr rfl)
  gate := fun _ hs => blocks_armsOk.wheelGate (fun _ _ hx => armsOk_same hx rfl (.inr rfl))
    (fun _ _ hx => armsOk_same hx rfl (.inr rfl)) (fun _ _ hx => armsOk_same hx rfl (.inr rfl))
    (fun _ _ hx => armsOk_same hx rfl (.inr rfl)) (fun _ _ hx => armsOk_same hx rfl (.inr rfl)) hs
  setOdometer := fun _ _ hs => blocks_armsOk.takeSetOdometer (fun _ _ hx => armsOk_same hx rfl (.inr rfl))
    (fun _ _ hx => armsOk_same hx rfl (.inr rfl)) (fun _ _ hx => armsOk_same hx rfl (.inr rfl))
    (fun _ _ hx => armsOk_same hx rfl (.inr rfl)) hs
  reset := fun _ _ => armsOk_same armsOk_reset rfl (.inr rfl)

/-- Settles O10: the operations of the arms keep their law, as do the entries to STANDBY, SETTLE and RESTART. -/
theorem armsStayLawful : Obligations.ArmsStayLawful := by
  unfold Obligations.ArmsStayLawful
  intro s t hs ht
  exact whole_armsOk.invariant (fun _ _ hx => armsOk_same hx rfl (.inr rfl)) hs ht

end Sys2Proof.Machine
end

section
/-! The law of the water (R96, R98, R100 to R103): what the Spray Controller's operations keep of it. While the wanted set
is formed the valves follow it before the target does; `Sequenced` is what holds in between. -/

namespace Sys2Proof.Machine

/-! ## Signs -/

theorem mag_nonneg (x : Int) : 0 ≤ mag x := Int.natCast_nonneg _

theorem divZ_nonneg {a b : Int} (ha : 0 ≤ a) (hb : 0 ≤ b) : 0 ≤ divZ a b := Int.tdiv_nonneg ha hb

theorem least_nonneg {a b : Int} (ha : 0 ≤ a) (hb : 0 ≤ b) : 0 ≤ least a b := by
  unfold least
  split <;> assumption

theorem least_pos {a b : Int} (ha : 0 < a) (hb : 0 < b) : 0 < least a b := by
  unfold least
  split <;> assumption

theorem adjustedDose_nonneg {s : State} (h : 0 ≤ s.spray.doseMax) : 0 ≤ adjustedDose s := by
  have hc : ∀ x, 0 ≤ clamp 0 s.spray.doseMax x := fun x => (clamp_mem h x).1
  unfold adjustedDose
  dsimp only
  generalize divZ (s.spray.dose * 80 + _) 80 = x
  split
  · exact divZ_nonneg (hc x) (by decide)
  · exact hc x

theorem flowTarget_nonneg {s : State} (hi : 0 ≤ s.spray.idleFlow) (hd : 0 ≤ s.spray.doseMax) (hf : 0 ≤ s.setup.flowFull) :
    0 ≤ flowTarget s := by
  unfold flowTarget
  split
  · exact Int.le_refl _
  · split
    · exact least_nonneg hi hf
    · exact least_nonneg hf (divZ_nonneg (Int.mul_nonneg (mag_nonneg _) (adjustedDose_nonneg hd)) (by decide))

/-- No flow is asked for with no group wanted. -/
theorem flowTarget_of_dry {s : State} (h : s.spray.wanted.any = false) : flowTarget s = 0 := by
  rw [flowTarget, h]
  rfl

theorem Nozzles.any_eq_false {n : Nozzles} : n.any = false ↔ n = ⟨false, false, false, false⟩ := by
  obtain ⟨a, b, c, d⟩ := n
  cases a <;> cases b <;> cases c <;> cases d <;> decide

theorem Nozzles.any_eq_true {n : Nozzles} : n.any = true ↔ n ≠ ⟨false, false, false, false⟩ := by
  rw [ne_eq, ← Nozzles.any_eq_false, Bool.not_eq_false]

/-! ## The valve sequence -/

/-- The law of the sequence, the command and the valves, apart from the wanted set's own: in LEAD and FLOWING the valves
are those of the wanted set while a group is in it. -/
structure Sequenced (p : Spray) : Prop where
  dry : p.seq = .dry → p.command = 0 ∧ p.valves = ⟨false, false, false, false⟩
  lag : p.seq = .lag → p.command = 0
  lagging : p.lagTimer ≠ none → p.seq = .lag
  wet : p.seq = .lead ∨ p.seq = .flowing → 0 < p.command ∧ (p.wanted.any = true → p.valves = p.wanted)
  pump : p.wpump ≠ 0 → p.seq = .flowing
  target : 0 < p.command → 0 < p.q
  asked : 0 ≤ p.q
  step : 0 < p.waterStep
  idle : 0 ≤ p.idleFlow
  dose : 0 ≤ p.doseMax

/-- The law between the target and the wanted set. -/
structure Asked (p : Spray) : Prop where
  wanted : p.q ≠ 0 → p.wanted.any = true
  tank : p.wanted.any = true → p.empty = false

theorem waterOk_iff {s : State} : WaterOk s ↔ Sequenced s.spray ∧ Asked s.spray ∧ 0 ≤ s.setup.flowFull := by
  constructor
  · intro h
    obtain ⟨step, idle, dose, full⟩ := h.ranges
    refine ⟨⟨h.dry, h.lag, h.lagging, fun hw => ⟨(h.wet hw).1, fun _ => (h.wet hw).2⟩, h.pump, h.target, ?_, step, idle,
      dose⟩, ⟨fun hq => Nozzles.any_eq_true.2 (h.asked hq).2, fun hw => h.tank (Nozzles.any_eq_true.1 hw)⟩, full⟩
    by_cases hq : s.spray.q = 0
    · exact hq.ge
    · exact (h.asked hq).1.le
  · rintro ⟨h, a, full⟩
    have any : 0 < s.spray.command → s.spray.wanted.any = true := fun hc => a.wanted (h.target hc).ne'
    exact ⟨h.dry, h.lag, h.lagging, fun hw => ⟨(h.wet hw).1, (h.wet hw).2 (any (h.wet hw).1)⟩, h.pump, h.target,
      fun hq => ⟨lt_of_le_of_ne h.asked (Ne.symm hq), Nozzles.any_eq_true.1 (a.wanted hq)⟩,
      fun hw => a.tank (Nozzles.any_eq_true.2 hw), h.step, h.idle, h.dose, full⟩

section
variable {s : State} {p : Spray}

/-- A command above 0 stands in LEAD or FLOWING. -/
theorem Sequenced.running (h : Sequenced p) (hc : p.command ≠ 0) : p.seq = .lead ∨ p.seq = .flowing := by
  cases e : p.seq with
  | dry => exact absurd (h.dry e).1 hc
  | lag => exact absurd (h.lag e) hc
  | lead => exact Or.inl rfl
  | flowing => exact Or.inr rfl

theorem Sequenced.command_nonneg (h : Sequenced p) : 0 ≤ p.command := by
  by_cases hc : p.command = 0
  · exact hc.ge
  · exact (h.wet (h.running hc)).1.le

/-- The pump is driven in FLOWING alone. -/
theorem pumpUpdate_pump : (pumpUpdate s p).wpump ≠ 0 → (pumpUpdate s p).seq = .flowing := by
  intro hw
  by_contra hf
  have hf : p.seq ≠ .flowing := hf
  refine hw ?_
  simp [pumpUpdate, hf, divZ, least]

theorem Sequenced.pumpUpdate (h : Sequenced p) : Sequenced (pumpUpdate s p) :=
  ⟨h.dry, h.lag, h.lagging, h.wet, pumpUpdate_pump, h.target, h.asked, h.step, h.idle, h.dose⟩

/-- The command reaches 0: the pump stops, and the sequence is in LAG or DRY, whatever it was. -/
theorem sequenced_enterLag (asked : 0 ≤ p.q) (step : 0 < p.waterStep) (idle : 0 ≤ p.idleFlow) (dose : 0 ≤ p.doseMax)
    (hc : p.command = 0) : Sequenced (enterLag s p) := by
  unfold enterLag
  dsimp only
  split
  · exact ⟨fun _ => ⟨hc, rfl⟩, fun _ => hc, fun hl => absurd rfl hl, fun hw => absurd hw (by simp [enterDry]),
      fun hw => absurd rfl hw, fun hp => absurd hc hp.ne', asked, step, idle, dose⟩
  · exact ⟨nofun, fun _ => hc, fun _ => rfl, fun hw => absurd hw (by simp), fun hw => absurd rfl hw,
      fun hp => absurd hc hp.ne', asked, step, idle, dose⟩

/-- The command leaves 0 under a target above 0: the wanted valves open. -/
theorem sequenced_enterLead (hc : 0 < p.command) (hq : 0 < p.q) (step : 0 < p.waterStep) (idle : 0 ≤ p.idleFlow)
    (dose : 0 ≤ p.doseMax) : Sequenced (enterLead s p) := by
  unfold enterLead
  dsimp only
  split
  · exact ⟨nofun, nofun, fun hl => absurd rfl hl, fun _ => ⟨hc, fun _ => rfl⟩,
      pumpUpdate_pump, fun _ => hq, hq.le, step, idle, dose⟩
  · exact ⟨nofun, nofun, fun hl => absurd rfl hl, fun _ => ⟨hc, fun _ => rfl⟩,
      pumpUpdate_pump, fun _ => hq, hq.le, step, idle, dose⟩

/-- The command takes a value, 0 or above 0 under a target above 0. -/
theorem Sequenced.setCommand (h : Sequenced p) {c : Int} (hc : 0 ≤ c) (hq : 0 < c → 0 < p.q) :
    Sequenced (setCommand s c p) := by
  unfold Machine.setCommand
  split
  · exact h
  · next hne =>
    dsimp only
    split
    · next hz =>
      subst hz
      exact sequenced_enterLag h.asked h.step h.idle h.dose rfl
    · next hz =>
      have hpos : 0 < c := lt_of_le_of_ne hc (Ne.symm hz)
      split
      · exact sequenced_enterLead hpos (hq hpos) h.step h.idle h.dose
      · next hp =>
        have hs := h.running hp
        refine Sequenced.pumpUpdate ⟨fun e => ?_, fun e => ?_, h.lagging, fun hw => ⟨hpos, (h.wet hw).2⟩, h.pump,
          fun _ => hq hpos, h.asked, h.step, h.idle, h.dose⟩
        · rcases hs with hs | hs <;> cases hs.symm.trans e
        · rcases hs with hs | hs <;> cases hs.symm.trans e

theorem Sequenced.rampTimer (h : Sequenced p) (t : Timer) : Sequenced { p with rampTimer := t } :=
  ⟨h.dry, h.lag, h.lagging, h.wet, h.pump, h.target, h.asked, h.step, h.idle, h.dose⟩

/-- A change of the command leaves the target, the wanted set, the flags and the copies alone. -/
theorem setCommand_copies (s : State) (c : Int) (p : Spray) : (setCommand s c p).q = p.q ∧
    (setCommand s c p).wanted = p.wanted ∧ (setCommand s c p).empty = p.empty := by
  unfold Machine.setCommand Machine.enterLag Machine.enterLead
  dsimp only
  repeat' split
  all_goals exact ⟨rfl, rfl, rfl⟩

theorem followTarget_copies (s : State) (q : Int) (p : Spray) : (followTarget s q p).q = q ∧
    (followTarget s q p).wanted = p.wanted ∧ (followTarget s q p).empty = p.empty := by
  unfold Machine.followTarget
  split
  · next e => exact ⟨e.symm, rfl, rfl⟩
  · dsimp only
    split
    · next e => exact ⟨(setCommand_copies s 0 _).1, (setCommand_copies s 0 _).2⟩
    · split
      · exact setCommand_copies s _ { p with q := q }
      · split
        · exact ⟨rfl, rfl, rfl⟩
        · split <;> exact ⟨rfl, rfl, rfl⟩

/-- The command follows a new target, 0 or above. -/
theorem Sequenced.followTarget (h : Sequenced p) {q : Int} (hq : 0 ≤ q) : Sequenced (followTarget s q p) := by
  have zero : p.command = 0 ∨ 0 < q → Sequenced { p with q := q } := fun hz =>
    ⟨h.dry, h.lag, h.lagging, h.wet, h.pump, fun hc => hz.resolve_left hc.ne', hq, h.step, h.idle, h.dose⟩
  unfold Machine.followTarget
  split
  · exact h
  · dsimp only
    split
    · next hz =>
      subst hz
      refine Sequenced.rampTimer ?_ _
      by_cases hc : p.command = 0
      · rw [show Machine.setCommand s 0 { p with q := 0 } = { p with q := 0 } by rw [Machine.setCommand, if_pos hc.symm]]
        exact zero (Or.inl hc)
      · have h0 : ({ p with q := 0 } : Spray).command ≠ 0 := hc
        have e : Machine.setCommand s 0 { p with q := 0 } =
            Machine.enterLag s { p with q := 0, command := 0, demand := waterDemand s 0 } := by
          rw [Machine.setCommand, if_neg h0.symm, if_pos rfl]
        rw [e]
        exact sequenced_enterLag (Int.le_refl 0) h.step h.idle h.dose rfl
    · next hz =>
      have hpos : 0 < q := lt_of_le_of_ne hq (Ne.symm hz)
      have h1 := zero (Or.inr hpos)
      split
      · exact (h1.setCommand (least_pos hpos h.step).le fun _ => hpos).rampTimer _
      · split
        · exact h1.rampTimer _
        · split
          · exact h1.rampTimer _
          · exact h1

/-! ## The operations on the state -/

theorem WaterOk.same {t : State} (hs : WaterOk s) (hp : t.spray = s.spray) (hf : t.setup.flowFull = s.setup.flowFull) :
    WaterOk t := by
  rw [waterOk_iff] at hs ⊢
  rw [hp, hf]
  exact hs

/-- An evaluation of the target leaves the law, once the tank allows what is wanted. -/
theorem waterOk_evaluateFlow (h : Sequenced s.spray) (tank : s.spray.wanted.any = true → s.spray.empty = false)
    (full : 0 ≤ s.setup.flowFull) : WaterOk (evaluateFlow s) := by
  have copies := followTarget_copies s (flowTarget s) s.spray
  refine waterOk_iff.2 ⟨h.followTarget (flowTarget_nonneg h.idle h.dose full), ⟨fun hq => ?_, fun hw => ?_⟩, full⟩
  · have hq : (followTarget s (flowTarget s) s.spray).q ≠ 0 := hq
    change (followTarget s (flowTarget s) s.spray).wanted.any = true
    rw [copies.1] at hq
    rw [copies.2.1]
    by_contra hw
    exact hq (flowTarget_of_dry (Bool.not_eq_true _ ▸ hw))
  · have hw : (followTarget s (flowTarget s) s.spray).wanted.any = true := hw
    rw [copies.2.1] at hw
    exact copies.2.2.trans (tank hw)

/-- The valves follow a new wanted set, in LEAD and FLOWING to the set itself. -/
theorem Sequenced.valvesFollow (h : Sequenced p) (w : Nozzles) : Sequenced (valvesFollow { p with wanted := w }) := by
  have stay : ¬ (w.any = true ∧ (p.seq = .lead ∨ p.seq = .flowing)) → Sequenced { p with wanted := w } := fun hn =>
    ⟨h.dry, h.lag, h.lagging, fun hw => ⟨(h.wet hw).1, fun ha => absurd ⟨ha, hw⟩ hn⟩, h.pump, h.target, h.asked, h.step,
      h.idle, h.dose⟩
  have move : p.seq = .lead ∨ p.seq = .flowing → Sequenced { p with wanted := w, valves := w } := fun hs =>
    ⟨fun e => absurd hs (by simp [show p.seq = .dry from e]), h.lag, h.lagging,
      fun _ => ⟨(h.wet hs).1, fun _ => rfl⟩, h.pump, h.target, h.asked, h.step, h.idle, h.dose⟩
  unfold Machine.valvesFollow
  split
  · next e =>
    split
    · exact move (Or.inl e)
    · next hw => exact stay fun hn => hw hn.1
  · next e =>
    split
    · exact move (Or.inr e)
    · next hw => exact stay fun hn => hw hn.1
  · next e =>
    have e : p.seq = .dry := e
    exact stay fun hn => by simp [e] at hn
  · next e =>
    have e : p.seq = .lag := e
    exact stay fun hn => by simp [e] at hn

theorem valvesFollow_copies (p : Spray) : (valvesFollow p).wanted = p.wanted ∧ (valvesFollow p).empty = p.empty := by
  unfold Machine.valvesFollow
  split
  · split <;> exact ⟨rfl, rfl⟩
  · split <;> exact ⟨rfl, rfl⟩
  · exact ⟨rfl, rfl⟩
  · exact ⟨rfl, rfl⟩

/-- Nothing is wanted with the tank empty. -/
theorem wantedSet_of_empty (h : s.spray.empty = true) : (wantedSet s).any = false := by
  simp [wantedSet, Nozzles.any, h]

/-- The forming of the wanted set leaves the law, whatever was wanted before. -/
theorem waterOk_formWanted (h : Sequenced s.spray) (full : 0 ≤ s.setup.flowFull) : WaterOk (formWanted s) := by
  refine waterOk_evaluateFlow (s := { s with spray := Machine.valvesFollow { s.spray with wanted := wantedSet s } })
    (h.valvesFollow _) (fun hw => ?_) full
  have copies := valvesFollow_copies { s.spray with wanted := wantedSet s }
  have hw : (Machine.valvesFollow { s.spray with wanted := wantedSet s }).wanted.any = true := hw
  change (Machine.valvesFollow { s.spray with wanted := wantedSet s }).empty = false
  rw [copies.1] at hw
  rw [copies.2]
  by_contra he
  rw [Bool.not_eq_false] at he
  rw [wantedSet_of_empty he] at hw
  cases hw

/-- Fields of the water that neither the sequence nor the wanted set reads. -/
theorem Sequenced.flags (h : Sequenced p) (enable low empty : Bool) (brushOn : PerUnit Bool) :
    Sequenced { p with enable := enable, low := low, empty := empty, brushOn := brushOn } :=
  ⟨h.dry, h.lag, h.lagging, h.wet, h.pump, h.target, h.asked, h.step, h.idle, h.dose⟩

theorem WaterOk.sequenced (h : WaterOk s) : Sequenced s.spray := (waterOk_iff.1 h).1
theorem WaterOk.askedOk (h : WaterOk s) : Asked s.spray := (waterOk_iff.1 h).2.1
theorem WaterOk.full (h : WaterOk s) : 0 ≤ s.setup.flowFull := (waterOk_iff.1 h).2.2

theorem WaterOk.setLow (h : WaterOk s) (f : Bool) : WaterOk (setLow f s) := by
  unfold Machine.setLow
  split
  · exact h
  · refine waterOk_evaluateFlow ?_ ?_ ?_
    · rw [notice_spray]
      exact h.sequenced.flags s.spray.enable f s.spray.empty s.spray.brushOn
    · rw [notice_spray]
      exact h.askedOk.tank
    · rw [notice_setup]
      exact h.full

theorem WaterOk.setEmpty (h : WaterOk s) (f : Bool) : WaterOk (setEmpty f s) := by
  unfold Machine.setEmpty
  split
  · exact h
  · refine waterOk_formWanted ?_ ?_
    · rw [notice_spray]
      exact h.sequenced.flags s.spray.enable s.spray.low f s.spray.brushOn
    · rw [notice_setup]
      exact h.full

theorem WaterOk.formWanted (h : WaterOk s) : WaterOk (formWanted s) := waterOk_formWanted h.sequenced h.full

theorem WaterOk.evaluateFlow (h : WaterOk s) : WaterOk (evaluateFlow s) :=
  waterOk_evaluateFlow h.sequenced h.askedOk.tank h.full

theorem tank_waterOk : Tank WaterOk where
  flow := fun _ hs => hs.evaluateFlow
  form := fun _ hs => hs.formWanted
  notice := fun s u a b hs => waterOk_formWanted (s := { s with spray := { s.spray with
    brushOn := if b then PerUnit.const false else s.spray.brushOn.set u a } })
    (hs.sequenced.flags s.spray.enable s.spray.low s.spray.empty _) hs.full
  low := fun _ f hs => hs.setLow f
  empty := fun _ f hs => hs.setEmpty f

/-- A water record that keeps the target, the wanted set and the empty flag keeps the law between them. -/
theorem waterOk_record (h : WaterOk s) {y : Spray} (hy : Sequenced y) (hq : y.q = s.spray.q)
    (hw : y.wanted = s.spray.wanted) (he : y.empty = s.spray.empty) : WaterOk { s with spray := y } := by
  refine waterOk_iff.2 ⟨hy, ⟨fun h0 => ?_, fun h0 => ?_⟩, h.full⟩
  · exact hw ▸ h.askedOk.wanted (hq ▸ h0)
  · exact he.trans (h.askedOk.tank (hw ▸ h0))

theorem WaterOk.waterShare (h : WaterOk s) : WaterOk (waterShare s) := by
  unfold Machine.waterShare
  split
  · exact waterOk_record h h.sequenced.pumpUpdate rfl rfl rfl
  · exact h

theorem WaterOk.kwWritten (h : WaterOk s) : WaterOk (kwWritten s) :=
  waterOk_record h ⟨h.dry, h.lag, h.lagging, h.sequenced.wet, h.pump, h.target, h.sequenced.asked, h.sequenced.step,
    h.sequenced.idle, h.sequenced.dose⟩ rfl rfl rfl

/-- A ramp step stays at or above 0, and under a target above 0. -/
theorem WaterOk.waterRampExpired (h : WaterOk s) : WaterOk (waterRampExpired s) := by
  obtain ⟨seq, -, -⟩ := waterOk_iff.1 h
  have hc := seq.command_nonneg
  have hq := seq.asked
  have hstep := seq.step
  unfold Machine.waterRampExpired
  dsimp only
  generalize hx : (if s.spray.command < s.spray.q then least s.spray.q (s.spray.command + s.spray.waterStep)
    else if s.spray.q < s.spray.command then most s.spray.q (s.spray.command - s.spray.waterStep) else s.spray.command) = x
  have h0 : 0 ≤ x := by
    rw [← hx]
    simp only [least, most]
    split_ifs <;> omega
  have htarget : 0 < x → 0 < s.spray.q := by
    intro hpos
    by_contra hle
    have hcz : s.spray.command = 0 := by
      by_contra hne
      exact hle (h.target (lt_of_le_of_ne hc (Ne.symm hne)))
    rw [← hx] at hpos
    simp only [least, most] at hpos
    split_ifs at hpos <;> omega
  have copies := setCommand_copies s x s.spray
  exact waterOk_record h ((seq.setCommand h0 htarget).rampTimer _) copies.1 copies.2.1 copies.2.2

theorem WaterOk.leadExpired (h : WaterOk s) : WaterOk (leadExpired s) := by
  obtain ⟨seq, -, -⟩ := waterOk_iff.1 h
  unfold Machine.leadExpired
  dsimp only
  split
  · next hc =>
    have hc : 0 < s.spray.command := hc
    have hs := seq.running hc.ne'
    refine waterOk_record h (Sequenced.pumpUpdate ⟨nofun, nofun, fun hl => ?_, fun _ => seq.wet hs, fun _ => rfl,
      seq.target, seq.asked, seq.step, seq.idle, seq.dose⟩) rfl rfl rfl
    rcases hs with hs | hs <;> cases hs.symm.trans (seq.lagging hl)
  · exact waterOk_record h ⟨seq.dry, seq.lag, seq.lagging, seq.wet, seq.pump, seq.target, seq.asked, seq.step, seq.idle,
      seq.dose⟩ rfl rfl rfl

theorem WaterOk.lagExpired (h : WaterOk s) (hl : s.spray.lagTimer ≠ none) : WaterOk (lagExpired s) := by
  obtain ⟨seq, -, -⟩ := waterOk_iff.1 h
  have hlag := seq.lagging hl
  have hc := seq.lag hlag
  exact waterOk_record h (y := enterDry s.spray) ⟨fun _ => ⟨hc, rfl⟩, fun _ => hc, fun hn => absurd rfl hn,
    fun hw => absurd hw (by simp [enterDry]), fun hw => absurd (seq.pump hw) (by simp [hlag]), seq.target, seq.asked, seq.step,
    seq.idle, seq.dose⟩ rfl rfl rfl

/-- The water at rest obeys the law. -/
theorem waterOk_atRest (h : WaterOk s) (enable low empty : Bool) (brushOn : PerUnit Bool) :
    WaterOk { s with spray := { s.spray.atRest with enable := enable, low := low, empty := empty, brushOn := brushOn } } :=
  waterOk_iff.2 ⟨⟨fun _ => ⟨rfl, rfl⟩, fun _ => rfl, fun hn => absurd rfl hn, fun hw => absurd hw (by simp [Spray.atRest]),
    fun hw => absurd rfl hw, fun hc => absurd hc (Int.lt_irrefl 0), Int.le_refl 0, h.sequenced.step, h.sequenced.idle,
    h.sequenced.dose⟩, ⟨fun hq => absurd rfl hq, fun hw => by cases hw⟩, h.full⟩

/-- The forming of the wanted set at an announced recipe whose fields lie in their ranges. -/
theorem WaterOk.sprayRecipe (h : WaterOk s) {f : RecipeFields} (hf : FieldsInRange f) : WaterOk (sprayRecipe f s) := by
  obtain ⟨seq, -, full⟩ := waterOk_iff.1 h
  have hdose : 0 ≤ f[11] := (hf 11).1
  have hidle : 0 ≤ f[15] := (hf 15).1
  have hstep : 1 ≤ f[16] := (hf 16).1
  exact waterOk_formWanted ⟨seq.dry, seq.lag, seq.lagging, seq.wet, seq.pump, seq.target, seq.asked, hstep, hidle, hdose⟩
    full

theorem water_waterOk_takeSpray (h : WaterOk s) (v : Byte) : WaterOk (takeSpray v s).1 :=
  waterOk_formWanted (s := { s with spray := { s.spray with enable := v != 0 } })
    (h.sequenced.flags _ s.spray.low s.spray.empty s.spray.brushOn) h.full

end

end Sys2Proof.Machine
end

section
/-! The law of the water as an invariant (R101, R103): with the recipes' law for the recipes that are announced, and without
it for the commands that announce none. -/

namespace Sys2Proof.Machine

/-! ## What a round's start changes -/

theorem nextTransaction_eq (x : Round) (s : State) :
    nextTransaction x s = { s with sensors := (nextTransaction x s).sensors } := by
  unfold nextTransaction
  split
  · rfl
  · split <;> rfl

/-- A round that starts changes the Sensor Link Master alone. -/
theorem startRound_eq (s : State) : startRound s = { s with sensors := (startRound s).sensors } := by
  unfold startRound
  dsimp only
  split
  · exact nextTransaction_eq _ _
  · split <;> rfl

/-- The Sensor Link Master's waking changes nothing else. -/
theorem sensorsWake_eq (s : State) : sensorsWake s = { s with sensors := (sensorsWake s).sensors } := by
  unfold sensorsWake
  split
  · exact startRound_eq s
  · exact startRound_eq _

/-! ## Waking, for a property that says nothing of the arms -/

theorem Plain.armWakeUnit {P : State → Prop} (p : Plain P) {u : BrushUnit} {s : State} (hs : P s) :
    P (armWakeUnit u s) := by
  have h1 := p.readSwitches (u := u) (p.setSpin (u := u) (sp := .off) hs)
  unfold Machine.armWakeUnit
  dsimp only
  split
  · exact p.switchFault h1
  · exact p.setActivity (p.anyNotice h1)

theorem Plain.armsAnnounced {P : State → Prop} (p : Plain P) {s : State} (hs : P s) : P (armsAnnounced s) :=
  forUnits_keeps (f := Machine.reformGoal) (fun _ _ hx => p.reformGoal hx) hs

theorem Plain.armsWake {P : State → Prop} (p : Plain P) {s : State} (hs : P s) : P (armsWake s) := by
  unfold Machine.armsWake
  exact p.armsAnnounced (forUnits_keeps (f := Machine.armWakeUnit) (fun _ _ hx => p.armWakeUnit hx) (p.anyArms s _ hs))

/-! ## The law of the water alone -/

theorem waterOk_changeRecord {s : State} (k : CondKind) (v : CondState) (hs : WaterOk s) : WaterOk (changeRecord k v s) :=
  hs.same (changeRecord_spray _ _ _) (by rw [changeRecord_setup])

theorem driveEnterTravel_spray (s : State) : (driveEnterTravel s).spray = s.spray := by
  unfold driveEnterTravel
  dsimp only
  split <;> simp

theorem driveEnterTravel_setup (s : State) : (driveEnterTravel s).setup = s.setup := by
  unfold driveEnterTravel
  dsimp only
  split <;> simp

theorem plain_waterOk : Plain WaterOk where
  water := tank_waterOk.toWet
  brush := fun _ _ _ hs => hs.same rfl rfl
  record := fun _ k v _ hs => waterOk_changeRecord k v hs
  travel := fun s m _ _ hs => hs.same (driveEnterTravel_spray _) (by rw [driveEnterTravel_setup]; rfl)
  arms := fun _ _ _ hs => hs.same rfl rfl
  post := fun _ _ hs => hs.same rfl rfl
  anyArms := fun _ _ hs => hs.same rfl rfl
  anyRecord := fun _ k v hs => waterOk_changeRecord k v hs

theorem told_waterOk : Told WaterOk where
  water := tank_waterOk
  brush := fun _ _ _ hs => hs.same rfl rfl
  arms := plain_waterOk.armed
  record := fun _ k v hs => waterOk_changeRecord k v hs
  travel := plain_waterOk.travel
  post := fun _ _ hs => hs.same rfl rfl

theorem waterOk_arbiterWake {s : State} (hs : WaterOk s) : WaterOk (arbiterWake s) := by
  have h1 : WaterOk { s with arb := { s.arb with periodTimer := s.startMs 10 } } := hs.same rfl rfl
  unfold arbiterWake
  dsimp only
  split
  · exact h1
  · exact waterOk_changeRecord _ _ (h1.same rfl rfl)

theorem waterOk_sensorsWake {s : State} (hs : WaterOk s) : WaterOk (sensorsWake s) := by
  rw [sensorsWake_eq]
  exact hs.same rfl rfl

theorem waterOk_brushWake {s : State} (hs : WaterOk s) : WaterOk (brushWake s) :=
  forUnits_keeps (fun _ _ hx => hx.same rfl rfl) hs

theorem waterOk_driveWake {s : State} (hs : WaterOk s) : WaterOk (driveWake (pulseWake (enterSettle s))) :=
  hs.same (clearOverspeed_spray _) (by rw [driveWake, clearOverspeed_setup]; rfl)

/-- Waking keeps the law: no recipe is announced. -/
theorem waterOk_wake {s : State} (hs : WaterOk s) : WaterOk (wake s) := by
  unfold wake
  exact told_waterOk.tankTest (told_waterOk.loopTest (told_waterOk.oilTest (waterOk_sensorsWake (waterOk_arbiterWake
    (plain_waterOk.armsWake (waterOk_brushWake (waterOk_driveWake hs))))))).formWanted

theorem waterOk_requestArrived {s : State} {k t : Byte} {b : List Byte} (hs : WaterOk s) :
    WaterOk (requestArrived k t b s) := by
  unfold requestArrived
  dsimp only
  split
  · exact waterOk_wake (hs.same rfl rfl)
  · exact hs.same rfl rfl

theorem waterOk_takeRequest {s : State} {k t : Byte} {b : List Byte} {act : State → State × List Byte}
    (hact : ∀ x, WaterOk x → WaterOk (act x).1) (hs : WaterOk s) : WaterOk (takeRequest k t b act s) := by
  have judged : ∀ x, WaterOk x → WaterOk (judge act x) := fun x hx => (hact x hx).same rfl rfl
  unfold takeRequest
  dsimp only
  split
  · exact judged _ hs
  · split
    · exact judged _ (waterOk_requestArrived hs)
    · exact waterOk_requestArrived hs

/-- The commands of the Spray Controller keep the law. -/
theorem waterOk_sprayCommands {s t : State} {c : Instr} (hs : WaterOk s)
    (hc : c = .waterRampTimerExpiry ∨ c = .valveLeadTimerExpiry ∨ c = .valveLagTimerExpiry ∨
      ∃ tag body, c = .spray tag body) (ht : exec c s = .next t) : WaterOk t := by
  have sent : ∀ {x t : State}, WaterOk x → finish x = .next t → WaterOk t := by
    intro x t hx e
    cases e
    exact hx.same rfl rfl
  rcases hc with rfl | rfl | rfl | ⟨tag, body, rfl⟩
  · refine sent ?_ ht
    unfold onExpiry
    split
    · exact hs
    · exact (hs.same (t := s.atTime _) rfl rfl).waterRampExpired
  · refine sent ?_ ht
    unfold onExpiry
    split
    · exact hs
    · exact (hs.same (t := s.atTime _) rfl rfl).leadExpired
  · refine sent ?_ ht
    unfold onExpiry
    split
    · exact hs
    · next e =>
      refine (hs.same (t := s.atTime _) rfl rfl).lagExpired ?_
      rw [State.atTime_spray, e]
      exact Option.some_ne_none _
  · refine sent (waterOk_takeRequest (fun x hx => ?_) hs) ht
    split
    · exact guarded_keeps (P := WaterOk) (water_waterOk_takeSpray hx _) hx
    · exact guarded_keeps (P := WaterOk) hx hx

/-! ## The law of the water under the recipes' law -/

/-- Both laws. -/
def WaterAndRecipes (s : State) : Prop := WaterOk s ∧ RecipesOk s

theorem WaterAndRecipes.same {s t : State} (hs : WaterAndRecipes s) (hp : t.spray = s.spray)
    (hf : t.setup.flowFull = s.setup.flowFull) (hr : t.recipes = s.recipes) : WaterAndRecipes t :=
  ⟨hs.1.same hp hf, hs.2.same hr⟩

/-- The fields of the active recipe lie in their ranges. -/
theorem RecipesOk.top {s : State} (hs : RecipesOk s) : FieldsInRange s.recipes.top.fields := by
  refine hs.entries _ ?_
  unfold Recipes.top
  cases e : s.recipes.overrides.getLast? with
  | none => exact List.mem_cons_self
  | some x => exact List.mem_cons_of_mem _ (List.mem_of_getLast? e)

theorem water_waterAndRecipes : Water WaterAndRecipes where
  flow := fun _ hs => ⟨hs.1.evaluateFlow, hs.2.same rfl⟩
  form := fun _ hs => ⟨hs.1.formWanted, hs.2.same rfl⟩
  notice := fun s u a b hs => ⟨tank_waterOk.notice s u a b hs.1, hs.2.same rfl⟩
  low := fun s f hs => ⟨hs.1.setLow f, outer_recipesOk.loose.blocks.water.low s f hs.2⟩
  empty := fun s f hs => ⟨hs.1.setEmpty f, outer_recipesOk.loose.blocks.water.empty s f hs.2⟩
  share := fun _ hs => ⟨hs.1.waterShare, hs.2.same rfl⟩
  recipe := fun s f hf hs => by
    obtain ⟨b, hb, rfl⟩ := hf
    exact ⟨hs.1.sprayRecipe hb.2.top, hs.2.same rfl⟩
  enable := fun _ v hs => ⟨water_waterOk_takeSpray hs.1 v, hs.2.same rfl⟩
  ramp := fun _ hs => ⟨hs.1.waterRampExpired, hs.2.same rfl⟩
  lead := fun _ hs => ⟨hs.1.leadExpired, hs.2.same rfl⟩
  lag := fun _ hl hs => ⟨hs.1.lagExpired hl, hs.2.same rfl⟩
  standby := fun s hs => ⟨waterOk_atRest hs.1 s.spray.enable s.spray.low s.spray.empty s.spray.brushOn, hs.2.same rfl⟩
  restart := fun s hs => ⟨waterOk_atRest hs.1 false false false (PerUnit.const false), hs.2.same rfl⟩
  kw := fun _ hs => ⟨hs.1.kwWritten, hs.2.same rfl⟩

theorem blocks_waterAndRecipes : Blocks WaterAndRecipes where
  drive := fun _ _ _ hs => hs.same rfl rfl rfl
  drivePeriod := fun _ hs => hs.same rfl rfl rfl
  water := water_waterAndRecipes
  brush := fun _ _ hs => hs.same rfl rfl rfl
  arms := Plain.armed
    { water := water_waterAndRecipes.toWet
      brush := fun _ _ _ hs => hs.same rfl rfl rfl
      record := fun _ k v _ hs => ⟨waterOk_changeRecord k v hs.1, outer_recipesOk.changeRecord hs.2⟩
      travel := fun s m hm hv hs => ⟨plain_waterOk.travel s m hm hv hs.1, outer_recipesOk.loose.travel s m hm hs.2⟩
      arms := fun _ _ _ hs => hs.same rfl rfl rfl
      post := fun _ _ hs => hs.same rfl rfl rfl
      anyArms := fun _ _ hs => hs.same rfl rfl rfl
      anyRecord := fun _ k v hs => ⟨waterOk_changeRecord k v hs.1, outer_recipesOk.changeRecord hs.2⟩ }
  sensors := fun _ _ hs => hs.same rfl rfl rfl
  arb := fun _ _ hs => hs.same rfl rfl rfl
  cond := fun _ _ hs => hs.same rfl rfl rfl
  travel := fun s m hm hs =>
    ⟨hs.1.same (driveEnterTravel_spray _) (by rw [driveEnterTravel_setup]; rfl), outer_recipesOk.loose.travel s m hm hs.2⟩
  park := fun s b hs => ⟨hs.1.same (by cases b <;> exact clearOverspeed_spray _)
    (by cases b <;> simp [driveEnterPark, modeReport, takeMode]), outer_recipesOk.loose.park s b hs.2⟩
  post := fun _ _ hs => hs.same rfl rfl rfl

/-- A limited flow_full is above 0. -/
theorem flowFull_writtenSetup {g : Nat} {ps : List (Byte × Int)} {x : Setup} (hx : 0 ≤ x.flowFull) :
    0 ≤ (writtenSetup g ps x).flowFull := by
  have put : ∀ (y : Setup) (h n : Nat) (v : Int), 0 ≤ y.flowFull → (h = 2 → n = 0 → 0 ≤ v) → 0 ≤ (y.put h n v).flowFull := by
    intro y h n v hy hv
    unfold Setup.put
    split
    all_goals first
      | exact hy
      | (simp only [Setup.flowFull, Vector.getElem_setIfInBounds]
         split
         · exact hv rfl ‹_›
         · exact hy)
  have pairs : ∀ (ps : List (Byte × Int)) (y : Setup), 0 ≤ y.flowFull → 0 ≤ (applyPairs g ps y).flowFull := by
    intro ps
    induction ps with
    | nil => exact fun y hy => hy
    | cons p ps ih =>
      refine fun y hy => ih _ (put _ _ _ _ hy fun hg hn => ?_)
      have h := limited_mem (g := g) (n := p.1) (r := (50, 600)) (by rw [hg, hn]; rfl) p.2
      exact Int.le_trans (by decide) h.1
  unfold writtenSetup
  split
  · have lower : ∀ (us : List BrushUnit) (y : Setup), 0 ≤ y.flowFull →
        0 ≤ (us.foldl (fun x u => x.put 1 (stopNumber u) (x.startRpm u - 1)) y).flowFull := by
      intro us
      induction us with
      | nil => exact fun y hy => hy
      | cons u us ih => exact fun y hy => ih _ (put _ _ _ _ hy fun h => absurd h (by decide))
    exact lower _ _ (pairs ps x hx)
  · exact pairs ps x hx

theorem waterOk_reset : WaterOk State.reset :=
  waterOk_iff.2 ⟨⟨fun _ => ⟨rfl, rfl⟩, fun _ => rfl, fun hn => absurd rfl hn, fun hw => absurd hw (by decide),
    fun hw => absurd rfl hw, fun hc => absurd hc (by decide), by decide, by decide, by decide, by decide⟩,
    ⟨fun hq => absurd rfl hq, fun hw => absurd hw (by decide)⟩, by decide⟩

theorem whole_waterAndRecipes : Whole WaterAndRecipes where
  toBlocks := blocks_waterAndRecipes
  clock := fun _ _ _ hs => hs.same rfl rfl rfl
  free := fun _ _ hs => hs.same rfl rfl rfl
  pcu := fun _ _ _ _ hs => hs.same rfl rfl rfl
  pins := fun _ _ hs => hs.same rfl rfl rfl
  waking := fun s _ hs => blocks_waterAndRecipes.wakes (fun _ _ hx => hx.same rfl rfl rfl)
    (hs.same (clearOverspeed_spray _) (by rw [driveWake, clearOverspeed_setup]; rfl) (clearOverspeed_recipes _))
  restarting := fun s hs => blocks_waterAndRecipes.restarts (fun _ _ hx => hx.same rfl rfl rfl) (hs.same rfl rfl rfl)
  resting := fun s hs => blocks_waterAndRecipes.rests (fun _ _ hx => hx.same rfl rfl rfl)
    (hs.same (clearOverspeed_spray _) (by rw [driveEnterStandby, clearOverspeed_setup]; rfl) (clearOverspeed_recipes _))
  link := fun _ _ _ hs => hs.same rfl rfl rfl
  setup := fun s g ps _ hs => by
    obtain ⟨seq, asked, full⟩ := waterOk_iff.1 hs.1
    exact ⟨waterOk_iff.2 ⟨seq, asked, flowFull_writtenSetup full⟩, hs.2.same rfl⟩
  pace := fun s p hs => ⟨hs.1.same rfl rfl, whole_recipesOk.pace s p hs.2⟩
  slot := fun s n x hx hf hs => ⟨hs.1.same rfl rfl, whole_recipesOk.slot s n x hx hf hs.2⟩
  refresh := fun s n g hs => ⟨hs.1.same rfl rfl, whole_recipesOk.refresh s n g hs.2⟩
  stack := fun s b o ho hf hs => ⟨hs.1.same rfl rfl, whole_recipesOk.stack s b o ho hf hs.2⟩
  zoneAdd := fun _ _ _ _ hs => takeZoneAdd_keeps (fun _ zs hx => ⟨hx.1.same rfl rfl, hx.2.zones zs _⟩) hs
  zoneClear := fun _ hs => ⟨hs.1.same rfl rfl, hs.2.zones [] _⟩
  restart := fun s hs => ⟨hs.1.same rfl rfl, whole_recipesOk.restart s hs.2⟩
  gate := fun _ hs => blocks_waterAndRecipes.wheelGate (fun _ _ hx => hx.same rfl rfl rfl)
    (fun _ _ hx => hx.same rfl rfl rfl) (fun _ _ hx => ⟨hx.1.same rfl rfl, recipesOk_base hx.2⟩)
    (fun _ zs hx => ⟨hx.1.same rfl rfl, hx.2.zones zs _⟩) (fun _ n hx => ⟨hx.1.same rfl rfl, hx.2.zones _ n⟩) hs
  setOdometer := fun _ _ hs => blocks_waterAndRecipes.takeSetOdometer (fun _ _ hx => hx.same rfl rfl rfl)
    (fun _ _ hx => ⟨hx.1.same rfl rfl, recipesOk_base hx.2⟩)
    (fun _ zs hx => ⟨hx.1.same rfl rfl, hx.2.zones zs _⟩) (fun _ n hx => ⟨hx.1.same rfl rfl, hx.2.zones _ n⟩) hs
  reset := fun s _ => ⟨waterOk_reset.same rfl rfl, recipesOk_reset s⟩

/-- Settles O46: the sequence's law holds while the wanted set is formed, the target then brings the command to it, and a
pump driven in FLOWING alone stands under a wanted group, whose valves are open and whose tank is not empty. -/
theorem pumpRunsOnlyIntoOpenValves : Obligations.PumpRunsOnlyIntoOpenValves := by
  unfold Obligations.PumpRunsOnlyIntoOpenValves
  refine ⟨fun s t hw hr ht => ?_, waterOk_reset, fun s hs => ⟨fun hp => ?_, hs.evaluateFlow, hs.formWanted,
    told_waterOk.tankTest hs, hs.waterShare, fun c t hc ht => waterOk_sprayCommands hs hc ht⟩⟩
  · exact (whole_waterAndRecipes.invariant (fun _ _ hx => hx.same rfl rfl rfl) ⟨hw, hr⟩ ht).1
  · obtain ⟨running, valves⟩ := hs.wet (Or.inr (hs.pump hp))
    have wanted := (hs.asked (hs.target running).ne').2
    exact ⟨by rw [valves]; exact wanted, hs.tank wanted⟩

end Sys2Proof.Machine
end

section
/-! Which records each command may write. `Steady` is what every command keeps but for the records that requests own; the
commands that own a record are met one by one. -/

namespace Sys2Proof.Machine

/-- A property of the records that requests own, which the time and the link port but for the baud rate are no part of. -/
structure Steady (P : State → Prop) : Prop extends Outer P where
  clock : ∀ s n, P s → P { s with clock := n }
  link : ∀ s l, l.baud = s.link.baud → P s → P { s with link := l }

section
variable {P : State → Prop} (h : Steady P) {s : State}
include h

theorem Steady.blocks : Blocks P := h.toOuter.loose.blocks

theorem Steady.expiry {x : Timer} {f : State → State} (hf : ∀ x, P x → P (f x)) (hs : P s) : P (onExpiry x f s) :=
  onExpiry_keeps (fun _ _ _ hx => h.clock _ _ hx) hf hs

/-! ## Waking, STANDBY, modes -/

theorem Steady.wake (hs : P s) : P (wake s) := by
  have b := h.blocks
  exact b.told.tankTest (b.noticed.formWanted (b.told.loopTest (b.told.oilTest (b.sensorsWake
    (b.arbiterWake (h.waking hs))))))

theorem Steady.enterStandby (hs : P s) : P (enterStandby s) := by
  have b := h.blocks
  exact b.sensorsStandby (b.arbiterStandby (b.water.standby _ (h.resting hs)))

theorem Steady.takeSetMode {m : Nat} (hs : P s) : P (takeSetMode m s).1 := by
  have b := h.blocks
  have park : ∀ m : Mode, m.travels = true → P (leavePark m s).1 := by
    intro m hm
    unfold leavePark answer
    split
    · exact hs
    · split
      · exact hs
      · exact b.enterTravel hm hs
  have answered : ∀ {r : Result} (x : State), P x → P (answer r x).1 := fun _ hx => hx
  have enter : ∀ m : Mode, m.travels = true → P (answer .ok (enterTravel m s)).1 := fun _ hm =>
    answered _ (b.enterTravel hm hs)
  have out : Mode.travels (if s.allStowed then .transport else .stowing) = true := by split <;> rfl
  unfold Machine.takeSetMode
  split
  · exact answered _ (h.enterStandby hs)
  · exact answered s hs
  · exact park .transport rfl
  · exact park .work rfl
  · exact enter .parking rfl
  · exact answered s hs
  · exact enter .work rfl
  · exact enter .parking rfl
  · exact enter _ out
  · exact answered s hs
  · exact enter .parking rfl
  · exact answered s hs
  · exact enter .work rfl
  · exact answered s hs
  · exact answered s hs
  · exact answered s hs
  · exact answered s hs

/-! ## The line and the gates -/

theorem Steady.windowClosed (hs : P s) : P (windowClosed s) := by
  unfold Machine.windowClosed
  split
  · exact h.blocks.endTransaction (h.clock _ _ hs)
  · exact hs

theorem Steady.frameSent (hs : P s) : P (frameSent s) := by
  unfold Machine.frameSent
  split
  · exact h.blocks.putLine (h.clock _ _ hs)
  · exact hs

theorem Steady.pulseEdge {ch : PulseChannel} {a b : Bool} (hs : P s) : P (pulseEdge ch a b s) := by
  unfold Machine.pulseEdge
  split
  · exact hs
  · refine h.pcu _ _ ?_ hs
    cases ch <;> cases a <;> rfl

theorem Steady.brushGateOver (hs : P s) : P (brushGateOver s) := by
  have b := h.blocks
  unfold Machine.brushGateOver
  exact forUnits_keeps (f := Machine.armBrushSample) (fun _ _ hx => b.arms.brushSample _ _ hx)
    (forUnits_keeps (f := Machine.brushSample) (fun _ _ hx => b.brushSample hx) (h.pcu s _ (by rfl) hs))

/-! ## The link port and requests -/

theorem Steady.requestArrived {k t : Byte} {b : List Byte} (hs : P s) : P (requestArrived k t b s) := by
  have hp : P { s with link := s.link.place k t b } := h.link _ _ (by
    unfold LinkPort.place countError
    dsimp only
    split <;> rfl) hs
  unfold Machine.requestArrived
  dsimp only
  split
  · exact h.wake hp
  · exact hp

theorem Steady.frameArrived {k t : Byte} {b : List Byte} {c : Word16} (hs : P s) : P (frameArrived k t b c s) := by
  unfold Machine.frameArrived
  split
  · exact h.link s (discardFrame s.link) rfl hs
  · exact h.requestArrived hs

theorem Steady.finish (hs : P s) {t : State} (ht : Machine.finish s = .next t) : P t := by
  cases ht
  refine h.link _ _ ?_ hs
  unfold LinkPort.transmit
  split
  · rfl
  · split
    · rfl
    · split <;> rfl

/-- A request's action, in whatever state it is taken, keeps what the taking keeps. -/
theorem Steady.request {k tag : Byte} {b : List Byte} {act : State → State × List Byte}
    (hact : ∀ x, P x → P (act x).1) (hs : P s) {t : State}
    (ht : Machine.finish (takeRequest k tag b act s) = .next t) : P t := by
  have judged : ∀ x, P x → P (judge act x) := fun x hx => h.link _ _ rfl (hact x hx)
  refine h.finish ?_ ht
  unfold takeRequest
  dsimp only
  split
  · exact judged _ hs
  · split
    · exact judged _ (h.requestArrived hs)
    · exact h.requestArrived hs

/-! ## The requests that own a record -/

theorem Steady.setupEffects {g : Nat} {ns : List Nat} {b : Setup} (hs : P s) : P (setupEffects g ns b s) := by
  have k := h.blocks
  have also : ∀ {c : Bool} {f : State → State}, (∀ x, P x → P (f x)) → ∀ {x : State}, P x → P (if c then f x else x) := by
    intro c f hf x hx
    split
    · exact hf x hx
    · exact hx
  unfold Machine.setupEffects
  split
  · exact also (f := ppmWritten) (fun x hx => h.pcu x { x.pcu with remainder := 0 } rfl hx) hs
  · exact also (fun x hx => k.noticed.evaluateFlow hx) (also (fun x hx => k.water.kw x hx) hs)
  · exact foldl_keeps (fun x r hx => k.roleWritten hx) _ hs
  · split
    · exact hs
    · exact k.substituteChanged hs
  · exact also (fun x hx => k.spacingWritten hx) (also (fun x hx => k.arms.demand x hx) hs)
  · exact hs

theorem Steady.takeSetupWrite (hsetup : ∀ s x, P s → P { s with setup := x }) {g : Nat} {ps : List (Byte × Int)}
    (hs : P s) : P (takeSetupWrite g ps s).1 := by
  unfold Machine.takeSetupWrite
  split
  · exact hs
  · split
    · exact hs
    · exact h.setupEffects (hsetup s _ hs)

theorem Steady.takePaceWrite (hpace : ∀ s p, P s → P { s with recipes := { s.recipes with pace := p } }) {t : Nat}
    {y : Int} {n : Nat} {bs rs : List Int} (hs : P s) : P (takePaceWrite t y n bs rs s).1 := by
  unfold Machine.takePaceWrite answer
  dsimp only
  split
  · split
    · dsimp only
      refine forUnits_keeps (fun u x hx => ?_) (hpace _ _ hs)
      unfold markReselect
      split
      · exact h.blocks.putBrush hx
      · exact hx
    · exact hs
  · exact hs

theorem Steady.endSwitchChanged (hpins : ∀ s p, P s → P { s with pins := p }) {w : EndSwitch} {a : Bool} (hs : P s) :
    P (endSwitchChanged w a s) := by
  unfold Machine.endSwitchChanged
  dsimp only
  split
  · exact hs
  · split
    · exact hpins _ _ hs
    · split
      · exact h.blocks.arms.switchOn _ _ _ (switch_fits w) (hpins _ _ hs)
      · exact h.blocks.arms.switchOff _ _ _ (switch_fits w) (hpins _ _ hs)

theorem Steady.wakeLineActive (hpins : ∀ s p, P s → P { s with pins := p }) (hs : P s) : P (wakeLineActive s) := by
  unfold Machine.wakeLineActive
  dsimp only
  split
  · exact hs
  · split
    · exact h.wake (hpins _ _ hs)
    · exact hpins _ _ hs

theorem Steady.takeRefresh (hslot : ∀ s n x, P s → P (s.putSlot n x))
    (hstack : ∀ s b o, P s → P { s with recipes := { s.recipes with base := b, overrides := o } }) {a b : Byte}
    (hs : P s) : P (takeRefresh a b s).1 := by
  unfold Machine.takeRefresh
  split
  · exact hs
  · next n _ =>
    have h1 := hstack _ (refreshEntry n s.recipes.slots[n] b s.recipes.base)
      (s.recipes.overrides.map (refreshEntry n s.recipes.slots[n] b))
      (hslot s n (refreshSlot b s.recipes.slots[n]) hs)
    dsimp only
    split
    · exact h.blocks.recipeChange h1
    · exact h1

theorem Steady.takePush
    (hstack : ∀ s b o, P s → P { s with recipes := { s.recipes with base := b, overrides := o } }) {n : Byte}
    (hs : P s) : P (takePush n s).1 := by
  unfold Machine.takePush
  split
  · exact hs
  · split
    · exact hs
    · dsimp only
      split
      · exact hs
      · split
        · exact hs
        · exact h.blocks.recipeChange (hstack s s.recipes.base _ hs)

theorem Steady.takePop
    (hstack : ∀ s b o, P s → P { s with recipes := { s.recipes with base := b, overrides := o } }) (hs : P s) :
    P (takePop s).1 := by
  unfold Machine.takePop
  split
  · exact hs
  · split
    · exact hs
    · exact h.blocks.recipeChange (hstack s s.recipes.base _ hs)

theorem Steady.takeRestart (hrestart : ∀ s b o zs n, P s →
      P { s with recipes := { s.recipes with base := b, overrides := o, zones := zs, reference := n } }) (hs : P s) :
    P (takeRestart s).1 := by
  have b := h.blocks
  have h1 : P (restartClear s) := h.cond _ _ (h.link s { s.link with reports := [], lost := false } rfl hs)
  have h2 := b.arbiterRestart (b.water.restart _ (h.restarting h1))
  unfold Machine.takeRestart answer
  split
  · dsimp only
    unfold performRestart recipesRestart
    exact b.told.tankTest (b.told.loopTest (b.told.oilTest (b.sensorsRestart (b.announceRecipe
      (hrestart _ _ _ _ _ h2)))))
  · exact hs

end

/-- A slot's request replaces one slot or changes nothing. -/
theorem takeRecipeWrite_keeps {P : State → Prop} (hslot : ∀ s n x, P s → P (s.putSlot n x)) {n : Byte}
    {ps : List (Byte × Int)} {s : State} (hs : P s) : P (takeRecipeWrite n ps s).1 := by
  unfold takeRecipeWrite
  split
  · exact hs
  · split
    · exact hs
    · exact hslot _ _ _ hs

theorem takeRecipeCopy_keeps {P : State → Prop} (hslot : ∀ s n x, P s → P (s.putSlot n x)) {a b : Byte} {s : State}
    (hs : P s) : P (takeRecipeCopy a b s).1 := by
  unfold takeRecipeCopy
  split
  · dsimp only
    split
    · exact hslot _ _ _ hs
    · exact hs
  · exact hs

theorem takeRecipeErase_keeps {P : State → Prop} (hslot : ∀ s n x, P s → P (s.putSlot n x)) {n : Byte} {s : State}
    (hs : P s) : P (takeRecipeErase n s).1 := by
  unfold takeRecipeErase
  split
  · exact hs
  · exact hslot _ _ _ hs

theorem takeRecipeRead_keeps {P : State → Prop} (hfree : ∀ s n, P s → P { s with free := n }) {a b : Byte} {s : State}
    (hs : P s) : P (takeRecipeRead a b s).1 := by
  unfold takeRecipeRead
  split
  · split <;> exact hs
  · split
    · split <;> exact hs
    · exact hfree _ _ hs

theorem takeSetupRead_fst (g a b : Byte) (s : State) : (takeSetupRead g a b s).1 = s := by
  unfold takeSetupRead
  split <;> rfl

theorem takePaceRead_fst (n : Byte) (s : State) : (takePaceRead n s).1 = s := by
  unfold takePaceRead
  split <;> rfl

/-! ## The writers of each record -/

/-- Which of the records that requests own may be written. -/
structure Marks where
  setup : Bool := false
  pins : Bool := false
  baud : Bool := false
  odometer : Bool := false
  slots : Bool := false
  pace : Bool := false
  stack : Bool := false
  zones : Bool := false
  free : Bool := false

/-- The records a command may write. -/
def writes : Instr → Marks
  | .hardwareReset =>
    { setup := true, baud := true, odometer := true, slots := true, pace := true, stack := true, zones := true }
  | .setupWrite .. => { setup := true }
  | .wakeActive => { pins := true }
  | .wakeInactive => { pins := true }
  | .endSwitchChange .. => { pins := true }
  | .wheelGateClose => { odometer := true, stack := true, zones := true }
  | .setOdometer .. => { odometer := true, stack := true, zones := true }
  | .recipeWrite .. => { slots := true }
  | .recipeCopy .. => { slots := true }
  | .recipeErase .. => { slots := true }
  | .refresh .. => { slots := true, stack := true }
  | .paceWrite .. => { pace := true }
  | .push .. => { stack := true }
  | .pop .. => { stack := true }
  | .restart .. => { stack := true, zones := true }
  | .zoneAdd .. => { zones := true }
  | .zoneClear .. => { zones := true }
  | .recipeRead .. => { free := true }
  | _ => {}

/-- The records that are not marked are those of a given state. -/
structure Kept (m : Marks) (b x : State) : Prop where
  setup : m.setup = false → x.setup = b.setup
  pins : m.pins = false → x.pins = b.pins
  baud : m.baud = false → x.link.baud = b.link.baud
  odometer : m.odometer = false → x.pcu.odometer = b.pcu.odometer
  slots : m.slots = false → x.recipes.slots = b.recipes.slots
  pace : m.pace = false → x.recipes.pace = b.recipes.pace
  stack : m.stack = false → x.recipes.base = b.recipes.base ∧ x.recipes.overrides = b.recipes.overrides
  zones : m.zones = false → x.recipes.zones = b.recipes.zones ∧ x.recipes.reference = b.recipes.reference
  free : m.free = false → x.free = b.free

section
variable {m : Marks} {b x y : State}

theorem Kept.refl (m : Marks) (b : State) : Kept m b b :=
  ⟨fun _ => rfl, fun _ => rfl, fun _ => rfl, fun _ => rfl, fun _ => rfl, fun _ => rfl, fun _ => ⟨rfl, rfl⟩,
    fun _ => ⟨rfl, rfl⟩, fun _ => rfl⟩

/-- An update of other records. -/
theorem Kept.other (h : Kept m b x) (setup : y.setup = x.setup) (pins : y.pins = x.pins)
    (baud : y.link.baud = x.link.baud) (odometer : y.pcu.odometer = x.pcu.odometer) (recipes : y.recipes = x.recipes)
    (free : y.free = x.free) : Kept m b y :=
  ⟨fun e => setup.trans (h.setup e), fun e => pins.trans (h.pins e), fun e => baud.trans (h.baud e),
    fun e => odometer.trans (h.odometer e), fun e => by rw [recipes]; exact h.slots e,
    fun e => by rw [recipes]; exact h.pace e, fun e => by rw [recipes]; exact h.stack e,
    fun e => by rw [recipes]; exact h.zones e, fun e => free.trans (h.free e)⟩

end

theorem steady_kept (m : Marks) (b : State) : Steady (Kept m b) where
  mc := fun _ _ hs => hs.other rfl rfl rfl rfl rfl rfl
  drive := fun _ _ hs => hs.other rfl rfl rfl rfl rfl rfl
  pcu := fun _ _ ho hs => hs.other rfl rfl rfl ho rfl rfl
  spray := fun _ _ hs => hs.other rfl rfl rfl rfl rfl rfl
  brush := fun _ _ hs => hs.other rfl rfl rfl rfl rfl rfl
  arms := fun _ _ hs => hs.other rfl rfl rfl rfl rfl rfl
  sensors := fun _ _ hs => hs.other rfl rfl rfl rfl rfl rfl
  arb := fun _ _ hs => hs.other rfl rfl rfl rfl rfl rfl
  cond := fun _ _ hs => hs.other rfl rfl rfl rfl rfl rfl
  post := fun _ r hs => hs.other rfl rfl (LinkPort.post_baud r _) rfl rfl rfl
  clock := fun _ _ hs => hs.other rfl rfl rfl rfl rfl rfl
  link := fun _ _ hb hs => hs.other rfl rfl hb rfl rfl rfl

section
variable {m : Marks} {b : State}

theorem Kept.setSetup (e : m.setup = true) (s : State) (x : Setup) (hs : Kept m b s) : Kept m b { s with setup := x } :=
  ⟨fun hf => absurd (hf.symm.trans e) (by decide), hs.pins, hs.baud, hs.odometer, hs.slots, hs.pace, hs.stack, hs.zones,
    hs.free⟩

theorem Kept.setPins (e : m.pins = true) (s : State) (p : Pins) (hs : Kept m b s) : Kept m b { s with pins := p } :=
  ⟨hs.setup, fun hf => absurd (hf.symm.trans e) (by decide), hs.baud, hs.odometer, hs.slots, hs.pace, hs.stack, hs.zones,
    hs.free⟩

theorem Kept.setPcu (e : m.odometer = true) (s : State) (p : PulseCapture) (hs : Kept m b s) :
    Kept m b { s with pcu := p } :=
  ⟨hs.setup, hs.pins, hs.baud, fun hf => absurd (hf.symm.trans e) (by decide), hs.slots, hs.pace, hs.stack, hs.zones,
    hs.free⟩

theorem Kept.setSlot (e : m.slots = true) (s : State) (n : Fin 32) (x : Slot) (hs : Kept m b s) :
    Kept m b (s.putSlot n x) :=
  ⟨hs.setup, hs.pins, hs.baud, hs.odometer, fun hf => absurd (hf.symm.trans e) (by decide), hs.pace, hs.stack, hs.zones,
    hs.free⟩

theorem Kept.setPace (e : m.pace = true) (s : State) (p : Vector PaceTable 4) (hs : Kept m b s) :
    Kept m b { s with recipes := { s.recipes with pace := p } } :=
  ⟨hs.setup, hs.pins, hs.baud, hs.odometer, hs.slots, fun hf => absurd (hf.symm.trans e) (by decide), hs.stack, hs.zones,
    hs.free⟩

theorem Kept.setStack (e : m.stack = true) (s : State) (x : StackEntry) (o : List StackEntry) (hs : Kept m b s) :
    Kept m b { s with recipes := { s.recipes with base := x, overrides := o } } :=
  ⟨hs.setup, hs.pins, hs.baud, hs.odometer, hs.slots, hs.pace, fun hf => absurd (hf.symm.trans e) (by decide), hs.zones,
    hs.free⟩

theorem Kept.setZones (e : m.zones = true) (s : State) (zs : List ZoneEntry) (n : Word32) (hs : Kept m b s) :
    Kept m b { s with recipes := { s.recipes with zones := zs, reference := n } } :=
  ⟨hs.setup, hs.pins, hs.baud, hs.odometer, hs.slots, hs.pace, hs.stack, fun hf => absurd (hf.symm.trans e) (by decide),
    hs.free⟩

theorem Kept.setFree (e : m.free = true) (s : State) (n : Nat) (hs : Kept m b s) : Kept m b { s with free := n } :=
  ⟨hs.setup, hs.pins, hs.baud, hs.odometer, hs.slots, hs.pace, hs.stack, hs.zones,
    fun hf => absurd (hf.symm.trans e) (by decide)⟩

end

/-- A hardware reset keeps the pins and the counter of free values, also when it finds WAKE active. -/
theorem kept_hardwareReset (s : State) : Kept (writes .hardwareReset) s (hardwareReset s) := by
  have h1 : Kept (writes .hardwareReset) s (afterReset s) := by constructor <;> intro e <;> first | rfl | cases e
  unfold hardwareReset
  split
  · exact (steady_kept _ s).wake h1
  · exact h1

/-- What a command may write. -/
theorem exec_kept {c : Instr} {s t : State} (ht : exec c s = .next t) : Kept (writes c) s t := by
  have hs : Kept (writes c) s s := .refl _ _
  have h := steady_kept (writes c) s
  have k := h.blocks
  revert ht
  cases c
  case hardwareReset => exact h.finish (kept_hardwareReset s)
  case wakeActive => exact h.finish (h.wakeLineActive (Kept.setPins rfl) hs)
  case settleTimerExpiry => exact h.finish (h.expiry (fun _ hx => k.enterPark hx) hs)
  case parkStopTimerExpiry => exact h.finish (h.expiry (fun _ hx => k.enterPark hx) hs)
  case pulseEdge => exact h.finish (h.pulseEdge hs)
  case wheelGateClose =>
    exact h.finish (h.expiry (fun _ hx => k.wheelGate (Kept.setPcu rfl) (fun x t hx => h.mc x _ hx)
      (fun x _ hx => Kept.setStack rfl x _ x.recipes.overrides hx)
      (fun x zs hx => Kept.setZones rfl x zs x.recipes.reference hx)
      (fun x n hx => Kept.setZones rfl x x.recipes.zones n hx) hx) hs)
  case brushGateClose => exact h.finish (h.expiry (fun _ hx => h.brushGateOver hx) hs)
  case requestTimerExpiry => exact h.finish (h.expiry (fun _ hx => k.requestExpired hx) hs)
  case drivePeriodExpiry => exact h.finish (h.expiry (fun _ hx => k.drivePeriod _ hx) hs)
  case dwellTimerExpiry =>
    refine h.finish ?_
    split
    · exact hs
    · exact h.drive _ _ (h.clock _ _ hs)
  case brushRampTimerExpiry => exact h.finish (h.expiry (fun _ hx => k.noticed.rampExpired hx) hs)
  case stallTimerExpiry => exact h.finish (h.expiry (fun _ hx => k.stallTimerExpired hx) hs)
  case lagTimerExpiry => exact h.finish (h.expiry (fun _ hx => k.lagTimerExpired hx) hs)
  case endSwitchChange => exact h.finish (h.endSwitchChanged (Kept.setPins rfl) hs)
  case spacingTimerExpiry =>
    exact h.finish (h.expiry (fun _ hx => k.arms.startTest _ (k.arms.spacing _ _ hx)) hs)
  case cylinderTimeoutExpiry =>
    refine h.finish ?_
    split
    · exact hs
    · exact k.arms.timedOut _ _ (h.clock _ _ hs)
  case spinDownTimerExpiry => exact h.finish (h.expiry (fun _ hx => k.arms.spinDown _ _ hx) hs)
  case releaseTimerExpiry => exact h.finish (h.expiry (fun _ hx => k.told.releaseExpired hx) hs)
  case waterRampTimerExpiry => exact h.finish (h.expiry (fun _ hx => k.water.ramp _ hx) hs)
  case valveLeadTimerExpiry => exact h.finish (h.expiry (fun _ hx => k.water.lead _ hx) hs)
  case valveLagTimerExpiry => exact h.finish (h.expiry (f := lagExpired) (fun _ hx => h.spray _ _ hx) hs)
  case supplyHoldTimerExpiry => exact h.finish (h.expiry (fun _ hx => k.supplyHoldOver hx) hs)
  case arbiterPeriodExpiry => exact h.finish (h.expiry (fun _ hx => k.arbiterPeriodOver hx) hs)
  case roundPeriodTimerExpiry => exact h.finish (h.expiry (fun _ hx => k.roundPeriodOver hx) hs)
  case masterFrameSent => exact h.finish (h.frameSent hs)
  case sensorReplyComplete => exact h.finish (k.replyReceived hs)
  case replyWindowClose => exact h.finish (h.windowClosed hs)
  case turnaroundExpiry =>
    refine h.finish ?_
    split
    · exact k.turnaroundOver (h.clock _ _ hs)
    · exact hs
  case frameReceived => exact h.finish (h.frameArrived hs)
  case interByteGapTimeout next =>
    exact h.finish (h.link s { countError s.link with receiver := if next = 0xC3 then .inFrame else .waitSync } rfl hs)
  case frameTransmitEnd =>
    refine h.finish (h.link s _ ?_ hs)
    unfold LinkPort.endFrame
    split <;> rfl
  case unknownKind =>
    intro ht
    unfold exec execUnknownKind at ht
    dsimp only at ht
    split at ht
    · exact h.finish hs ht
    · exact h.request (fun _ hx => hx) hs ht
  case status =>
    refine h.request (fun x hx => ?_) hs
    split
    · exact h.link x _ rfl hx
    · exact hx
  case setMode =>
    refine h.request (fun x hx => ?_) hs
    split
    · exact guarded_keeps (P := Kept _ _) (notInStandby_keeps (h.takeSetMode hx) hx) hx
    · exact guarded_keeps (P := Kept _ _) hx hx
  case travel =>
    refine h.request (fun x hx => ?_) hs
    split
    · exact guarded_keeps (P := Kept _ _) (notInStandby_keeps (k.takeTravel hx) hx) hx
    · exact guarded_keeps (P := Kept _ _) hx hx
  case supply =>
    refine h.request (fun x hx => ?_) hs
    split
    · exact guarded_keeps (P := Kept _ _) (notInStandby_keeps (k.takeSupply hx) hx) hx
    · exact guarded_keeps (P := Kept _ _) hx hx
  case setupWrite =>
    refine h.request (fun x hx => ?_) hs
    split
    · split
      · exact guarded_keeps (P := Kept _ _) (h.takeSetupWrite (Kept.setSetup rfl) hx) hx
      · exact guarded_keeps (P := Kept _ _) hx hx
    · exact guarded_keeps (P := Kept _ _) hx hx
  case setupRead =>
    refine h.request (fun x hx => ?_) hs
    split
    · exact guarded_keeps (P := Kept _ _) (by rw [takeSetupRead_fst]; exact hx) hx
    · exact guarded_keeps (P := Kept _ _) hx hx
  case recipeWrite =>
    refine h.request (fun x hx => ?_) hs
    split
    · split
      · exact guarded_keeps (P := Kept _ _) (takeRecipeWrite_keeps (Kept.setSlot rfl) hx) hx
      · exact guarded_keeps (P := Kept _ _) hx hx
    · exact guarded_keeps (P := Kept _ _) hx hx
  case recipeRead =>
    refine h.request (fun x hx => ?_) hs
    split
    · exact guarded_keeps (P := Kept _ _) (takeRecipeRead_keeps (Kept.setFree rfl) hx) hx
    · exact guarded_keeps (P := Kept _ _) hx hx
  case recipeCopy =>
    refine h.request (fun x hx => ?_) hs
    split
    · exact guarded_keeps (P := Kept _ _) (takeRecipeCopy_keeps (Kept.setSlot rfl) hx) hx
    · exact guarded_keeps (P := Kept _ _) hx hx
  case recipeErase =>
    refine h.request (fun x hx => ?_) hs
    split
    · exact guarded_keeps (P := Kept _ _) (takeRecipeErase_keeps (Kept.setSlot rfl) hx) hx
    · exact guarded_keeps (P := Kept _ _) hx hx
  case refresh =>
    refine h.request (fun x hx => ?_) hs
    split
    · exact guarded_keeps (P := Kept _ _) (h.takeRefresh (Kept.setSlot rfl) (Kept.setStack rfl) hx) hx
    · exact guarded_keeps (P := Kept _ _) hx hx
  case paceWrite =>
    refine h.request (fun x hx => ?_) hs
    split
    · exact guarded_keeps (P := Kept _ _) (h.takePaceWrite (Kept.setPace rfl) hx) hx
    · exact guarded_keeps (P := Kept _ _) hx hx
  case paceRead =>
    refine h.request (fun x hx => ?_) hs
    split
    · exact guarded_keeps (P := Kept _ _) (by rw [takePaceRead_fst]; exact hx) hx
    · exact guarded_keeps (P := Kept _ _) hx hx
  case zoneAdd =>
    refine h.request (fun x hx => ?_) hs
    split
    · exact guarded_keeps (P := Kept _ _)
        (takeZoneAdd_keeps (fun y zs hy => Kept.setZones rfl y zs y.recipes.reference hy) hx) hx
    · exact guarded_keeps (P := Kept _ _) hx hx
  case zoneClear =>
    exact h.request (fun x hx => guarded_keeps (P := Kept _ _) (Kept.setZones rfl x [] x.recipes.reference hx) hx) hs
  case zoneList => exact h.request (fun x hx => guarded_keeps (P := Kept _ _) hx hx) hs
  case push =>
    refine h.request (fun x hx => ?_) hs
    split
    · exact guarded_keeps (P := Kept _ _) (h.takePush (Kept.setStack rfl) hx) hx
    · exact guarded_keeps (P := Kept _ _) hx hx
  case pop => exact h.request (fun x hx => guarded_keeps (P := Kept _ _) (h.takePop (Kept.setStack rfl) hx) hx) hs
  case setLift => exact h.request (fun x hx => k.judgeUnit hx) hs
  case releaseLift => exact h.request (fun x hx => k.judgeUnit hx) hs
  case releaseSensed => exact h.request (fun x hx => k.judgeUnit hx) hs
  case releaseKnock => exact h.request (fun x hx => k.judgeUnit hx) hs
  case spray =>
    refine h.request (fun x hx => ?_) hs
    split
    · exact guarded_keeps (P := Kept _ _) (k.water.enable _ _ hx) hx
    · exact guarded_keeps (P := Kept _ _) hx hx
  case clear =>
    refine h.request (fun x hx => ?_) hs
    split
    · exact guarded_keeps (P := Kept _ _) (k.told.takeClear hx) hx
    · exact guarded_keeps (P := Kept _ _) hx hx
  case setOdometer =>
    refine h.request (fun x hx => ?_) hs
    split
    · refine guarded_keeps (P := Kept _ _) (notInStandby_keeps ?_ hx) hx
      exact k.takeSetOdometer (Kept.setPcu rfl) (fun x _ hx => Kept.setStack rfl x _ x.recipes.overrides hx)
        (fun x zs hx => Kept.setZones rfl x zs x.recipes.reference hx)
        (fun x n hx => Kept.setZones rfl x x.recipes.zones n hx) hx
    · exact guarded_keeps (P := Kept _ _) hx hx
  case sensorRead =>
    refine h.request (fun x hx => ?_) hs
    split
    · exact guarded_keeps (P := Kept _ _) (takeSensorRead_keeps hx) hx
    · exact guarded_keeps (P := Kept _ _) hx hx
  case restart =>
    refine h.request (fun x hx => guarded_keeps (P := Kept _ _) (notInStandby_keeps (h.takeRestart ?_ hx) hx) hx) hs
    exact fun y e o zs n hy => Kept.setZones rfl { y with recipes := { y.recipes with base := e, overrides := o } } zs n
      (Kept.setStack rfl y e o hy)
  case wakeInactive => exact h.finish (Kept.setPins rfl s _ hs)
  case lenAbove56Discard =>
    refine h.finish ?_
    unfold lenArrived
    split
    · exact h.link s (discardFrame s.link) rfl hs
    · exact hs

/-- Settles O3: what a command may write (`writes`) is read off for each record. -/
theorem recordsAreWrittenByTheirOwnCommands : Obligations.RecordsAreWrittenByTheirOwnCommands := by
  unfold Obligations.RecordsAreWrittenByTheirOwnCommands
  intro c s t ht
  obtain ⟨setup, pins, baud, odometer, slots, pace, stack, zones, free⟩ := exec_kept ht
  refine ⟨?_, ?_, ?_, ?_, ?_, ?_, ?_, ?_, ?_⟩
  · cases c <;> first | exact setup rfl | trivial
  · cases c <;> first | exact pins rfl | trivial
  · cases c <;> first | exact baud rfl | trivial
  · cases c <;> first | exact odometer rfl | trivial
  · cases c <;> first | exact slots rfl | trivial
  · cases c <;> first | exact pace rfl | trivial
  · cases c <;> first | exact stack rfl | trivial
  · cases c <;> first | exact zones rfl | trivial
  · cases c <;> first | exact free rfl | trivial

end Sys2Proof.Machine
end

section
/-! The step's front command, the state after a reset, and the pulse edges. -/

namespace Sys2Proof.Machine

/-- Settles O1: by the definition of a step. -/
theorem stepTakesTheFrontCommand : Obligations.StepTakesTheFrontCommand := by
  unfold Obligations.StepTakesTheFrontCommand
  refine ⟨fun s c rest h => ?_, fun s h => ?_⟩
  · rw [step, h]
  · unfold step
    split
    · rfl
    · next e => rw [h] at e; cases e

/-- Settles O11: the resets of the invariants. -/
theorem resetObeysTheLaws : Obligations.ResetObeysTheLaws := by
  unfold Obligations.ResetObeysTheLaws
  have recipes := recipesOk_reset State.reset
  have zones : ZonesOk State.reset := .ofAscending (Nat.zero_le _) (ascending_nil _) rfl
  exact ⟨(modeRecordOk_reset State.reset).same rfl rfl, ⟨rfl, fun _ => rfl⟩,
    ⟨Nat.zero_le _, Nat.zero_le _, Nat.zero_le _⟩, recipes.same rfl, (setupOk_reset State.reset).same rfl, zones,
    waterOk_reset, armsOk_reset⟩

/-! ## Pulse edges (R16, R17) -/

theorem edgeCount_eq (rising bHigh : Bool) :
    edgeCount rising bHigh = if (rising && !bHigh) || (!rising && bHigh) then 1 else -1 := by
  cases rising <;> cases bHigh <;> rfl

/-- Settles O23: an edge by its channel, with the count's sign by the two lines. -/
theorem pulseEdgesAreCountedBySignAndSaturate : Obligations.PulseEdgesAreCountedBySignAndSaturate := by
  unfold Obligations.PulseEdgesAreCountedBySignAndSaturate
  intro s rising bHigh n counted
  have edge : ∀ ch, exec (.pulseEdge ch rising bHigh) s = .next (pulseEdge ch rising bHigh s).sent := fun _ => rfl
  have moving : ∀ ch, s.mc.mode ≠ .standby → exec (.pulseEdge ch rising bHigh) s = .next (State.sent { s with pcu :=
      match ch with
      | .wl => { s.pcu with wl := s.pcu.wl.counted (edgeCount rising bHigh) }
      | .wr => { s.pcu with wr := s.pcu.wr.counted (edgeCount rising bHigh) }
      | .bl => brushCounted .l rising s.pcu
      | .br => brushCounted .r rising s.pcu
      | .bm => brushCounted .m rising s.pcu }) := by
    intro ch hm
    rw [edge, pulseEdge.eq_def, if_neg hm] <;> cases ch <;> rfl
  have hcounted : ∀ w, Wheel.counted w (edgeCount rising bHigh) = counted w :=
    fun w => congrArg w.counted (edgeCount_eq rising bHigh)
  refine ⟨fun hm ch => ?_, fun hm => ⟨?_, ?_, fun hr ch hch => ?_, fun hr p hp => ?_⟩⟩
  · rw [edge, pulseEdge.eq_def, if_pos hm]
  · rw [moving _ hm, ← hcounted]
    rfl
  · rw [moving _ hm, ← hcounted]
    rfl
  · simp only [List.mem_cons, List.not_mem_nil, or_false] at hch
    subst hr
    rcases hch with rfl | rfl | rfl <;> rw [moving _ hm] <;> rfl
  · simp only [List.mem_cons, List.not_mem_nil, or_false] at hp
    subst hr
    rcases hp with rfl | rfl | rfl <;> rw [moving _ hm] <;> rfl

/-! ## The hardware reset (R3) -/

/-- The line going active in STANDBY wakes the part, with its level active. -/
theorem wakeLineActive_of_standby {s : State} (hw : s.pins.wake = false) (hm : s.mc.mode = .standby) :
    wakeLineActive s = wake { s with pins := { s.pins with wake := true } } := by
  rw [wakeLineActive, hw]
  exact if_pos hm

theorem exec_wakeActive_of_standby {s : State} (hw : s.pins.wake = false) (hm : s.mc.mode = .standby) :
    exec .wakeActive s = .next (wake { s with pins := { s.pins with wake := true } }).sent := by
  rw [← wakeLineActive_of_standby hw hm]
  rfl

theorem pins_wake {p : Pins} (hw : p.wake = true) : { p with wake := true } = p := by
  rw [← hw]

/-- Settles O12: the reset state is evaluated record by record, the slots by their place, and a reset that finds WAKE active
is the line going active in the restored state. -/
theorem hardwareResetLeavesTheStatedValues : Obligations.HardwareResetLeavesTheStatedValues := by
  unfold Obligations.HardwareResetLeavesTheStatedValues
  constructor
  · intro fields
    refine ⟨rfl, fun k => ?_, rfl, rfl, rfl, fun u => by cases u <;> rfl, rfl, rfl, rfl, fun u => by cases u <;> rfl, rfl,
      rfl, rfl, fun n => ?_, rfl, rfl, rfl, rfl, fun r => by cases r <;> rfl, rfl, fun k => ?_, rfl, rfl, rfl, rfl⟩
    · fin_cases k <;> rfl
    · have h : State.reset.recipes.slots[n] = _ := resetSlots_eq n
      rw [h]
      rfl
    · cases k with
      | brushStall u => cases u <;> rfl
      | brushLag u => cases u <;> rfl
      | brushStarved u => cases u <;> rfl
      | armTimeout u => cases u <;> rfl
      | switch u => cases u <;> rfl
      | sensorLost r => cases r <;> rfl
      | _ => rfl
  · intro s baud restored
    have hrestored : afterReset s = restored := by
      unfold afterReset restored baud
      cases s.pins.baud1 <;> cases s.pins.baud0 <;> rfl
    refine ⟨fun hw => ?_, fun hw => ?_⟩
    · have h : exec .hardwareReset s = .next (hardwareReset s).sent := rfl
      rw [h, hardwareReset, hw, hrestored]
      rfl
    · have h : exec .hardwareReset s = .next (hardwareReset s).sent := rfl
      rw [h, hardwareReset, if_pos hw, hrestored]
      refine Eq.symm (Eq.trans (exec_wakeActive_of_standby (s := { restored with pins := { s.pins with wake := false } })
        rfl rfl) ?_)
      have hpins : ({ { s.pins with wake := false } with wake := true } : Pins) = restored.pins := pins_wake hw
      dsimp only at hpins ⊢
      rw [hpins]

end Sys2Proof.Machine
end

section
/-! The taking of requests: a request whose turn it is is judged where it stands in the receive buffer, and the checks that
come before every judgement are said once for the 27 requests of Table 11-4. -/

namespace Sys2Proof.Machine

/-! ## A request whose turn it is -/

theorem LinkPort.inTurn_iff {l : LinkPort} {k t : Byte} {b : List Byte} :
    l.inTurn k t b = true ↔ l.untaken = some ⟨k, t, b, none⟩ := by
  rw [LinkPort.inTurn, beq_iff_eq]

@[simp] theorem State.holding_mc (s : State) (k t : Byte) (b : List Byte) : (s.holding k t b).mc = s.mc := rfl
@[simp] theorem State.holding_pins (s : State) (k t : Byte) (b : List Byte) : (s.holding k t b).pins = s.pins := rfl
@[simp] theorem State.holding_setup (s : State) (k t : Byte) (b : List Byte) : (s.holding k t b).setup = s.setup := rfl
@[simp] theorem State.holding_pcu (s : State) (k t : Byte) (b : List Byte) : (s.holding k t b).pcu = s.pcu := rfl
@[simp] theorem State.holding_drive (s : State) (k t : Byte) (b : List Byte) : (s.holding k t b).drive = s.drive := rfl
@[simp] theorem State.holding_brush (s : State) (k t : Byte) (b : List Byte) : (s.holding k t b).brush = s.brush := rfl
@[simp] theorem State.holding_arms (s : State) (k t : Byte) (b : List Byte) : (s.holding k t b).arms = s.arms := rfl
@[simp] theorem State.holding_spray (s : State) (k t : Byte) (b : List Byte) : (s.holding k t b).spray = s.spray := rfl
@[simp] theorem State.holding_arb (s : State) (k t : Byte) (b : List Byte) : (s.holding k t b).arb = s.arb := rfl
@[simp] theorem State.holding_recipes (s : State) (k t : Byte) (b : List Byte) : (s.holding k t b).recipes = s.recipes := rfl
@[simp] theorem State.holding_sensors (s : State) (k t : Byte) (b : List Byte) : (s.holding k t b).sensors = s.sensors := rfl
@[simp] theorem State.holding_cond (s : State) (k t : Byte) (b : List Byte) : (s.holding k t b).cond = s.cond := rfl
@[simp] theorem State.holding_clock (s : State) (k t : Byte) (b : List Byte) : (s.holding k t b).clock = s.clock := rfl
@[simp] theorem State.holding_free (s : State) (k t : Byte) (b : List Byte) : (s.holding k t b).free = s.free := rfl

/-- A free place takes the request, and its frame has ended. -/
theorem LinkPort.place_free {l : LinkPort} (h : l.rx.length < 2) (k t : Byte) (b : List Byte) :
    l.place k t b = { l with rx := l.rx ++ [⟨k, t, b, none⟩], receiver := .waitSync } := if_pos h

/-- With both places occupied the request is discarded. -/
theorem LinkPort.place_full {l : LinkPort} (h : ¬ l.rx.length < 2) (k t : Byte) (b : List Byte) :
    l.place k t b = { l with errors := Nat.min 65535 (l.errors + 1), receiver := .waitSync } := if_neg h

/-- Outside STANDBY the arrival of a request is its placing. -/
theorem requestArrived_awake {s : State} (hm : s.mc.mode ≠ .standby) (k t : Byte) (b : List Byte) :
    requestArrived k t b s = { s with link := s.link.place k t b } := if_neg hm

/-- A request whose turn it is is judged in the receive buffer. -/
theorem takeRequest_ready {k t : Byte} {b : List Byte} {s : State} (h : Ready k t b s)
    (act : State → State × List Byte) :
    takeRequest k t b act s = (act (s.holding k t b)).1.replied (act (s.holding k t b)).2 := by
  unfold takeRequest
  rcases h with h | ⟨hu, hl, hm⟩
  · have held : s.holding k t b = s := by rw [State.holding, LinkPort.holding, if_pos h]
    rw [if_pos (LinkPort.inTurn_iff.2 h), held]
    rfl
  · have hn : ¬ s.link.untaken = some ⟨k, t, b, none⟩ := by rw [hu]; exact nofun
    have held : s.holding k t b = { s with link := s.link.place k t b } := by
      rw [State.holding, LinkPort.holding, if_neg hn, LinkPort.place_free hl]
    rw [if_neg (mt LinkPort.inTurn_iff.1 hn), requestArrived_awake hm, if_pos ⟨by rw [hu]; rfl, hl⟩, held]
    rfl

/-- A request's step, given its action: the reply stands with it in the receive buffer, and the step ends. -/
theorem finish_ready {k t : Byte} {b : List Byte} {s : State} (h : Ready k t b s) (act : State → State × List Byte) :
    finish (takeRequest k t b act s) =
      .next ((act (s.holding k t b)).1.replied (act (s.holding k t b)).2).sent := by
  rw [takeRequest_ready h]
  rfl

/-- A request that changes nothing is answered alone. -/
theorem finish_answered {k t : Byte} {b : List Byte} {s : State} (h : Ready k t b s) {act : State → State × List Byte}
    {reply : List Byte} (hact : act (s.holding k t b) = (s.holding k t b, reply)) :
    finish (takeRequest k t b act s) = .next (s.onlyAnswered k t b reply) := by
  rw [finish_ready h, hact]
  rfl

/-! ## The checks before the judgement (R5, R167, R168, R171) -/

section
variable {act : State → State × List Byte} {s : State}

theorem guarded_length : guarded false act s = answer .badLength s := rfl

theorem guarded_settle (h : s.mc.mode = .settle) : guarded true act s = answer .busy s := if_pos h

theorem guarded_taken (h : s.mc.mode ≠ .settle) : guarded true act s = act s := if_neg h

theorem notInStandby_standby (h : s.mc.mode = .standby) : notInStandby act s = answer .refusedMode s := if_pos h

theorem notInStandby_taken (h : s.mc.mode ≠ .standby) : notInStandby act s = act s := if_neg h

end

/-- What the checks make of a request of a KIND with a body, given its action. -/
structure Judges (k : Byte) (b : List Byte) (act : State → State × List Byte) : Prop where
  length : lengthFits k b.length = false → ∀ x, act x = answer .badLength x
  settle : lengthFits k b.length = true → k ≠ 0x01 → ∀ x, x.mc.mode = .settle → act x = answer .busy x
  standby : lengthFits k b.length = true → k ∈ ([0x02, 0x03, 0x04, 0x16, 0x18] : List Byte) →
    ∀ x, x.mc.mode = .standby → act x = answer .refusedMode x
  setup : lengthFits k b.length = true → k = 0x05 → ∀ x, x.mc.mode ≠ .standby → x.mc.mode ≠ .park → x.mc.mode ≠ .settle →
    act x = answer .refusedMode x
  status : lengthFits k b.length = true → k = 0x01 → ∀ x, act x = takeStatus x

/-- A KIND that Table 11-3 has refused in STANDBY. -/
abbrev refusedAsleep (k : Byte) : Prop := k ∈ ([0x02, 0x03, 0x04, 0x16, 0x18] : List Byte)

/-- An action that refuses where SETUP_WRITE is refused. -/
def RefusesAwake (a : State → State × List Byte) : Prop :=
  ∀ x, x.mc.mode ≠ .standby → x.mc.mode ≠ .park → x.mc.mode ≠ .settle → a x = answer .refusedMode x

/-- A request other than STATUS whose action passes the checks of the body length and of SETTLE, and that of its mode where
Table 11-3 has it. -/
theorem judges_of {k : Byte} {b : List Byte} {act : State → State × List Byte} (h1 : k ≠ 0x01)
    (bad : lengthFits k b.length = false → ∃ a, act = guarded false a)
    (fits : lengthFits k b.length = true → ∃ a, act = guarded true a ∧
      (refusedAsleep k → ∃ c, a = notInStandby c) ∧ (k = 0x05 → RefusesAwake a)) : Judges k b act where
  length := fun h x => by
    obtain ⟨a, rfl⟩ := bad h
    exact guarded_length
  settle := fun h _ x hx => by
    obtain ⟨a, rfl, _⟩ := fits h
    exact guarded_settle hx
  standby := fun h hk x hx => by
    obtain ⟨a, rfl, ha, _⟩ := fits h
    obtain ⟨c, rfl⟩ := ha hk
    rw [guarded_taken (by rw [hx]; decide), notInStandby_standby hx]
  setup := fun h hk x hs hp ht => by
    obtain ⟨a, rfl, _, ha⟩ := fits h
    rw [guarded_taken ht, ha hk x hs hp ht]
  status := fun _ hk => absurd hk h1

/-! ### Bodies by their length -/

theorem length_eq_four {α : Type} {l : List α} (h : l.length = 4) : ∃ a b c d, l = [a, b, c, d] := by
  match l, h with
  | [a, b, c, d], _ => exact ⟨a, b, c, d, rfl⟩

theorem length_eq_six {α : Type} {l : List α} (h : l.length = 6) : ∃ a b c d e f, l = [a, b, c, d, e, f] := by
  match l, h with
  | [a, b, c, d, e, f], _ => exact ⟨a, b, c, d, e, f, rfl⟩

/-- The pairs of a list body are a third of its bytes. -/
theorem pairsOf_length : ∀ (l : List Byte) (ps : List (Byte × Int)), pairsOf l = some ps → l.length = 3 * ps.length
  | [], ps, h => by cases h; rfl
  | [_], _, h => by cases h
  | [_, _], _, h => by cases h
  | n :: hi :: lo :: rest, ps, h => by
    rw [pairsOf, Option.map_eq_some_iff] at h
    obtain ⟨qs, hq, rfl⟩ := h
    have := pairsOf_length rest qs hq
    simp only [List.length_cons, this]
    omega

theorem pairsOf_none : ∀ l : List Byte, pairsOf l = none → l.length % 3 ≠ 0
  | [], h => by cases h
  | [_], _ => by simp
  | [_, _], _ => by simp
  | n :: hi :: lo :: rest, h => by
    rw [pairsOf, Option.map_eq_none_iff] at h
    have := pairsOf_none rest h
    simp only [List.length_cons]
    omega

/-- A list body holds one to eighteen pairs. -/
theorem listBody_isSome (l : List Byte) :
    (listBody l).isSome = (l.length % 3 == 0 && decide (3 ≤ l.length) && decide (l.length ≤ 54)) := by
  unfold listBody
  cases e : pairsOf l with
  | none =>
    have := pairsOf_none l e
    simp [this]
  | some ps =>
    have := pairsOf_length l ps e
    dsimp only
    split
    · simp only [Option.isSome_some, this, Bool.true_eq, Bool.and_eq_true, beq_iff_eq, decide_eq_true_eq]
      omega
    · simp only [Option.isSome_none, this, Bool.false_eq, Bool.and_eq_false_iff, beq_eq_false_iff_ne, decide_eq_false_iff_not]
      omega

section
variable {k : Byte} {b : List Byte} (h1 : k ≠ 0x01)
include h1

theorem judges_none (h5 : k ≠ 0x05) (hk : ∀ n, lengthFits k n = (n == 0)) {a : State → State × List Byte}
    (ha : refusedAsleep k → ∃ c, a = notInStandby c) : Judges k b (guarded b.isEmpty a) := by
  have empty : b.isEmpty = lengthFits k b.length := by
    rw [hk]
    cases b <;> rfl
  rw [empty]
  exact judges_of h1 (fun h => ⟨a, by rw [h]⟩) fun h => ⟨a, by rw [h], ha, fun e => absurd e h5⟩

/-- A body of a stated length: the action is the one its bytes give, and BAD_LENGTH with every other body. -/
theorem judges_bytes {act : State → State × List Byte} (h5 : k ≠ 0x05) {n : Nat} (hk : ∀ m, lengthFits k m = (m == n))
    (fits : b.length = n → ∃ a, act = guarded true a ∧ (refusedAsleep k → ∃ c, a = notInStandby c))
    (bad : b.length ≠ n → act = guarded false (answer .ok)) : Judges k b act := by
  refine judges_of h1 (fun h => ⟨answer .ok, bad ?_⟩) fun h => ?_
  · rwa [hk, beq_eq_false_iff_ne] at h
  · rw [hk, beq_iff_eq] at h
    obtain ⟨a, hact, ha⟩ := fits h
    exact ⟨a, hact, ha, fun e => absurd e h5⟩

theorem judges_one (h5 : k ≠ 0x05) (hk : ∀ n, lengthFits k n = (n == 1)) {a : Byte → State → State × List Byte}
    (ha : refusedAsleep k → ∀ m, ∃ c, a m = notInStandby c) :
    Judges k b (fun s => match b with
      | [m] => guarded true (a m) s
      | _ => guarded false (answer .ok) s) := by
  refine judges_bytes h1 h5 hk (fun h => ?_) fun h => funext fun x => ?_
  · obtain ⟨m, rfl⟩ := List.length_eq_one_iff.1 h
    exact ⟨a m, rfl, fun hr => ha hr m⟩
  · split
    · exact absurd rfl h
    · rfl

theorem judges_two (h5 : k ≠ 0x05) (hk : ∀ n, lengthFits k n = (n == 2)) {a : Byte → Byte → State → State × List Byte}
    (ha : refusedAsleep k → ∀ m n, ∃ c, a m n = notInStandby c) :
    Judges k b (fun s => match b with
      | [m, n] => guarded true (a m n) s
      | _ => guarded false (answer .ok) s) := by
  refine judges_bytes h1 h5 hk (fun h => ?_) fun h => funext fun x => ?_
  · obtain ⟨m, n, rfl⟩ := List.length_eq_two.1 h
    exact ⟨a m n, rfl, fun hr => ha hr m n⟩
  · split
    · exact absurd rfl h
    · rfl

theorem judges_pairs (hk : ∀ n, lengthFits k n = (n % 3 == 1 && decide (4 ≤ n) && decide (n ≤ 55)))
    (hr : ¬ refusedAsleep k) {a : Byte → List (Byte × Int) → State → State × List Byte}
    (ha : k = 0x05 → ∀ g ps, RefusesAwake (a g ps)) :
    Judges k b (fun s => match b with
      | g :: rest => match listBody rest with
        | some ps => guarded true (a g ps) s
        | none => guarded false (answer .ok) s
      | [] => guarded false (answer .ok) s) := by
  cases b with
  | nil => exact judges_of h1 (fun _ => ⟨answer .ok, rfl⟩) fun h => by simp [hk] at h
  | cons g rest =>
    have fits : lengthFits k (g :: rest).length = (listBody rest).isSome := by
      rw [hk, listBody_isSome, List.length_cons, Bool.eq_iff_iff]
      simp only [Bool.and_eq_true, beq_iff_eq, decide_eq_true_eq]
      omega
    cases e : listBody rest with
    | none =>
      rw [e] at fits
      refine judges_of h1 (fun _ => ⟨answer .ok, funext fun x => ?_⟩) fun h => ?_
      · dsimp only
        rw [e]
      · rw [fits] at h
        cases h
    | some ps =>
      rw [e] at fits
      refine judges_of h1 (fun h => ?_) fun _ => ⟨a g ps, funext fun x => ?_, fun hq => absurd hq hr, fun e => ha e g ps⟩
      · rw [fits] at h
        cases h
      · dsimp only
        rw [e]

end

/-- SETUP_WRITE is refused outside STANDBY, PARK and SETTLE. -/
theorem refusesAwake_takeSetupWrite (g : Nat) (ps : List (Byte × Int)) : RefusesAwake (takeSetupWrite g ps) :=
  fun _ hs hp _ => if_pos ⟨hs, hp⟩

theorem judges_status (b : List Byte) :
    Judges 0x01 b (fun s => if b.isEmpty then takeStatus s else answer .badLength s) where
  length := fun hl x => by
    have hb : b ≠ [] := by rintro rfl; cases hl
    simp [hb]
  settle := fun _ h1 => absurd rfl h1
  standby := fun _ hk => absurd hk (by decide)
  setup := fun _ hk => absurd hk (by decide)
  status := fun hl _ x => by
    have hb : b = [] := by simpa [lengthFits] using hl
    simp [hb]

theorem judges_unit (b : List Byte) : Judges 0x13 b (judgeUnit b) :=
  judges_two (by decide) (by decide) (fun _ => rfl) (a := fun unit op => takeUnit unit.toNat op.toNat)
    fun hr => absurd hr (by decide)

/-- Every request's step is the taking of its KIND, TAG and body, with an action that makes the checks first. -/
theorem exec_request {c : Instr} {k t : Byte} {b : List Byte} (h : request? c = some (k, t, b)) :
    ∃ act, Judges k b act ∧ ∀ s, exec c s = finish (takeRequest k t b act s) := by
  cases c <;> simp only [request?, reduceCtorEq, Option.some.injEq, Prod.mk.injEq] at h
  all_goals obtain ⟨rfl, rfl, rfl⟩ := h
  case status => exact ⟨_, judges_status _, fun _ => rfl⟩
  case setMode => exact ⟨_, judges_one (by decide) (by decide) (fun _ => rfl) (fun _ _ => ⟨_, rfl⟩), fun _ => rfl⟩
  case travel => exact ⟨_, judges_two (by decide) (by decide) (fun _ => rfl) (fun _ _ _ => ⟨_, rfl⟩), fun _ => rfl⟩
  case supply => exact ⟨_, judges_two (by decide) (by decide) (fun _ => rfl) (fun _ _ _ => ⟨_, rfl⟩), fun _ => rfl⟩
  case setupWrite =>
    exact ⟨_, judges_pairs (by decide) (fun _ => rfl) (by decide) (fun _ g ps => refusesAwake_takeSetupWrite _ ps),
      fun _ => rfl⟩
  case setupRead =>
    refine ⟨_, judges_bytes (by decide) (by decide) (n := 3) (fun _ => rfl) (fun h => ?_) fun h => funext fun x => ?_,
      fun _ => rfl⟩
    · obtain ⟨m, n, o, rfl⟩ := List.length_eq_three.1 h
      exact ⟨_, rfl, fun hr => absurd hr (by decide)⟩
    · split
      · exact absurd rfl h
      · rfl
  case recipeWrite =>
    exact ⟨_, judges_pairs (by decide) (fun _ => rfl) (by decide) (fun e => absurd e (by decide)), fun _ => rfl⟩
  case recipeRead =>
    exact ⟨_, judges_two (by decide) (by decide) (fun _ => rfl) (fun hr => absurd hr (by decide)), fun _ => rfl⟩
  case recipeCopy =>
    exact ⟨_, judges_two (by decide) (by decide) (fun _ => rfl) (fun hr => absurd hr (by decide)), fun _ => rfl⟩
  case recipeErase =>
    exact ⟨_, judges_one (by decide) (by decide) (fun _ => rfl) (fun hr => absurd hr (by decide)), fun _ => rfl⟩
  case refresh =>
    exact ⟨_, judges_two (by decide) (by decide) (fun _ => rfl) (fun hr => absurd hr (by decide)), fun _ => rfl⟩
  case paceWrite tag body =>
    refine ⟨_, judges_bytes (by decide) (by decide) (n := 28) (fun _ => rfl) (fun h => ?_) fun h => funext fun x => ?_,
      fun _ => rfl⟩
    · match body, h with
      | [_, _, _, _, _, _, _, _, _, _, _, _, _, _, _, _, _, _, _, _, _, _, _, _, _, _, _, _], _ =>
        exact ⟨_, rfl, fun hr => absurd hr (by decide)⟩
    · split
      · exact absurd rfl h
      · rfl
  case paceRead =>
    exact ⟨_, judges_one (by decide) (by decide) (fun _ => rfl) (fun hr => absurd hr (by decide)), fun _ => rfl⟩
  case zoneAdd tag body =>
    refine ⟨_, judges_bytes (by decide) (by decide) (n := 6) (fun _ => rfl) (fun h => ?_) fun h => funext fun x => ?_,
      fun _ => rfl⟩
    · obtain ⟨_, _, _, _, _, _, rfl⟩ := length_eq_six h
      exact ⟨_, rfl, fun hr => absurd hr (by decide)⟩
    · split
      · exact absurd rfl h
      · rfl
  case zoneClear =>
    exact ⟨_, judges_none (by decide) (by decide) (fun _ => rfl) (fun hr => absurd hr (by decide)), fun _ => rfl⟩
  case zoneList =>
    exact ⟨_, judges_none (by decide) (by decide) (fun _ => rfl) (fun hr => absurd hr (by decide)), fun _ => rfl⟩
  case push =>
    exact ⟨_, judges_one (by decide) (by decide) (fun _ => rfl) (fun hr => absurd hr (by decide)), fun _ => rfl⟩
  case pop =>
    exact ⟨_, judges_none (by decide) (by decide) (fun _ => rfl) (fun hr => absurd hr (by decide)), fun _ => rfl⟩
  case setLift => exact ⟨_, judges_unit _, fun _ => rfl⟩
  case releaseLift => exact ⟨_, judges_unit _, fun _ => rfl⟩
  case releaseSensed => exact ⟨_, judges_unit _, fun _ => rfl⟩
  case releaseKnock => exact ⟨_, judges_unit _, fun _ => rfl⟩
  case spray =>
    exact ⟨_, judges_one (by decide) (by decide) (fun _ => rfl) (fun hr => absurd hr (by decide)), fun _ => rfl⟩
  case clear =>
    exact ⟨_, judges_one (by decide) (by decide) (fun _ => rfl) (fun hr => absurd hr (by decide)), fun _ => rfl⟩
  case setOdometer tag body =>
    refine ⟨_, judges_bytes (by decide) (by decide) (n := 4) (fun _ => rfl) (fun h => ?_) fun h => funext fun x => ?_,
      fun _ => rfl⟩
    · obtain ⟨_, _, _, _, rfl⟩ := length_eq_four h
      exact ⟨_, rfl, fun _ => ⟨_, rfl⟩⟩
    · split
      · exact absurd rfl h
      · rfl
  case sensorRead =>
    exact ⟨_, judges_one (by decide) (by decide) (fun _ => rfl) (fun hr => absurd hr (by decide)), fun _ => rfl⟩
  case restart => exact ⟨_, judges_none (by decide) (by decide) (fun _ => rfl) (fun _ => ⟨_, rfl⟩), fun _ => rfl⟩

/-- A KIND beyond Table 11-4 has its own action. -/
theorem exec_unknownKind {k : Byte} (hk : k.toNat = 0 ∨ 0x18 < k.toNat) (t : Byte) (b : List Byte) (s : State) :
    exec (.unknownKind k t b) s = finish (takeRequest k t b (answer .unknownKind) s) := by
  have unknown : knownKind k = false := by
    simp only [knownKind, Bool.and_eq_false_iff, decide_eq_false_iff_not]
    omega
  have h : exec (.unknownKind k t b) s =
      finish (if knownKind k then s else takeRequest k t b (answer .unknownKind) s) := rfl
  rw [h, unknown]
  rfl

/-- Settles O21: the checks of `Judges`, for a request whose turn it is. -/
theorem requestsAreCheckedBeforeTheyAreJudged : Obligations.RequestsAreCheckedBeforeTheyAreJudged := by
  unfold Obligations.RequestsAreCheckedBeforeTheyAreJudged
  refine ⟨fun s k t b hk hr => ?_, fun c s k t b hc hl hr => ?_, fun c s k t b hc hk hl hr hm => ?_,
    fun c s k t b hc hl hr => ⟨fun hm hk => ?_, fun hs hp ht hk => ?_⟩⟩
  · rw [exec_unknownKind hk]
    exact finish_answered hr rfl
  all_goals
    obtain ⟨act, checks, hexec⟩ := exec_request hc
    rw [hexec]
    refine finish_answered hr ?_
  · exact checks.length hl _
  · exact checks.settle hl hk _ hm
  · exact checks.standby hl hk _ hm
  · exact checks.setup hl hk _ hs hp ht

end Sys2Proof.Machine
end

section
/-! The link port's frames, its transmitter, and the STATUS reply. -/

namespace Sys2Proof.Machine

/-! ## Check sums (R165, R143) -/

/-- Settles O19: a byte joins either sum by eight shifts, each with the polynomial where a 1 leaves at the top. -/
theorem framesCarryTheirChecks : Obligations.FramesCarryTheirChecks := by
  unfold Obligations.FramesCarryTheirChecks
  refine ⟨fun kind tag body => ?_, rfl, fun bytes b => ?_, rfl, fun bytes b => ?_⟩
  · simp [frameBytes, wordBytes, byte]
  · simp only [crc16, List.foldl_append, List.foldl_cons, List.foldl_nil]
    rfl
  · simp only [crc8, List.foldl_append, List.foldl_cons, List.foldl_nil]
    rfl

/-! ## Bytes -/

/-- A number's two bytes, high byte first. -/
theorem bytes16_eq (v : Int) : bytes16 v = [BitVec.ofInt 8 (v / 256), BitVec.ofInt 8 v] := by
  have high : (BitVec.ofInt 16 v).extractLsb' 8 8 = BitVec.ofInt 8 (v / 256) := by
    apply BitVec.eq_of_toNat_eq
    simp only [BitVec.extractLsb'_toNat, BitVec.toNat_ofInt, Nat.shiftRight_eq_div_pow]
    omega
  have low : (BitVec.ofInt 16 v).extractLsb' 0 8 = BitVec.ofInt 8 v := by
    apply BitVec.eq_of_toNat_eq
    simp only [BitVec.extractLsb'_toNat, BitVec.toNat_ofInt, Nat.shiftRight_eq_div_pow]
    omega
  rw [bytes16, wordBytes, high, low]

/-- A word's four bytes, high byte first. -/
theorem bytes32_eq (w : Word32) : bytes32 w = [BitVec.ofNat 8 (w.toNat / 16777216), BitVec.ofNat 8 (w.toNat / 65536),
    BitVec.ofNat 8 (w.toNat / 256), BitVec.ofNat 8 w.toNat] := by
  have byteAt : ∀ k, w.extractLsb' k 8 = BitVec.ofNat 8 (w.toNat / 2 ^ k) := by
    intro k
    apply BitVec.eq_of_toNat_eq
    simp only [BitVec.extractLsb'_toNat, BitVec.toNat_ofNat, Nat.shiftRight_eq_div_pow]
  rw [bytes32, byteAt, byteAt, byteAt, byteAt]
  norm_num

/-- Two numbers of twelve bits in three bytes. -/
theorem consumerBytes_eq (c : ConsumerRec) : consumerBytes c =
    [BitVec.ofInt 8 (c.grant / 16), BitVec.ofInt 8 (c.grant % 16 * 16 + c.share / 256 % 16), BitVec.ofInt 8 c.share] := by
  have word : ((BitVec.ofInt 12 c.grant ++ BitVec.ofInt 12 c.share : BitVec 24)).toNat =
      (c.grant % 4096).toNat * 4096 + (c.share % 4096).toNat := by
    have hlt : (c.share % 4096).toNat < 2 ^ 12 := by omega
    rw [BitVec.toNat_append, BitVec.toNat_ofInt, BitVec.toNat_ofInt]
    norm_num only
    rw [← Nat.shiftLeft_add_eq_or_of_lt hlt, Nat.shiftLeft_eq]
  have byteAt : ∀ k (x : Byte), x.toNat = ((c.grant % 4096).toNat * 4096 + (c.share % 4096).toNat) / 2 ^ k % 256 →
      (BitVec.ofInt 12 c.grant ++ BitVec.ofInt 12 c.share : BitVec 24).extractLsb' k 8 = x := by
    intro k x hx
    apply BitVec.eq_of_toNat_eq
    rw [BitVec.extractLsb'_toNat, word, Nat.shiftRight_eq_div_pow, hx]
  unfold consumerBytes
  dsimp only
  rw [byteAt 16 _ ?_, byteAt 8 _ ?_, byteAt 0 _ ?_]
  all_goals
    rw [BitVec.toNat_ofInt]
    omega

/-! ## The transmitter (R169, R170) -/

section
variable {l : LinkPort}

theorem LinkPort.transmit_busy {x : Transmission} (h : l.tx = some x) : l.transmit = l := by
  simp only [LinkPort.transmit, h]

/-- The oldest pending reply is sent before any report. -/
theorem LinkPort.transmit_reply (h : l.tx = none) {p : Place} {b : List Byte} (hp : l.pendingReply = some (p, b)) :
    l.transmit = { l with tx := some ⟨true, frameBytes (p.kind + 0x80) p.tag b⟩ } := by
  simp only [LinkPort.transmit, h, hp]

theorem LinkPort.transmit_idle (h : l.tx = none) (hp : l.pendingReply = none) (hr : l.reports = []) :
    l.transmit = l := by
  simp only [LinkPort.transmit, h, hp, hr]

theorem LinkPort.transmit_report (h : l.tx = none) (hp : l.pendingReply = none) {r : Report} {rest : List Report}
    (hr : l.reports = r :: rest) :
    l.transmit = { l with tx := some ⟨false, frameBytes r.kind 0 (r.body l.lost)⟩, reports := rest, lost := false } := by
  simp only [LinkPort.transmit, h, hp, hr]

/-- A transmitter that is free after its turn has nothing to send. -/
theorem LinkPort.transmit_free (h : l.transmit.tx = none) : l.transmit.pendingReply = none ∧ l.transmit.reports = [] := by
  cases ht : l.tx with
  | some x =>
    rw [transmit_busy ht, ht] at h
    cases h
  | none =>
    cases hp : l.pendingReply with
    | some p =>
      rw [transmit_reply ht (p := p.1) (b := p.2) hp] at h
      cases h
    | none =>
      cases hr : l.reports with
      | nil => rw [transmit_idle ht hp hr]; exact ⟨hp, hr⟩
      | cons r rest =>
        rw [transmit_report ht hp hr] at h
        cases h

theorem LinkPort.endFrame_some {x : Transmission} (h : l.tx = some x) :
    l.endFrame = { l with tx := none, rx := if x.isReply then freePlace l.rx else l.rx } := by
  simp only [LinkPort.endFrame, h]

end

theorem exec_frameTransmitEnd (s : State) :
    exec .frameTransmitEnd s = .next { s with link := s.link.endFrame.transmit } := rfl

/-- Settles O20: the transmitter's turn by its cases, the layouts by evaluation, and the receive buffer by its length. -/
theorem transmitterSendsRepliesBeforeReports : Obligations.TransmitterSendsRepliesBeforeReports := by
  unfold Obligations.TransmitterSendsRepliesBeforeReports
  refine ⟨fun s => ⟨fun h => ?_, fun was h => ?_⟩, ?_, fun s r => ⟨fun h => ?_, fun h => ?_, ?_⟩, fun l => ⟨fun h => ?_,
    fun p h => ⟨fun hp => ?_, fun a hp => ?_⟩, fun p q h => ⟨fun hp hq => ?_, fun a hp => ?_, fun a hp hq => ?_⟩⟩,
    fun l kind tag body reply ht hr => ?_, fun c s t h => ?_⟩
  · rw [exec_frameTransmitEnd, LinkPort.endFrame, h]
    rfl
  · intro rx free
    have ended : s.link.endFrame = free := LinkPort.endFrame_some h
    refine ⟨fun p reply hp => ?_, fun hp hr => ?_, fun r rest hp hr => ?_⟩
    · rw [exec_frameTransmitEnd, ended, LinkPort.transmit_reply rfl hp]
    · rw [exec_frameTransmitEnd, ended, LinkPort.transmit_idle rfl hp hr]
    · rw [exec_frameTransmitEnd, ended, LinkPort.transmit_report rfl hp hr]
  · intro lost flags mode record unit hold cause reach height spin activity sends
    have hhold : Hold.code = hold := funext fun x => by cases x <;> rfl
    refine ⟨fun m t => ⟨rfl, ?_⟩, fun k a b p l => ⟨rfl, ?_⟩, fun tag slot mark o => ⟨rfl, ?_⟩,
      fun u c x y z act holds => ⟨rfl, ?_⟩, fun d top c => ⟨rfl, ?_⟩, by decide⟩
    · have hm : ∀ m : Mode, byte m.number = mode m := fun m => by cases m <;> rfl
      rw [← hm m, ← hm t]
      rfl
    · have hc : ∀ c : CondState, c.code = record c := fun c => by cases c <;> rfl
      rw [← hc a, ← hc b]
      rfl
    · cases o <;> simp only [Report.body, bytes32_eq] <;> rfl
    · have hu : byte (unitNumber u) = unit u := by cases u <;> rfl
      have hc : [c.code, c.source] = cause c := by
        cases c with
        | goal => rfl
        | fault => rfl
        | holdTaken x => cases x <;> rfl
        | holdReleased x => cases x <;> rfl
      have hp : postureByte x y z = BitVec.ofNat 8 (64 * reach x + 16 * height y + spin z) := by
        cases x <;> cases y <;> cases z <;> rfl
      have ha : act.code = activity act := by
        cases act with
        | moving k => cases k <;> rfl
        | _ => rfl
      rw [← hu, ← hc, ← hp, ← ha, ← hhold]
      rfl
    · cases c <;> rfl
  · rw [State.post, LinkPort.post, if_pos h]
  · rw [State.post, LinkPort.post, if_neg (Nat.not_lt.2 h)]
  · simp [State.attn]
  · simp [LinkPort.pendingReply, h]
  · simp [LinkPort.pendingReply, freePlace, h, hp]
  · simp [LinkPort.pendingReply, freePlace, h, hp]
  · simp [LinkPort.pendingReply, freePlace, h, hp, hq]
  · simp [LinkPort.pendingReply, freePlace, h, hp]
  · simp [LinkPort.pendingReply, freePlace, h, hp, hq]
  · have hold : l.holding kind tag body = { l with rx := [⟨kind, tag, body, none⟩], receiver := .waitSync } := by
      rw [LinkPort.holding, if_neg (by simp [LinkPort.untaken, hr]), hr]
      rfl
    rw [LinkPort.answered, hold]
    exact LinkPort.transmit_reply (l := { l with rx := [⟨kind, tag, body, some reply⟩], receiver := .waitSync }) ht rfl
  · obtain ⟨x, hx⟩ := exec_finishes c s
    rw [hx] at h
    cases h
    exact fun ht => LinkPort.transmit_free ht

/-! ## STATUS (R173) -/

theorem LinkPort.holding_lost (l : LinkPort) (k t : Byte) (b : List Byte) : (l.holding k t b).lost = l.lost := by
  unfold LinkPort.holding
  split <;> rfl

theorem LinkPort.holding_errors (l : LinkPort) (k t : Byte) (b : List Byte) : (l.holding k t b).errors = l.errors := by
  unfold LinkPort.holding
  split <;> rfl

/-- The reply shows nothing of the receive buffer. -/
theorem statusBody_holding (s : State) (k t : Byte) (b : List Byte) : statusBody (s.holding k t b) = statusBody s := by
  have hl : (s.holding k t b).link.lost = s.link.lost := LinkPort.holding_lost ..
  have he : (s.holding k t b).link.errors = s.link.errors := LinkPort.holding_errors ..
  unfold statusBody statusFlags
  rw [hl, he]
  rfl

/-- A wheel speed takes two bytes in every case. -/
theorem wheelBytes_two (v : Int) : ∃ a b, wheelBytes v = [a, b] := by
  unfold wheelBytes
  split <;> exact ⟨_, _, rfl⟩

theorem bytes16_two (v : Int) : ∃ a b, bytes16 v = [a, b] := ⟨_, _, rfl⟩

theorem postureOf_eq (a : ArmUnit) : postureOf a = BitVec.ofNat 8
    (64 * (match a.reach with | .isIn => 0 | .out => 1 | .unknown => 2 | .absent => 3) +
      16 * (match a.height with | .up => 0 | .down => 1 | .unknown => 2) +
      (match a.spin with | .off => 0 | .spinningUp => 1 | .on => 2 | .spinningDown => 3)) := by
  unfold postureOf postureByte
  cases a.reach <;> cases a.height <;> cases a.spin <;> rfl

/-- STATUS is answered with the values that stand, in every mode. -/
theorem exec_status {s : State} {tag : Byte} (h : Ready 0x01 tag [] s) :
    exec (.status tag []) s = .next ((State.replied (statusBody s)
      { s.holding 0x01 tag [] with link := { (s.holding 0x01 tag []).link with lost := false } }).sent) := by
  have taking : exec (.status tag []) s = finish (takeRequest 0x01 tag [] takeStatus s) := rfl
  rw [taking, finish_ready h, takeStatus, statusBody_holding]

/-- Settles O22: the reply's places are counted off, its values by their bytes. -/
theorem statusAnswersTheStandingValues : Obligations.StatusAnswersTheStandingValues := by
  unfold Obligations.StatusAnswersTheStandingValues
  intro s tag hr h number three posture activity
  have hnumber : ∀ m : Mode, byte m.number = number m := fun m => by cases m <;> rfl
  have hthree : ∀ c, consumerBytes (s.arb.consumers.get c) = three c := fun c => consumerBytes_eq _
  have hposture : ∀ u, postureOf (s.armOf u) = posture u := fun u => postureOf_eq (s.armOf u)
  have hactivity : ∀ u, (s.armOf u).activity.code = activity u := fun u => by
    unfold activity
    cases (s.armOf u).activity with
    | moving k => cases k <;> rfl
    | _ => rfl
  obtain ⟨l1, l2, hl⟩ := wheelBytes_two s.pcu.wl.speed
  obtain ⟨r1, r2, hright⟩ := wheelBytes_two s.pcu.wr.speed
  refine ⟨bytes16_eq, bytes32_eq, exec_status hr, ?_⟩
  have body : statusBody s = [Result.ok.code, number s.mc.mode, number s.mc.target] ++ bytes32 s.pcu.odometer ++
      bytes16 s.pcu.sample ++ [l1, l2] ++ [r1, r2] ++ bytes16 s.drive.ramped ++ bytes16 s.drive.dispOut ++
      bytes16 s.arb.budget ++ (three .arms ++ three .drive ++ three .broomM ++ three .brushL ++ three .brushR ++ three .water) ++
      bytes16 s.pcu.brushRpm.l ++ bytes16 s.pcu.brushRpm.r ++ bytes16 s.pcu.brushRpm.m ++
      [posture .l, posture .r, posture .m] ++ [activity .l, activity .r, activity .m] ++
      [byte (s.recipes.depth * 32 + s.recipes.top.source), byte s.recipes.zones.length] ++
      [byte s.cond.presentCount, byte s.cond.latchedCount] ++ bytes16 s.link.errors ++ [statusFlags s] := by
    rw [← hnumber, ← hnumber, ← hl, ← hright, ← hthree, ← hthree, ← hthree, ← hthree, ← hthree, ← hthree, ← hposture,
      ← hposture, ← hposture, ← hactivity, ← hactivity, ← hactivity]
    rfl
  have left : -32768 ≤ s.pcu.wl.speed → s.pcu.wl.speed ≤ 32767 → [l1, l2] = bytes16 s.pcu.wl.speed :=
    fun hlo hhi => hl.symm.trans (if_pos ⟨hlo, hhi⟩)
  have right : -32768 ≤ s.pcu.wr.speed → s.pcu.wr.speed ≤ 32767 → [r1, r2] = bytes16 s.pcu.wr.speed :=
    fun hlo hhi => hright.symm.trans (if_pos ⟨hlo, hhi⟩)
  obtain ⟨o1, o2, o3, o4, ho⟩ : ∃ a b c d, bytes32 s.pcu.odometer = [a, b, c, d] := ⟨_, _, _, _, rfl⟩
  obtain ⟨x1, x2, hx⟩ := bytes16_two s.pcu.sample
  obtain ⟨d1, d2, hd⟩ := bytes16_two s.drive.ramped
  obtain ⟨e1, e2, he⟩ := bytes16_two s.drive.dispOut
  obtain ⟨g1, g2, hg⟩ := bytes16_two s.arb.budget
  obtain ⟨i1, i2, hi⟩ := bytes16_two s.pcu.brushRpm.l
  obtain ⟨j1, j2, hj⟩ := bytes16_two s.pcu.brushRpm.r
  obtain ⟨k1, k2, hk⟩ := bytes16_two s.pcu.brushRpm.m
  obtain ⟨n1, n2, hn⟩ := bytes16_two s.link.errors
  have each : ∀ c, ∃ a b d, three c = [a, b, d] := fun c => ⟨_, _, _, rfl⟩
  obtain ⟨p1, p2, p3, hp⟩ := each .arms
  obtain ⟨q1, q2, q3, hq⟩ := each .drive
  obtain ⟨s1, s2, s3, hs⟩ := each .broomM
  obtain ⟨u1, u2, u3, hu⟩ := each .brushL
  obtain ⟨v1, v2, v3, hv⟩ := each .brushR
  obtain ⟨w1, w2, w3, hw⟩ := each .water
  rw [body, ho, hx, hd, he, hg, hi, hj, hk, hn, hp, hq, hs, hu, hv, hw]
  simp only [List.cons_append, List.nil_append]
  exact ⟨rfl, rfl, rfl, rfl, rfl, rfl, left, right, rfl, rfl, rfl, rfl, rfl, rfl, rfl, rfl, rfl, rfl, rfl, rfl, rfl⟩

end Sys2Proof.Machine
end

section
/-! The drive and the pulses: TRAVEL and its timer (R28, R29), the drive period (R30 to R41), reversals (R32 to R35),
overspeed (R42), SET_ODOMETER (R25) and the two gates (R17 to R23, R86, R87). -/

namespace Sys2Proof.Machine

/-! ## The arithmetic of Section 1.4.2 by the library's operations -/

theorem clamp_eq {lo hi : Int} (h : lo ≤ hi) (x : Int) : clamp lo hi x = max lo (min hi x) := by
  unfold clamp
  omega

/-- A quotient rounded toward zero is not above 0 when its numerator is not. -/
theorem tdiv_nonpos {a b : Int} (ha : a ≤ 0) (hb : 0 ≤ b) : a.tdiv b ≤ 0 := by
  have h := Int.tdiv_nonneg (neg_nonneg.2 ha) hb
  rw [Int.neg_tdiv] at h
  exact neg_nonneg.1 h

/-- A number scaled by a part of a thousand keeps its sign. -/
theorem scaled_mul_nonneg (x : Int) {share : Int} (h : 0 ≤ share) : 0 ≤ (x * share).tdiv 1000 * x := by
  rcases le_total 0 x with hx | hx
  · exact mul_nonneg (Int.tdiv_nonneg (mul_nonneg hx h) (by decide)) hx
  · exact mul_nonneg_of_nonpos_of_nonpos (tdiv_nonpos (mul_nonpos_of_nonpos_of_nonneg hx h) (by decide)) hx

theorem scaled_le {x share : Int} (hx : 0 ≤ x) (h : share ≤ 1000) : (x * share).tdiv 1000 ≤ x := by
  have le : x * share ≤ x * 1000 := mul_le_mul_of_nonneg_left h hx
  calc (x * share).tdiv 1000 ≤ (x * 1000).tdiv 1000 := Int.tdiv_le_tdiv (by decide) le
    _ = x := Int.mul_tdiv_cancel x (by decide)

/-- A number scaled by a part of a thousand does not grow. -/
theorem abs_scaled_le (x : Int) {share : Int} (h0 : 0 ≤ share) (h : share ≤ 1000) : |(x * share).tdiv 1000| ≤ |x| := by
  rcases le_total 0 x with hx | hx
  · rw [abs_of_nonneg hx, abs_of_nonneg (Int.tdiv_nonneg (mul_nonneg hx h0) (by decide))]
    exact scaled_le hx h
  · have neg : (x * share).tdiv 1000 = -((-x * share).tdiv 1000) := by rw [neg_mul, Int.neg_tdiv, neg_neg]
    have hx' : 0 ≤ -x := by omega
    rw [abs_of_nonpos hx, neg, abs_neg, abs_of_nonneg (Int.tdiv_nonneg (mul_nonneg hx' h0) (by decide))]
    exact scaled_le hx' h

/-! ## A request outside SETTLE, and a timer that expires -/

section
variable {k t : Byte} {b : List Byte} {s : State}

/-- In SETTLE a request of a correct length other than STATUS is answered BUSY. -/
theorem exec_busy {c : Instr} (hc : request? c = some (k, t, b)) (hl : lengthFits k b.length = true) (hk : k ≠ 0x01)
    (hr : Ready k t b s) (hm : s.mc.mode = .settle) : exec c s = .next (s.onlyAnswered k t b [0x10]) := by
  obtain ⟨act, checks, hexec⟩ := exec_request hc
  rw [hexec]
  exact finish_answered hr (checks.settle hl hk _ hm)

/-- In STANDBY the requests of Table 11-3 are refused. -/
theorem exec_refusedAsleep {c : Instr} (hc : request? c = some (k, t, b)) (hl : lengthFits k b.length = true)
    (hk : refusedAsleep k) (hr : Ready k t b s) (hm : s.mc.mode = .standby) :
    exec c s = .next (s.onlyAnswered k t b [0x11]) := by
  obtain ⟨act, checks, hexec⟩ := exec_request hc
  rw [hexec]
  exact finish_answered hr (checks.standby hl hk _ hm)

variable {act : State → State × List Byte}

/-- Outside SETTLE a request of a correct length is judged. -/
theorem finish_judged (hr : Ready k t b s) (hm : s.mc.mode ≠ .settle) {x : State} {reply : List Byte}
    (hact : act (s.holding k t b) = (x, reply)) :
    finish (takeRequest k t b (guarded true act) s) = .next (State.replied reply x).sent := by
  rw [finish_ready hr, guarded_taken (s := s.holding k t b) hm, hact]

theorem finish_judged_answered (hr : Ready k t b s) (hm : s.mc.mode ≠ .settle) {reply : List Byte}
    (hact : act (s.holding k t b) = (s.holding k t b, reply)) :
    finish (takeRequest k t b (guarded true act) s) = .next (s.onlyAnswered k t b reply) :=
  finish_judged hr hm hact

end

theorem onExpiry_some (due : Nat) (f : State → State) (s : State) : onExpiry (some due) f s = f (s.atTime due) := rfl

/-! ## TRAVEL and its timer (R28, R29) -/

theorem takeTravel_eq (v : Int) (s : State) :
    takeTravel v s =
      (let taken := { s with drive := { s.drive with
        requested := max (-3000) (min 11000 v), requestTimer := s.startMs s.setup.requestTimeout, stale := false } }
      (if s.drive.stale then notice .requestStale false taken else taken,
        [if v < -3000 ∨ 11000 < v then 0x01 else 0x00])) := by
  have kept : (max (-3000) (min 11000 v) = v) = ¬ (v < -3000 ∨ 11000 < v) := propext (by omega)
  have code : (if ¬ (v < -3000 ∨ 11000 < v) then Result.ok else Result.clamped).code
      = if v < -3000 ∨ 11000 < v then 0x01 else 0x00 := by rw [ite_not]; split <;> rfl
  cases h : s.drive.stale <;>
    simp only [takeTravel, answer, setRequestStale, clamp_eq (by decide : (-3000 : Int) ≤ 11000), h, kept, code, if_true,
      Bool.false_eq_true, if_false]

/-- Settles O27: TRAVEL's step and the timer's, by the stale flag. -/
theorem travelStoresTheRequestedSpeed : Obligations.TravelStoresTheRequestedSpeed := by
  unfold Obligations.TravelStoresTheRequestedSpeed
  refine ⟨fun s tag hi lo hr => ?_, fun s due hdue => ?_⟩
  · intro v stored taken
    have judged : exec (.travel tag [hi, lo]) s =
        finish (takeRequest 0x03 tag [hi, lo] (guarded true (notInStandby (takeTravel v))) s) := rfl
    refine ⟨exec_busy rfl rfl (by decide) hr, exec_refusedAsleep rfl rfl (by decide) hr, fun hs hb => ?_⟩
    rw [judged]
    exact finish_judged hr hs ((notInStandby_taken (s := s.holding 0x03 tag [hi, lo]) hb).trans (takeTravel_eq v _))
  · intro expired
    have expiry : exec .requestTimerExpiry s = .next (onExpiry s.drive.requestTimer requestExpired s).sent := rfl
    rw [expiry, hdue, onExpiry_some, requestExpired]
    cases h : s.drive.stale
    · simp only [State.atTime, h, Bool.false_eq_true, if_false]
      rfl
    · simp only [State.atTime, h, if_true, expired]

/-! ## The drive period (R30, R37 to R43) -/

theorem exec_drivePeriodExpiry {s : State} {due : Nat} (h : s.drive.periodTimer = some due) :
    exec .drivePeriodExpiry s = .next (drivePeriod (s.atTime due)).sent := by
  have expiry : exec .drivePeriodExpiry s = .next (onExpiry s.drive.periodTimer drivePeriod s).sent := rfl
  rw [expiry, h, onExpiry_some]

theorem drivePeriod_travels {s : State} (h : s.mc.mode.travels = true) :
    drivePeriod s = { s with drive := { driveStages s s.drive with periodTimer := s.startMs 10 } } := by
  rw [drivePeriod, if_pos h]

theorem drivePeriod_rests {s : State} (h : s.mc.mode.travels = false) :
    drivePeriod s = { s with drive := { s.drive.zeroed with periodTimer := s.startMs 10 } } := by
  rw [drivePeriod, h, if_neg Bool.false_ne_true]

section
variable {s : State} {d : Drive}

theorem bne_eq_decide_ne (a b : Int) : (a != b) = decide (a ≠ b) := by rw [bne, decide_not]; rfl

theorem commandStage_forward (h : 0 < d.ramped) :
    commandStage s d = (let sum := (d.ramped * 1000).tdiv s.setup.vFull + d.correction
      { d with dispCmd := max 0 (min 1000 sum), clampFlag := decide (max 0 (min 1000 sum) ≠ sum) }) := by
  simp only [commandStage, if_pos h, clamp_eq (by decide : (0 : Int) ≤ 1000), bne_eq_decide_ne]
  rfl

theorem commandStage_reverse (h : d.ramped < 0) :
    commandStage s d = (let sum := (d.ramped * 1000).tdiv s.setup.vFull + d.correction
      { d with dispCmd := max (-1000) (min 0 sum), clampFlag := decide (max (-1000) (min 0 sum) ≠ sum) }) := by
  simp only [commandStage, if_neg h.not_gt, if_pos h, clamp_eq (by decide : (-1000 : Int) ≤ 0), bne_eq_decide_ne]
  rfl

theorem commandStage_still (h : d.ramped = 0) :
    commandStage s d = (let sum := (d.ramped * 1000).tdiv s.setup.vFull + d.correction
      { d with dispCmd := 0, clampFlag := decide (0 ≠ sum) }) := by
  simp only [commandStage, feedForward, divZ, h, lt_irrefl, if_false, bne_eq_decide_ne]

/-- The displacement command never opposes the ramped target. -/
theorem commandStage_mul_ramped (s : State) (d : Drive) : 0 ≤ (commandStage s d).dispCmd * d.ramped := by
  rcases lt_trichotomy d.ramped 0 with h | h | h
  · rw [commandStage_reverse h]
    exact mul_nonneg_of_nonpos_of_nonpos (max_le (by decide) (min_le_left _ _)) h.le
  · rw [h, mul_zero]
  · rw [commandStage_forward h]
    exact mul_nonneg (le_max_left _ _) h.le

theorem outputStage_eq (s : State) (d : Drive) :
    outputStage s d = { d with dispOut := (d.dispCmd * s.arb.consumers.drive.share).tdiv 1000 } := rfl

end

/-- Settles O28: the period by the mode, each stage by its cases. -/
theorem drivePeriodRunsTheStagesOrRests : Obligations.DrivePeriodRunsTheStagesOrRests := by
  unfold Obligations.DrivePeriodRunsTheStagesOrRests
  refine ⟨fun s due hdue => ?_, fun s d hmax => ?_, fun s d hlo hhi => ?_⟩
  · intro x
    rw [exec_drivePeriodExpiry hdue]
    refine ⟨fun hm => ?_, fun hm => ?_⟩
    · rw [drivePeriod_rests (by rcases hm with h | h <;> exact congrArg Mode.travels h)]
      rfl
    · rw [drivePeriod_travels (by rcases hm with h | h | h | h <;> exact congrArg Mode.travels h)]
      rfl
  · intro c m sum
    refine ⟨fun h0 hs => if_pos ⟨h0, hs⟩, fun h hf => ?_, fun h hs hf => ?_, fun h => commandStage_forward h,
      fun h => commandStage_reverse h, fun h => commandStage_still h, commandStage_mul_ramped s d⟩
    · exact (if_neg h).trans (if_pos hf)
    · have going : ¬ (driveShare s < 1000 ∨ d.clampFlag = true) := by
        rw [hf, driveShare]
        simpa using hs
      exact (if_neg h).trans ((if_neg going).trans (congrArg (fun v => { d with correction := v }) (clamp_eq (by omega) _)))
  · intro a b working other o
    refine ⟨fun h => if_pos h, fun h hlt => (if_neg h).trans (if_pos hlt), fun h hle => ?_, rfl, abs_scaled_le _ hlo hhi,
      scaled_mul_nonneg _ hlo, most_eq_max _ _, most_eq_max _ _⟩
    refine (if_neg h).trans ((if_neg hle.not_gt).trans ?_)
    rw [least_eq_min, mag_eq_abs]
    rfl

/-! ## Reversals and the dwell (R32 to R35) -/

theorem headingOf_pos {x : Int} (h : 0 < x) : headingOf x = some .forward := if_pos h

theorem headingOf_neg {x : Int} (h : x < 0) : headingOf x = some .reverse := by
  rw [headingOf, if_neg h.not_gt, if_pos h]

/-- A reversal: a direction of travel and a capped request of the other sign. -/
theorem isReversal_iff (d : Option Heading) (x : Int) :
    isReversal d x = true ↔ (d = some .forward ∧ x < 0) ∨ (d = some .reverse ∧ 0 < x) := by
  cases d with
  | none => simp [isReversal]
  | some a =>
    rcases lt_trichotomy x 0 with h | rfl | h
    · cases a <;> simp [isReversal, headingOf_neg h, h, h.not_gt]
    · simp [isReversal, headingOf]
    · cases a <;> simp [isReversal, headingOf_pos h, h, h.not_gt]

section
variable {s : State} {d : Drive}

theorem directionStage_along (h : isReversal (travelDirection s) (cappedRequest s) = false) :
    directionStage s d = { d with
      target := cappedRequest s, dwell := if cappedRequest s = 0 ∧ s.stopped = true then d.dwell else none } := by
  rw [directionStage, h]
  rfl

variable (h : isReversal (travelDirection s) (cappedRequest s) = true)
include h

theorem directionStage_moving (hs : s.stopped = false) :
    directionStage s d = { d with target := 0, dwell := none } := by
  rw [directionStage, h, if_pos rfl, hs]
  rfl

theorem directionStage_dwelling (hs : s.stopped = true) (hd : d.dwell ≠ none) :
    directionStage s d = { d with target := 0 } := by
  obtain ⟨w, hw⟩ := Option.ne_none_iff_exists'.1 hd
  rw [directionStage, h, if_pos rfl, if_pos hs]
  simp only [hw]

theorem directionStage_slowing (hs : s.stopped = true) (hd : d.dwell = none) (hr : d.ramped ≠ 0) :
    directionStage s d = { d with target := 0 } := by
  rw [directionStage, h, if_pos rfl, if_pos hs]
  simp only [hd, if_neg hr]

theorem directionStage_turns {toward : Heading} (ht : headingOf (cappedRequest s) = some toward) (hs : s.stopped = true)
    (hd : d.dwell = none) (hr : d.ramped = 0) :
    directionStage s d =
      if s.setup.dwell = 0 then { d with target := cappedRequest s, held := some toward }
      else { d with target := 0, dwell := some ⟨toward, s.clock + s.setup.dwell.toNat * 1000⟩ } := by
  rw [directionStage, h, if_pos rfl, if_pos hs]
  simp only [hd, if_pos hr, ht]
  rfl

end

/-- Settles O29: the direction stage by its cases, and the dwell timer's expiry. -/
theorem reversalWaitsForStandstillAndDwell : Obligations.ReversalWaitsForStandstillAndDwell := by
  unfold Obligations.ReversalWaitsForStandstillAndDwell
  refine ⟨fun s hcap hrev => ?_, fun s w hw => ?_⟩
  · intro capped opposed towards moving d
    have hcapped : cappedRequest s = capped := clamp_eq (by omega) _
    have hd : travelDirection s = d := rfl
    have reversal : isReversal (travelDirection s) (cappedRequest s) = true ↔ opposed d := by
      rw [hd, hcapped]
      exact isReversal_iff d capped
    have hto : opposed d → headingOf (cappedRequest s) = some towards := by
      rw [hcapped]
      rintro (⟨-, h⟩ | ⟨-, h⟩)
      · exact (headingOf_neg h).trans (congrArg some (if_neg h.not_gt).symm)
      · exact (headingOf_pos h).trans (congrArg some (if_pos h).symm)
    refine ⟨fun h => ?_, fun h hs => directionStage_moving (reversal.2 h) hs,
      fun h hs hd => directionStage_dwelling (reversal.2 h) hs hd,
      fun h hs hd hr => directionStage_slowing (reversal.2 h) hs hd hr, fun h hs hd hr hw => ?_, fun h hs hd hr hw => ?_⟩
    · rw [directionStage_along (Bool.eq_false_iff.2 (mt reversal.1 h)), hcapped]
    · rw [directionStage_turns (reversal.2 h) (hto h) hs hd hr, if_neg hw]
    · rw [directionStage_turns (reversal.2 h) (hto h) hs hd hr, if_pos hw, hcapped]
  · have expiry : exec .dwellTimerExpiry s = .next (State.sent (match s.drive.dwell with
        | none => s
        | some w => dwellExpired w.toward (s.atTime w.due))) := rfl
    rw [expiry, hw]
    rfl

/-! ## Overspeed (R42) -/

/-- Settles O31: the test by mode and flag. -/
theorem overspeedHasATenthOfHysteresis : Obligations.OverspeedHasATenthOfHysteresis := by
  unfold Obligations.OverspeedHasATenthOfHysteresis
  intro s x above below flagged
  have tested (h : s.mc.mode = .transport ∨ s.mc.mode = .work ∨ s.mc.mode = .stowing) :
      overspeedTest s = if s.drive.overspeed then (if -s.reverseLimit ≤ x ∧ x ≤ s.cap then setOverspeed false s else s)
        else if above < x ∨ x < below then setOverspeed true s else s := by
    rcases h with h | h | h <;> simp only [overspeedTest, h] <;> rfl
  refine ⟨fun h => ?_, fun h => ?_, ?_, ?_⟩
  · rw [tested h]
    refine ⟨fun hf hx => ?_, fun hf hx => ?_, fun hf hlo hhi => ?_, fun hf hx => ?_⟩
    · rw [hf, if_neg Bool.false_ne_true, if_pos hx]
      rfl
    · rw [hf, if_neg Bool.false_ne_true, if_neg hx]
    · rw [hf, if_pos rfl, if_pos ⟨hlo, hhi⟩]
      rfl
    · rw [hf, if_pos rfl, if_neg (by omega)]
  · unfold overspeedTest
    cases hm : s.mc.mode <;> simp_all
  · unfold State.cap
    cases s.mc.mode <;> simp only [least_eq_min]
  · unfold State.reverseLimit
    cases s.mc.mode <;> rfl

/-! ## What the blocks' operations leave alone -/

/-- Everything that no operation of the blocks writes, but a wheel gate, a request or a timer's expiry of their own:
the pins, the setup, the pulse capture, the time, the free values and the waiting commands. -/
structure SameShell (b x : State) : Prop where
  pins : x.pins = b.pins
  setup : x.setup = b.setup
  pcu : x.pcu = b.pcu
  clock : x.clock = b.clock
  free : x.free = b.free
  pending : x.pending = b.pending

theorem SameShell.refl (s : State) : SameShell s s := ⟨rfl, rfl, rfl, rfl, rfl, rfl⟩

/-- A property that says nothing of Mode Control, the blocks that act, the conditions and the reports. -/
structure Inner (P : State → Prop) : Prop where
  mc : ∀ s m, P s → P { s with mc := m }
  drive : ∀ s d, P s → P { s with drive := d }
  spray : ∀ s p, P s → P { s with spray := p }
  brush : ∀ s b, P s → P { s with brush := b }
  arms : ∀ s a, P s → P { s with arms := a }
  sensors : ∀ s x, P s → P { s with sensors := x }
  arb : ∀ s a, P s → P { s with arb := a }
  cond : ∀ s c, P s → P { s with cond := c }
  post : ∀ s r, P s → P (s.post r)

section
variable {P : State → Prop} (h : Inner P)
include h

theorem Inner.clearOverspeed {s : State} (hs : P s) : P (clearOverspeed s) := by
  unfold Machine.clearOverspeed setOverspeed notice Machine.changeRecord
  dsimp only
  split
  · split
    · exact h.drive _ _ hs
    · exact h.arb _ _ (h.cond _ _ (h.post _ _ (h.drive _ _ hs)))
  · exact hs

theorem Inner.loose : Loose P where
  drive := fun s d _ => h.drive s d
  drivePeriod := fun _ hs => h.drive _ _ hs
  spray := h.spray
  brush := h.brush
  arms := h.arms
  sensors := h.sensors
  arb := h.arb
  cond := h.cond
  travel := fun s m _ hs => by
    have moved := h.drive _ { s.drive with brk := true } (h.post _ (.mode m m.target) (h.mc _ (takeMode m s).mc hs))
    unfold driveEnterTravel
    dsimp only
    split
    · exact h.clearOverspeed moved
    · exact moved
  park := fun _ _ hs => h.clearOverspeed (h.drive _ _ (h.post _ _ (h.mc _ _ hs)))
  post := h.post

theorem Inner.blocks : Blocks P := h.loose.blocks

end

theorem inner_sameShell (b : State) : Inner (SameShell b) where
  mc := fun _ _ hs => { hs with }
  drive := fun _ _ hs => { hs with }
  spray := fun _ _ hs => { hs with }
  brush := fun _ _ hs => { hs with }
  arms := fun _ _ hs => { hs with }
  sensors := fun _ _ hs => { hs with }
  arb := fun _ _ hs => { hs with }
  cond := fun _ _ hs => { hs with }
  post := fun _ _ hs => { hs with }

/-- The recipes as they were, beside the shell. -/
theorem inner_sameRecipes (r : Recipes) : Inner fun x => x.recipes = r where
  mc := fun _ _ hs => hs
  drive := fun _ _ hs => hs
  spray := fun _ _ hs => hs
  brush := fun _ _ hs => hs
  arms := fun _ _ hs => hs
  sensors := fun _ _ hs => hs
  arb := fun _ _ hs => hs
  cond := fun _ _ hs => hs
  post := fun _ _ hs => hs

/-! ## The odometer update (R19, R140, R141) -/

theorem recipeChange_recipes (c : RecipeCause) (s : State) : (recipeChange c s).recipes = s.recipes :=
  (inner_sameRecipes s.recipes).blocks.recipeChange rfl

theorem odometerUpdate_shell (s : State) : SameShell s (odometerUpdate s) :=
  (inner_sameShell s).blocks.odometerUpdate (fun _ _ hs => { hs with }) (fun _ _ hs => { hs with })
    (fun _ _ hs => { hs with }) (SameShell.refl s)

/-- An update leaves the reference at the odometer it handled. -/
theorem odometerUpdate_reference (s : State) : (odometerUpdate s).recipes.reference = s.pcu.odometer := by
  unfold odometerUpdate
  split
  · rfl
  · unfold forwardUpdate
    dsimp only
    split
    · rw [recipeChange_recipes]
    · rfl

/-- With an empty zone queue an update reaches the reference alone. -/
theorem odometerUpdate_of_empty {s : State} (h : s.recipes.zones = []) :
    odometerUpdate s = { s with recipes := { s.recipes with reference := s.pcu.odometer } } := by
  have kept : s.putZones [] = s := by rw [State.putZones, ← h]
  unfold odometerUpdate reverseUpdate forwardUpdate dueZones restZones
  rw [h]
  split
  · exact congrArg (fun x : State => { x with recipes := { x.recipes with reference := s.pcu.odometer } }) kept
  · exact congrArg (fun x : State => { x with recipes := { x.recipes with reference := s.pcu.odometer } }) kept

/-! ## SET_ODOMETER (R25) -/

/-- Settles O26: SET_ODOMETER by the mode and the zone queue. -/
theorem setOdometerNeedsAnEmptyZoneQueue : Obligations.SetOdometerNeedsAnEmptyZoneQueue := by
  unfold Obligations.SetOdometerNeedsAnEmptyZoneQueue
  intro s tag a b c d hr
  have judged : exec (.setOdometer tag [a, b, c, d]) s =
      finish (takeRequest 0x16 tag [a, b, c, d] (guarded true (notInStandby (takeSetOdometer (u32 a b c d)))) s) := rfl
  refine ⟨exec_busy rfl rfl (by decide) hr, exec_refusedAsleep rfl rfl (by decide) hr, fun hs hb hz => ?_,
    fun hs hb hz => ?_⟩
  · rw [judged]
    refine finish_judged_answered hr hs ((notInStandby_taken (s := s.holding 0x16 tag [a, b, c, d]) hb).trans ?_)
    exact if_neg (mt List.isEmpty_iff.1 hz)
  · rw [judged]
    refine (finish_judged hr hs ((notInStandby_taken (s := s.holding 0x16 tag [a, b, c, d]) hb).trans
      (if_pos (List.isEmpty_iff.2 hz)))).trans ?_
    rw [odometerUpdate_of_empty (by exact hz)]
    rfl

/-! ## The brush gate and the spin actions it completes (R23, R86, R87) -/

theorem brushRpmOf_eq (k : Nat) (ppr : Int) : brushRpmOf ppr k = min 300 ((k : Int) * 600 / ppr) := by
  rw [brushRpmOf, least_eq_min, divZ, Int.tdiv_eq_ediv_of_nonneg (by positivity)]

section
variable {s : State} {u : BrushUnit}

theorem armBrushSample_spinningUp (h : (s.armOf u).activity = .spinningUp) :
    armBrushSample u s =
      if s.setup.stopRpm u ≤ s.pcu.brushRpm.get u then runPlanner u (setSpin u .on s) else s := by
  unfold armBrushSample
  rw [h]

theorem armBrushSample_spinningDown (h : (s.armOf u).activity = .spinningDown) :
    armBrushSample u s =
      if (s.brushOf u).c = 0 ∧ s.pcu.brushRpm.get u = 0 then spinDownDone u s else s := by
  unfold armBrushSample
  rw [h]

theorem armBrushSample_other (h1 : (s.armOf u).activity ≠ .spinningUp) (h2 : (s.armOf u).activity ≠ .spinningDown) :
    armBrushSample u s = s := by
  unfold armBrushSample
  cases h : (s.armOf u).activity with
  | spinningUp => exact absurd h h1
  | spinningDown => exact absurd h h2
  | _ => rfl

end

/-- Settles O25: the gate's record, then a unit's activity by its cases. -/
theorem brushGateMeasuresTheBrushes : Obligations.BrushGateMeasuresTheBrushes := by
  unfold Obligations.BrushGateMeasuresTheBrushes
  refine ⟨fun s due hdue _ => ?_, fun s u => ?_⟩
  · intro gated
    have expiry : exec .brushGateClose s = .next (onExpiry s.pcu.brushGateTimer brushGateOver s).sent := rfl
    have rpms : s.pcu.brushCount.map (brushRpmOf s.setup.ppr) = gated.pcu.brushRpm := by
      rw [PerUnit.map, brushRpmOf_eq, brushRpmOf_eq, brushRpmOf_eq]
    have gate : brushGateOver (s.atTime due) =
        forUnits armBrushSample (forUnits brushSample { gated with pcu := { gated.pcu with
          brushRpm := s.pcu.brushCount.map (brushRpmOf s.setup.ppr) } }) := rfl
    rw [expiry, hdue, onExpiry_some, gate, rpms]
  · intro a rpm ended
    refine ⟨fun ha h => ?_, fun ha h => ?_, fun ha h => ?_, fun ha h => ?_, armBrushSample_other, fun due hdue => ?_⟩
    · rw [armBrushSample_spinningUp ha, if_pos h]
    · rw [armBrushSample_spinningUp ha, if_neg (not_le.2 h)]
    · rw [armBrushSample_spinningDown ha, if_pos h]
      rfl
    · rw [armBrushSample_spinningDown ha, if_neg h]
    · have expiry : exec (.spinDownTimerExpiry u) s =
          .next (onExpiry (s.armOf u).spinDownTimer (spinDownExpired u) s).sent := rfl
      rw [expiry, hdue, onExpiry_some]
      refine ⟨fun ha => ?_, fun ha => ?_⟩
      · rw [spinDownExpired, if_pos (by exact ha)]
        rfl
      · rw [spinDownExpired, if_neg (by exact ha)]
        rfl

/-! ## The wheel gate (R17 to R22) -/

theorem wheelTest_partner_excluded {w partner : Wheel} (h : w.included = true) (hp : partner.included = false) :
    wheelTest w partner = (w, .none) := by
  rw [wheelTest, h, hp]
  rfl

theorem wheelTest_included {w partner : Wheel} (h : w.included = true) (hp : partner.included = true) :
    wheelTest w partner = excludeTest w partner := by
  rw [wheelTest, h, hp]
  rfl

theorem wheelTest_excluded {w partner : Wheel} (h : w.included = false) :
    wheelTest w partner = readmitTest w := by
  rw [wheelTest, h]
  rfl

@[simp] theorem wheelTest_count (w partner : Wheel) : (wheelTest w partner).1.count = w.count := by
  unfold wheelTest readmitTest excludeTest
  split_ifs <;> rfl

/-- No distance is lost: the whole millimetres and the remainder make up the total. -/
theorem addTravel_remainder (ppm increment : Int) (p : PulseCapture) :
    (addTravel ppm increment p).remainder = (p.remainder + increment).tmod (2 * ppm) := by
  have total := Int.tmod_add_mul_tdiv (p.remainder + increment) (2 * ppm)
  show p.remainder + increment - (p.remainder + increment).tdiv (2 * ppm) * (2 * ppm) = _
  rw [mul_comm]
  omega

/-- The remainder of a division toward zero has the sign of the number divided. -/
theorem tmod_mul_nonneg (a b : Int) : 0 ≤ a.tmod b * a := by
  rcases le_total 0 a with ha | ha
  · exact mul_nonneg (Int.tmod_nonneg b ha) ha
  · have neg : (-a).tmod b = -(a.tmod b) := Int.neg_tmod a b
    have nonneg := Int.tmod_nonneg b (neg_nonneg.2 ha)
    exact mul_nonneg_of_nonpos_of_nonpos (by omega) ha

theorem abs_tmod_lt (a : Int) {b : Int} (h : 0 < b) : |a.tmod b| < b := by
  have bound := Int.natAbs_tmod a b
  rw [Int.abs_eq_natAbs, bound]
  have := Nat.mod_lt a.natAbs (Int.natAbs_pos.2 h.ne')
  omega

/-- The record that the close of a gate leaves, given the two tested wheels. -/
theorem closeGate_eq (ppm : Int) (wl wr : Wheel) (p : PulseCapture) :
    closeGate ppm wl wr p =
      (let vl := (wl.count * 50000).tdiv ppm
       let vr := (wr.count * 50000).tdiv ppm
       let plain := if wl.included && wr.included then (vl + vr).tdiv 2 else if wl.included then vl else vr
       let sample := max (-32768) (min 32767 plain)
       let increment := if wl.included && wr.included then (wl.count + wr.count) * 1000
         else if wl.included then 2 * wl.count * 1000 else 2 * wr.count * 1000
       let total := p.remainder + increment
       let whole := total.tdiv (2 * ppm)
       { p with
         wl := { wl with count := 0, speed := vl }
         wr := { wr with count := 0, speed := vr }
         sample := sample
         direction := if 50 ≤ sample then .forward else if sample ≤ -50 then .reverse else .still
         odometer := p.odometer + BitVec.ofInt 32 whole
         remainder := total - whole * (2 * ppm) }) := by
  cases hl : wl.included <;> cases hr : wr.included <;>
    simp only [closeGate, addTravel, incrementOf, sampleOf, directionOf, wheelSpeed, divZ, hl, hr, Bool.true_and,
      Bool.false_and, if_true, Bool.false_eq_true, if_false, clamp_eq (by decide : (-32768 : Int) ≤ 32767)]

theorem parkStopTest_eq (s : State) :
    parkStopTest s =
      if s.mc.mode = .parking then { s with mc := { s.mc with parkStopTimer :=
        if |s.pcu.sample| < 50 then (if s.mc.parkStopTimer = none then some (s.clock + 500000) else s.mc.parkStopTimer)
        else none } }
      else s := by
  simp only [parkStopTest, State.stopped, mag_eq_abs, decide_eq_true_eq, Option.isNone_iff_eq_none]
  rfl

/-- Settles O24: the wheels' tests by their cases, the gate's record, and the division of the travel. -/
theorem wheelGateFormsSpeedAndDistance : Obligations.WheelGateFormsSpeedAndDistance := by
  unfold Obligations.WheelGateFormsSpeedAndDistance
  refine ⟨fun w partner => ⟨wheelTest_partner_excluded, fun hw hp => ⟨fun hc => ⟨fun h => ?_, fun h => ?_⟩, fun hc => ?_⟩,
    fun hw => ⟨fun hc => ?_, fun hc h => ?_, fun hc h => ?_⟩⟩, fun s due hdue => ?_, fun ppm increment p hppm => ?_⟩
  · rw [wheelTest_included hw hp, excludeTest, mag_eq_abs, if_pos hc, if_neg (by omega)]
  · rw [wheelTest_included hw hp, excludeTest, mag_eq_abs, if_pos hc, if_pos h]
  · rw [wheelTest_included hw hp, excludeTest, mag_eq_abs, if_neg hc]
  · rw [wheelTest_excluded hw, readmitTest, if_pos hc]
  · rw [wheelTest_excluded hw, readmitTest, if_neg hc, if_neg (by omega)]
  · rw [wheelTest_excluded hw, readmitTest, if_neg hc, if_pos h]
  · intro ppm wl wr vl vr plain sample increment total whole gated told stands sampled t
    have expiry : exec .wheelGateClose s = .next (onExpiry s.pcu.wheelGateTimer wheelGateOver s).sent := rfl
    have closed : { s.atTime due with pcu := { closeGate ppm wl wr s.pcu with
        wheelGateTimer := (s.atTime due).startMs 20 } } = gated := by
      rw [closeGate_eq, wheelTest_count, wheelTest_count]
      rfl
    have htold : ∀ news x, wheelNotice news x = told news x := fun news x => by cases news <;> rfl
    have hstands : ∀ x, parkStopTest x = stands x := parkStopTest_eq
    have delivered : deliverSample (told (wheelTest s.pcu.wr s.pcu.wl).2 (told (wheelTest s.pcu.wl s.pcu.wr).2 gated))
        = t := congrArg odometerUpdate (hstands _)
    have gateIs : wheelGateOver (s.atTime due) = t := by
      rw [← delivered, ← htold, ← htold, ← closed]
      rfl
    have shell : SameShell gated t := by
      rw [← gateIs, ← closed]
      have inner := (inner_sameShell { s.atTime due with pcu := { closeGate ppm wl wr s.pcu with
        wheelGateTimer := (s.atTime due).startMs 20 } }).blocks
      exact inner.deliverSample (fun _ _ hs => { hs with }) (fun _ _ hs => { hs with }) (fun _ _ hs => { hs with })
        (fun _ _ hs => { hs with }) (inner.wheelNotice (inner.wheelNotice (SameShell.refl _)))
    refine ⟨?_, shell.pcu, ?_, shell.clock, shell.setup, shell.pins⟩
    · rw [expiry, hdue, onExpiry_some, gateIs]
    · exact (odometerUpdate_reference _).trans (congrArg PulseCapture.odometer (odometerUpdate_shell _).pcu.symm)
  · have hpos : 0 < 2 * ppm := by omega
    refine ⟨(p.remainder + increment).tdiv (2 * ppm), rfl, ?_, ?_, ?_, rfl, rfl, rfl⟩
    · exact add_sub_cancel _ _
    · rw [addTravel_remainder]
      exact abs_tmod_lt _ hpos
    · rw [addTravel_remainder]
      exact tmod_mul_nonneg _ _

end Sys2Proof.Machine
end

section
/-! The Brush Speed Unit and the pace tables: selection and target (R53 to R55), ramp (R57 to R59), output (R61 to R63),
stall and lag (R64, R65), the notices of spin and height (R56), PACE_WRITE and PACE_READ (R50, R51). -/

namespace Sys2Proof.Machine

/-! ## Records written twice, or as they stand -/

@[simp] theorem State.putBrush_putBrush (s : State) (u : BrushUnit) (a b : BrushRec) :
    (s.putBrush u a).putBrush u b = s.putBrush u b := by
  simp [State.putBrush]

@[simp] theorem State.putBrush_brushOf_self (s : State) (u : BrushUnit) : s.putBrush u (s.brushOf u) = s := by
  simp [State.putBrush, State.brushOf]

/-! ## The output (R62, R63) -/

theorem outputNotice_spray (u : BrushUnit) (before after : Int) (s : State) :
    outputNotice u before after s = { s with spray := (outputNotice u before after s).spray } := by
  unfold outputNotice
  split <;> rfl

section
variable (u v : BrushUnit) (before after : Int) (s : State)

@[simp] theorem outputNotice_brush : (outputNotice u before after s).brush = s.brush := by
  rw [outputNotice_spray]

@[simp] theorem outputNotice_cond : (outputNotice u before after s).cond = s.cond := by
  rw [outputNotice_spray]

@[simp] theorem outputNotice_brushOf : (outputNotice u before after s).brushOf v = s.brushOf v :=
  congrArg (fun b : Brushes => b.units.get v) (outputNotice_brush u before after s)

end

section
variable (u : BrushUnit) (flag : Bool) (s : State)

@[simp] theorem setStarved_brushOf : (setStarved u flag s).brushOf u = { s.brushOf u with starved := flag } := by
  unfold setStarved
  split
  · next h => rw [h]
  · simp

theorem setStarved_brushOf_other {v : BrushUnit} (h : v ≠ u) : (setStarved u flag s).brushOf v = s.brushOf v := by
  unfold setStarved
  split
  · rfl
  · rw [notice_brushOf, State.brushOf_putBrush_other _ _ h]

@[simp] theorem setStarved_setup : (setStarved u flag s).setup = s.setup := by
  unfold setStarved
  split
  · rfl
  · simp

theorem setStarved_same (h : flag = (s.brushOf u).starved) : setStarved u flag s = s := if_pos h

theorem setStarved_changed (h : flag ≠ (s.brushOf u).starved) :
    setStarved u flag s = notice (.brushStarved u) flag (s.putBrush u { s.brushOf u with starved := flag }) := if_neg h

end

/-- The command scaled by the share (R62). -/
def scaledCommand (u : BrushUnit) (s : State) : Int := ((s.brushOf u).c * brushShare s u).tdiv 1000

/-- The output of the scaled command: none where it would starve the brush. -/
def outOf (u : BrushUnit) (s : State) : Int :=
  if 0 < scaledCommand u s ∧ scaledCommand u s < s.setup.stopRpm u then 0 else scaledCommand u s

/-- The starved flag of the scaled command. -/
def starvedOf (u : BrushUnit) (s : State) : Bool :=
  if 0 < scaledCommand u s ∧ scaledCommand u s < s.setup.stopRpm u then true
  else if (s.brushOf u).c = 0 then false else if scaledCommand u s = 0 then (s.brushOf u).starved else false

/-- A unit's record after its output update. -/
def outputRecord (u : BrushUnit) (s : State) : BrushRec :=
  { s.brushOf u with
    starved := starvedOf u s
    out := outOf u s
    output := min 1000 ((outOf u s * 1000).tdiv (s.setup.rpmFull u))
    stallTimer := if outOf u s < s.setup.startRpm u then none else (s.brushOf u).stallTimer }

/-- The output update: the starved flag with its notice, the unit's record, the water's notice. -/
theorem updateOutput_eq (u : BrushUnit) (s : State) :
    updateOutput u s =
      outputNotice u (s.brushOf u).out (outOf u s) ((setStarved u (starvedOf u s) s).putBrush u (outputRecord u s)) := by
  have out : (if decide (0 < scaledCommand u s ∧ scaledCommand u s < s.setup.stopRpm u) then 0 else scaledCommand u s)
      = outOf u s := by
    simp only [decide_eq_true_eq]
    rfl
  have starved : (if decide (0 < scaledCommand u s ∧ scaledCommand u s < s.setup.stopRpm u) then true
      else if (s.brushOf u).c = 0 then false else if scaledCommand u s = 0 then (s.brushOf u).starved else false)
      = starvedOf u s := by
    simp only [decide_eq_true_eq]
    rfl
  show driveOutput u (if decide (0 < scaledCommand u s ∧ scaledCommand u s < s.setup.stopRpm u) then 0
    else scaledCommand u s) (setStarved u (if decide (0 < scaledCommand u s ∧ scaledCommand u s < s.setup.stopRpm u)
      then true else if (s.brushOf u).c = 0 then false else if scaledCommand u s = 0 then (s.brushOf u).starved
      else false) s) = _
  rw [out, starved]
  simp only [driveOutput, setStarved_brushOf, setStarved_setup, least_eq_min, divZ, outputRecord]

@[simp] theorem updateOutput_brushOf (u : BrushUnit) (s : State) : (updateOutput u s).brushOf u = outputRecord u s := by
  rw [updateOutput_eq, outputNotice_brushOf, State.brushOf_putBrush]

theorem updateOutput_brushOf_other {u v : BrushUnit} (s : State) (h : v ≠ u) :
    (updateOutput u s).brushOf v = s.brushOf v := by
  rw [updateOutput_eq, outputNotice_brushOf, State.brushOf_putBrush_other _ _ h, setStarved_brushOf_other _ _ _ h]

theorem updateOutput_cond (u : BrushUnit) (s : State) :
    (updateOutput u s).cond = (setStarved u (starvedOf u s) s).cond := by
  rw [updateOutput_eq, outputNotice_cond, State.putBrush_cond]

/-- With a share of 0 to 1000 the output lies between 0 and the command. -/
theorem outOf_bounds {u : BrushUnit} {s : State} (hc : 0 ≤ (s.brushOf u).c) (h0 : 0 ≤ brushShare s u)
    (h1 : brushShare s u ≤ 1000) : 0 ≤ outOf u s ∧ outOf u s ≤ (s.brushOf u).c := by
  have nonneg : 0 ≤ scaledCommand u s := Int.tdiv_nonneg (mul_nonneg hc h0) (by decide)
  have le : scaledCommand u s ≤ (s.brushOf u).c := scaled_le hc h1
  unfold outOf
  split <;> omega

theorem brushesAtRest_iff (s : State) : brushesAtRest s = true ↔ ∀ v, (s.brushOf v).out = 0 := by
  simp only [brushesAtRest, Bool.and_eq_true, beq_iff_eq]
  constructor
  · rintro ⟨⟨hl, hr⟩, hm⟩ (_ | _ | _)
    · exact hl
    · exact hr
    · exact hm
  · exact fun h => ⟨⟨h .l, h .r⟩, h .m⟩

theorem beq_zero_beq_zero_iff (a b : Int) : ((a == 0) == (b == 0)) = true ↔ (a = 0 ↔ b = 0) := by
  by_cases ha : a = 0 <;> by_cases hb : b = 0 <;> simp [ha, hb]

/-- Settles O34: the update by `updateOutput_eq`, and the water's notice by the four cases of the change. -/
theorem brushOutputIsScaledOrStarved : Obligations.BrushOutputIsScaledOrStarved := by
  unfold Obligations.BrushOutputIsScaledOrStarved
  refine ⟨fun s u => ?_, fun s u before => ?_⟩
  · intro b share scaled out starved n
    have hn : n = outputRecord u s := updateOutput_brushOf u s
    have field {α : Type} (f : BrushRec → α) : f n = f (outputRecord u s) := congrArg f hn
    refine ⟨field BrushRec.out, field BrushRec.starved, field BrushRec.output, field BrushRec.stallTimer,
      field BrushRec.c, field BrushRec.t, fun h => ?_, fun h => ?_, fun v hv => updateOutput_brushOf_other s hv, ?_,
      fun hc h0 h1 => outOf_bounds hc h0 h1⟩
    · exact (updateOutput_cond u s).trans ((congrArg State.cond (setStarved_changed u starved s h)).trans (notice_cond _ _ _))
    · exact (updateOutput_cond u s).trans (congrArg State.cond (setStarved_same u starved s h))
    · intro marked
      exact hn ▸ updateOutput_eq u s
  · intro after told
    have told_of {nonzero rest : Bool} (h : ¬ (before = 0 ↔ after = 0)) (hn : (after != 0) = nonzero)
        (hr : (after == 0 && brushesAtRest s) = rest) : outputNotice u before after s =
          told (if rest then PerUnit.const false else s.spray.brushOn.set u nonzero) := by
      rw [outputNotice, if_neg (mt (beq_zero_beq_zero_iff _ _).1 h), hn, hr]
      rfl
    refine ⟨fun h => if_pos ((beq_zero_beq_zero_iff _ _).2 h), fun h0 ha => ?_, fun h0 ha hsome => ?_, fun h0 hall => ?_⟩
    · exact told_of (nonzero := true) (rest := false) (by simp [h0, ha]) (by simp [ha]) (by simp [ha])
    · obtain ⟨v, hv⟩ := hsome
      have moving : brushesAtRest s = false :=
        Bool.eq_false_iff.2 fun h => hv ((brushesAtRest_iff s).1 h v)
      exact told_of (nonzero := false) (rest := false) (by simp [h0, ha]) (by simp [ha]) (by simp [moving])
    · have ha : after = 0 := hall u
      exact told_of (nonzero := false) (rest := true) (by simp [h0, ha]) (by simp [ha])
        (by simp [ha, (brushesAtRest_iff s).2 hall])

/-! ## The command and the ramp (R57 to R61) -/

section
variable {s : State} {u : BrushUnit}

theorem setBrushCommand_same {c : Int} (h : c = (s.brushOf u).c) : setBrushCommand u c s = s := if_pos h

theorem setBrushCommand_changed {c : Int} (h : c ≠ (s.brushOf u).c) :
    setBrushCommand u c s = updateOutput u (s.putBrush u { s.brushOf u with
      c := c, demand := min 2000 ((s.sensor .auxP * c * s.setup.vm u).tdiv 600000) }) := by
  rw [setBrushCommand, if_neg h, brushDemand, least_eq_min, divZ]

/-- A new command leaves the unit's target, ramp timer, spin and height. -/
theorem setBrushCommand_record (c : Int) :
    ((setBrushCommand u c s).brushOf u).c = c ∧ ((setBrushCommand u c s).brushOf u).t = (s.brushOf u).t ∧
    ((setBrushCommand u c s).brushOf u).rampTimer = (s.brushOf u).rampTimer ∧
    ((setBrushCommand u c s).brushOf u).spin = (s.brushOf u).spin ∧
    ((setBrushCommand u c s).brushOf u).heightDown = (s.brushOf u).heightDown := by
  by_cases h : c = (s.brushOf u).c
  · rw [setBrushCommand_same h]
    exact ⟨h.symm, rfl, rfl, rfl, rfl⟩
  · rw [setBrushCommand_changed h, updateOutput_brushOf]
    unfold outputRecord
    rw [State.brushOf_putBrush]
    exact ⟨rfl, rfl, rfl, rfl, rfl⟩

theorem setBrushCommand_setup (c : Int) : (setBrushCommand u c s).setup = s.setup :=
  ((inner_sameShell s).blocks.noticed.setBrushCommand (SameShell.refl s)).setup

theorem settled_iff :
    settled s u = true ↔ (s.brushOf u).c = (s.brushOf u).t ∨
      ((s.brushOf u).c = 0 ∧ (s.brushOf u).t < s.setup.startRpm u) := by
  simp [settled]

theorem dirInterval_needed :
    dirInterval s (neededDir (s.brushOf u)) =
      if (s.brushOf u).c < (s.brushOf u).t then rateInterval s.brush.upRate else rateInterval s.brush.downRate := by
  unfold neededDir
  split <;> rfl

theorem startRamp_timed {ms : Int} (h : dirInterval s (neededDir (s.brushOf u)) = some ms) :
    startRamp u s = s.putBrush u { s.brushOf u with
      rampTimer := some ⟨neededDir (s.brushOf u), s.clock + ms.toNat * 1000⟩ } := by
  simp only [startRamp, h]
  rfl

/-- The value that DIRECT gives the command (R59). -/
def directCommand (u : BrushUnit) (s : State) : Int :=
  if (s.brushOf u).c < (s.brushOf u).t then
    if (s.brushOf u).c = 0 ∧ (s.brushOf u).t < s.setup.startRpm u then 0 else (s.brushOf u).t
  else if (s.brushOf u).t < s.setup.stopRpm u then 0 else (s.brushOf u).t

theorem startRamp_direct (h : dirInterval s (neededDir (s.brushOf u)) = none) :
    startRamp u s = setBrushCommand u (directCommand u s) (s.putBrush u { s.brushOf u with rampTimer := none }) := by
  by_cases rises : (s.brushOf u).c < (s.brushOf u).t
  · have up : neededDir (s.brushOf u) = .up := if_pos rises
    rw [up] at h
    rw [directCommand, if_pos rises]
    simp only [startRamp, up, h]
    rfl
  · have down : neededDir (s.brushOf u) = .down := if_neg rises
    rw [down] at h
    rw [directCommand, if_neg rises]
    simp only [startRamp, down, h]
    rfl

theorem examineRamp_settled (h : settled s u = true) :
    examineRamp u s = s.putBrush u { s.brushOf u with rampTimer := none } := if_pos h

theorem examineRamp_unsettled (h : ¬ settled s u = true) :
    examineRamp u s = if rampRuns s u then s else startRamp u s := if_neg h

/-- A timed ramp runs in the needed direction. -/
theorem rampRuns_iff :
    rampRuns s u = true ↔ (∃ due, (s.brushOf u).rampTimer = some ⟨neededDir (s.brushOf u), due⟩) ∧
      (dirInterval s (neededDir (s.brushOf u))).isSome = true := by
  simp only [rampRuns, Bool.and_eq_true, Option.any_eq_true, beq_iff_eq]
  refine and_congr_left' ⟨?_, ?_⟩
  · rintro ⟨⟨dir, due⟩, hr, rfl⟩
    exact ⟨due, hr⟩
  · rintro ⟨due, hr⟩
    exact ⟨_, hr, rfl⟩

/-- An examination of the ramp leaves the unit's target. -/
theorem examineRamp_t : ((examineRamp u s).brushOf u).t = (s.brushOf u).t := by
  unfold examineRamp
  split
  · rw [setRampTimer, State.brushOf_putBrush]
  · split
    · rfl
    · cases h : dirInterval s (neededDir (s.brushOf u)) with
      | some ms => rw [startRamp_timed h, State.brushOf_putBrush]
      | none =>
        rw [startRamp_direct h]
        refine (setBrushCommand_record _).2.1.trans ?_
        rw [State.brushOf_putBrush]

theorem setTarget_t (t : Int) : ((setTarget u t s).brushOf u).t = t := by
  unfold setTarget
  split
  · next h => exact h.symm
  · rw [examineRamp_t, State.brushOf_putBrush]

end

/-- Settles O33: the expiry's step, the restart by the rate, and the command. -/
theorem brushRampTakesOneStep : Obligations.BrushRampTakesOneStep := by
  unfold Obligations.BrushRampTakesOneStep
  refine ⟨fun s u r hr => ?_, fun s u hne => ?_, fun s u c => ⟨setBrushCommand_same, setBrushCommand_changed⟩⟩
  · intro b down c stepped isSettled
    have hc : rampedCommand (s.atTime r.due) u = c := by
      simp only [rampedCommand, least_eq_min, most_eq_max]
      rfl
    have expiry : exec (.brushRampTimerExpiry u) s =
        .next (onExpiry ((s.brushOf u).rampTimer.map RampTimer.due) (rampExpired u) s).sent := rfl
    have stepping : rampExpired u (s.atTime r.due) = if settled stepped u then stepped else startRamp u stepped :=
      congrArg (fun v => if settled (setBrushCommand u v ((s.atTime r.due).putBrush u { b with rampTimer := none })) u
        then setBrushCommand u v ((s.atTime r.due).putBrush u { b with rampTimer := none })
        else startRamp u (setBrushCommand u v ((s.atTime r.due).putBrush u { b with rampTimer := none }))) hc
    have setup : stepped.setup = s.setup := setBrushCommand_setup _
    have hsettled : settled stepped u = true ↔ isSettled := by
      rw [settled_iff, setup]
    rw [expiry, hr, Option.map_some, onExpiry_some, stepping]
    exact ⟨fun h => by rw [if_pos (hsettled.2 h)], fun h => by rw [if_neg (mt hsettled.1 h)]⟩
  · intro b rises rate timed stopped
    have interval : dirInterval s (neededDir (s.brushOf u)) = rateInterval rate := by
      rw [dirInterval_needed]
      by_cases h : b.c < b.t
      · rw [if_pos h]
        exact congrArg rateInterval (if_pos h).symm
      · rw [if_neg h]
        exact congrArg rateInterval (if_neg h).symm
    have timed_of {ms : Int} (h : rateInterval rate = some ms) : startRamp u s = timed ms.toNat :=
      startRamp_timed (interval.trans h)
    have direct_of (h : rate = 4) : startRamp u s = setBrushCommand u (directCommand u s) stopped :=
      startRamp_direct (interval.trans (congrArg rateInterval h))
    have stays {c : Int} (h : c = (s.brushOf u).c) : setBrushCommand u c stopped = stopped :=
      setBrushCommand_same (by rw [State.brushOf_putBrush]; exact h)
    refine ⟨fun h => timed_of (ms := 500) (congrArg rateInterval h), fun h => timed_of (ms := 200) (congrArg rateInterval h),
      fun h => timed_of (ms := 100) (congrArg rateInterval h), fun h => timed_of (ms := 50) (congrArg rateInterval h),
      fun h hup hc ht => ?_, fun h hup ht => ?_, fun h hup ht => ?_, fun h hup ht => ?_⟩
    all_goals rw [direct_of h, directCommand]
    · rw [if_pos hup, if_pos ⟨hc, ht⟩, stays hc.symm]
    · rw [if_pos hup, if_neg fun h => ht.elim (fun hc => hc h.1) fun hle => not_lt.2 hle h.2]
    · rw [if_neg hup, if_pos ht]
    · rw [if_neg hup, if_neg (not_lt.2 ht)]

/-! ## Selection and target (R53 to R55) -/

section
variable (p : PaceTable) (v : Int)

/-- The rises reach every boundary up to the last one reached, and stop before the next. -/
theorem riseIndex_spec : ∀ (n i : Nat), i < p.count → p.count ≤ i + n →
    i ≤ riseIndex p v n i ∧ riseIndex p v n i < p.count ∧
    (∀ k, i < k → k ≤ riseIndex p v n i → p.bound k ≤ v) ∧
    (riseIndex p v n i + 1 < p.count → v < p.bound (riseIndex p v n i + 1))
  | 0, i, hi, hn => absurd hi (by omega)
  | n + 1, i, hi, hn => by
    rw [riseIndex]
    split
    case isTrue h =>
      obtain ⟨hcount, hv⟩ := h
      obtain ⟨hle, hlt, hrisen, hstop⟩ := riseIndex_spec n (i + 1) hcount (by omega)
      refine ⟨by omega, hlt, fun k hk hkj => ?_, hstop⟩
      obtain rfl | hk : k = i + 1 ∨ i + 1 < k := by omega
      · exact hv
      · exact hrisen k hk hkj
    case isFalse h =>
      exact ⟨le_rfl, hi, fun k hk hki => absurd hk (by omega), fun hcount => not_le.1 fun hv => h ⟨hcount, hv⟩⟩

/-- The falls leave every segment that the speed has left. -/
theorem fallIndex_spec : ∀ i : Nat,
    fallIndex p v i ≤ i ∧ (0 < fallIndex p v i → p.bound (fallIndex p v i) - p.hysteresis ≤ v) ∧
    (∀ k, fallIndex p v i < k → k ≤ i → v < p.bound k - p.hysteresis)
  | 0 => ⟨le_rfl, fun h => absurd h (lt_irrefl _), fun _ hk hki => absurd (hk.trans_le hki) (lt_irrefl _)⟩
  | i + 1 => by
    rw [fallIndex]
    split
    case isTrue h =>
      obtain ⟨hle, hstay, hleft⟩ := fallIndex_spec i
      refine ⟨by omega, hstay, fun k hk hki => ?_⟩
      obtain rfl | hki : k = i + 1 ∨ k ≤ i := by omega
      · exact h
      · exact hleft k hk hki
    case isFalse h => exact ⟨le_rfl, fun _ => not_lt.1 h, fun k hk hki => absurd hk (by omega)⟩

end

/-- The last number below a bound that passes a test which 0 passes: it passes, and the next does not. -/
theorem getLast_filter_range (f : Nat → Bool) (h0 : f 0 = true) : ∀ n : Nat, 1 ≤ n →
    let j := ((List.range n).filter f).getLast?.getD 0
    j < n ∧ f j = true ∧ (j + 1 < n → f (j + 1) = false)
  | 0, h => absurd h (by omega)
  | n + 1, _ => by
    intro j
    by_cases hn : f n = true
    · have hj : j = n := by simp [j, List.range_succ, hn]
      rw [hj]
      exact ⟨by omega, hn, fun h => absurd h (lt_irrefl _)⟩
    · have hpos : 1 ≤ n := Nat.one_le_iff_ne_zero.2 fun h => hn (h ▸ h0)
      have hj : j = ((List.range n).filter f).getLast?.getD 0 := by simp [j, List.range_succ, hn]
      obtain ⟨hlt, hf, hnext⟩ := getLast_filter_range f h0 n hpos
      rw [← hj] at hlt hf hnext
      refine ⟨by omega, hf, fun _ => ?_⟩
      obtain h | h : j + 1 < n ∨ j + 1 = n := by omega
      · exact hnext h
      · exact h ▸ Bool.eq_false_iff.2 hn

theorem formTarget_putBrush (u : BrushUnit) (b : BrushRec) (s : State) :
    formTarget u (s.putBrush u b) = setTarget u (if b.spin = .spinningUp ∨ b.spin = .on then
      min (s.recipes.pace[b.table].rate b.index) (s.setup.rpmFull u) else 0) (s.putBrush u b) := by
  simp only [formTarget, tableTarget, least_eq_min, paceTable, State.brushOf_putBrush]
  cases b.spin <;> rfl

theorem brushSpeedSample_eq (u : BrushUnit) (s : State) :
    brushSpeedSample u s = formTarget u (s.putBrush u { s.brushOf u with
      index := if (s.brushOf u).reselect then lookupIndex s.recipes.pace[(s.brushOf u).table] |s.pcu.sample|
        else selectIndex s.recipes.pace[(s.brushOf u).table] |s.pcu.sample| (s.brushOf u).index
      reselect := false }) := by
  simp only [brushSpeedSample, mag_eq_abs]
  rfl

theorem setTarget_changed {u : BrushUnit} {t : Int} {s : State} (h : t ≠ (s.brushOf u).t) :
    setTarget u t s = examineRamp u (s.putBrush u { s.brushOf u with t := t }) := if_neg h

/-- Settles O32: the rises and falls, the sample's target, and the examination of the ramp. -/
theorem speedSampleSelectsSegmentAndTarget : Obligations.SpeedSampleSelectsSegmentAndTarget := by
  unfold Obligations.SpeedSampleSelectsSegmentAndTarget
  refine ⟨fun p v i hv h1 h6 hi h0 hh hb => ?_, fun s u => ?_, fun s u => ?_⟩
  · intro j
    obtain ⟨hle, hlt, hrisen, hstop⟩ := riseIndex_spec p v 6 i hi (by omega)
    obtain ⟨hfall, hstay, hleft⟩ := fallIndex_spec p v (riseIndex p v 6 i)
    have hj : j ≤ riseIndex p v 6 i := hfall
    have left : ∀ k, j < k → k ≤ riseIndex p v 6 i → v < p.bound k - p.hysteresis := hleft
    obtain ⟨look, lookReached, lookNext⟩ :=
      getLast_filter_range (fun i => decide (p.bound i ≤ v)) (decide_eq_true (h0.trans_le hv)) p.count h1
    refine ⟨by omega, fun hcount => ?_, hstay, fun hij => hrisen j hij hj, fun hji => left (j + 1) (by omega) (by omega),
      look, of_decide_eq_true lookReached, fun h => not_le.1 (of_decide_eq_false (lookNext h))⟩
    obtain h | h : j = riseIndex p v 6 i ∨ j < riseIndex p v 6 i := by omega
    · rw [h] at hcount ⊢
      exact hstop hcount
    · have := left (j + 1) (by omega) (by omega)
      omega
  · intro b p v index t sampled
    have target : brushSpeedSample u s = setTarget u t (s.putBrush u sampled) :=
      (brushSpeedSample_eq u s).trans (formTarget_putBrush u sampled s)
    have before : ((s.putBrush u sampled).brushOf u).t = b.t := by rw [State.brushOf_putBrush]
    rw [target]
    refine ⟨fun h => if_pos (h.trans before.symm), fun h => ?_⟩
    rw [setTarget_changed (by rw [before]; exact h), State.brushOf_putBrush, State.putBrush_putBrush]
  · intro b isSettled dir interval direct
    have hint : dirInterval s (neededDir (s.brushOf u)) = interval := dirInterval_needed
    have hdir : neededDir (s.brushOf u) = dir := rfl
    refine ⟨fun h => examineRamp_settled (settled_iff.2 h), fun h => ?_, rfl⟩
    rw [examineRamp_unsettled (mt settled_iff.1 h)]
    refine ⟨fun hnone => ?_, fun ms hms => ⟨fun due hdue => ?_, fun hdue => ?_⟩⟩
    · have stops : ¬ rampRuns s u = true := by
        rw [rampRuns_iff, hint, hnone]
        exact fun h => Bool.false_ne_true h.2
      have hdirect : directCommand u s = direct := by
        unfold directCommand
        split
        · next hup => exact (if_neg fun hc => h (Or.inr hc)).trans (if_pos hup).symm
        · next hup => exact (if_neg hup).symm
      rw [if_neg stops, startRamp_direct (hint.trans hnone), hdirect]
    · rw [if_pos (rampRuns_iff.2 ⟨⟨due, hdue⟩, by rw [hint, hms]; rfl⟩)]
    · rw [if_neg fun h => (rampRuns_iff.1 h).1.elim fun due h => hdue due h]
      exact startRamp_timed (hint.trans hms)

/-! ## The notices of spin and height (R56) -/

theorem cutCommand_record (u : BrushUnit) (s : State) :
    ((cutCommand u s).brushOf u).c = 0 ∧ ((cutCommand u s).brushOf u).t = (s.brushOf u).t ∧
    ((cutCommand u s).brushOf u).rampTimer = none ∧ ((cutCommand u s).brushOf u).spin = (s.brushOf u).spin ∧
    ((cutCommand u s).brushOf u).heightDown = (s.brushOf u).heightDown := by
  obtain ⟨hc, ht, hr, hs, hh⟩ := setBrushCommand_record (s := setRampTimer u none s) (u := u) 0
  rw [setRampTimer, State.brushOf_putBrush] at ht hr hs hh
  exact ⟨hc, ht, hr, hs, hh⟩

theorem spinNotice_off (u : BrushUnit) (s : State) :
    spinNotice u .off s = cutCommand u (s.putBrush u { s.brushOf u with spin := .off, t := 0 }) := by
  simp only [spinNotice, State.brushOf_putBrush, State.putBrush_putBrush]

theorem spinNotice_turning (u : BrushUnit) (s : State) {sp : Spin} (h : sp = .spinningUp ∨ sp = .on) :
    spinNotice u sp s = if (s.brushOf u).reselect then s.putBrush u { s.brushOf u with spin := sp }
      else formTarget u (s.putBrush u { s.brushOf u with spin := sp }) := by
  rcases h with rfl | rfl <;> simp only [spinNotice, State.brushOf_putBrush]

/-- Settles O36: each notice by the command's cut or the target's forming. -/
theorem spinAndHeightNoticesCutTheCommand : Obligations.SpinAndHeightNoticesCutTheCommand := by
  unfold Obligations.SpinAndHeightNoticesCutTheCommand
  intro s u b
  have turning {sp : Spin} (h : sp = .spinningUp ∨ sp = .on) : spinNotice u sp s =
      if b.reselect then s.putBrush u { b with spin := sp } else formTarget u (s.putBrush u { b with spin := sp }) :=
    spinNotice_turning u s h
  have off := spinNotice_off u s
  obtain ⟨hc, ht, hr, hs, -⟩ := cutCommand_record u (s.putBrush u { b with spin := .off, t := 0 })
  obtain ⟨hc', ht', hr', -, hh'⟩ := cutCommand_record u (s.putBrush u { b with heightDown := false })
  rw [State.brushOf_putBrush] at ht hs ht' hh'
  refine ⟨off ▸ ht, off ▸ hc, off ▸ hr, off ▸ hs, hc', hr', hh', ht', rfl,
    setTarget_t 0, fun sp hsp hb => ?_, fun sp hsp hb => ?_⟩
  · rw [turning hsp, if_pos hb]
  · rw [turning hsp, if_neg (Bool.eq_false_iff.1 hb), formTarget_putBrush, if_pos hsp, setTarget_t]

/-! ## Stall and lag (R64, R65) -/

theorem setStalled_putBrush (u : BrushUnit) (flag : Bool) (b : BrushRec) (s : State) :
    setStalled u flag (s.putBrush u b) = notice (.brushStall u) flag (s.putBrush u { b with stalled := flag }) := by
  rw [setStalled, State.brushOf_putBrush, State.putBrush_putBrush]

theorem setLagging_putBrush (u : BrushUnit) (flag : Bool) (b : BrushRec) (s : State) :
    setLagging u flag (s.putBrush u b) = notice (.brushLag u) flag (s.putBrush u { b with lagging := flag }) := by
  rw [setLagging, State.brushOf_putBrush, State.putBrush_putBrush]

/-- The stall timer after a brush sample. -/
def stallTimerOf (u : BrushUnit) (s : State) : Timer :=
  if 0 < s.pcu.brushRpm.get u then none
  else if s.setup.startRpm u ≤ (s.brushOf u).out ∧ (s.brushOf u).stallTimer = none then
    some (s.clock + s.setup.stallTime.toNat * 1000)
  else (s.brushOf u).stallTimer

theorem stallSample_eq (u : BrushUnit) (s : State) :
    stallSample u s =
      if (s.brushOf u).stalled = true ∧ (0 < s.pcu.brushRpm.get u ∨ (s.brushOf u).out < s.setup.startRpm u) then
        setStalled u false (s.putBrush u { s.brushOf u with stallTimer := stallTimerOf u s })
      else s.putBrush u { s.brushOf u with stallTimer := stallTimerOf u s } := by
  simp only [stallSample, stallTimerOf, Bool.and_eq_true, Bool.or_eq_true, Bool.not_eq_true', decide_eq_true_eq,
    decide_eq_false_iff_not, Option.isNone_iff_eq_none, not_le]
  rfl

theorem lagSample_lags {u : BrushUnit} {s : State} (h : s.pcu.brushRpm.get u < (s.brushOf u).out - s.setup.lagMargin) :
    lagSample u s = if (s.brushOf u).lagTimer = none then
      s.putBrush u { s.brushOf u with lagTimer := some (s.clock + s.setup.lagTime.toNat * 1000) } else s := by
  simp only [lagSample, if_pos h, Option.isNone_iff_eq_none]
  rfl

theorem lagSample_keeps_up {u : BrushUnit} {s : State}
    (h : ¬ s.pcu.brushRpm.get u < (s.brushOf u).out - s.setup.lagMargin) :
    lagSample u s = if (s.brushOf u).lagging then
      setLagging u false (s.putBrush u { s.brushOf u with lagTimer := none })
      else s.putBrush u { s.brushOf u with lagTimer := none } := if_neg h

/-- Settles O35: the two tests of a sample and the two expiries. -/
theorem stallAndLagAreWatched : Obligations.StallAndLagAreWatched := by
  unfold Obligations.StallAndLagAreWatched
  refine ⟨fun s u => ?_, fun s u due hdue => ?_, fun s u => ?_⟩
  · intro b rpm timer watched
    refine ⟨fun h h' => ?_, fun h => (stallSample_eq u s).trans (if_neg h)⟩
    rw [stallSample_eq, if_pos ⟨h, h'⟩, setStalled_putBrush]
    rfl
  · intro stalled
    have expiry : exec (.stallTimerExpiry u) s =
        .next (onExpiry (s.brushOf u).stallTimer (stallTimerExpired u) s).sent := rfl
    have reached : stallTimerExpired u (s.atTime due) =
        if s.cond.get (.brushStall u) = .present then stalled else takeHold u .stall stalled :=
      congrArg (fun x => if s.cond.get (.brushStall u) = .present then x else takeHold u .stall x)
        (setStalled_putBrush u true { s.brushOf u with stallTimer := none } (s.atTime due))
    rw [expiry, hdue, onExpiry_some, reached]
    exact ⟨fun h => by rw [if_neg h], fun h => by rw [if_pos h]⟩
  · intro b lags
    refine ⟨rfl, lagSample_lags, fun h hb => ?_, fun h hb => ?_, fun due hdue => ?_⟩
    · rw [lagSample_keeps_up h, if_neg (Bool.eq_false_iff.1 hb)]
    · rw [lagSample_keeps_up h, if_pos hb, setLagging_putBrush]
    · have expiry : exec (.lagTimerExpiry u) s =
          .next (onExpiry (s.brushOf u).lagTimer (lagTimerExpired u) s).sent := rfl
      rw [expiry, hdue, onExpiry_some, lagTimerExpired, setLagging_putBrush]
      rfl

end Sys2Proof.Machine
end

section
/-! The pace tables' requests: PACE_WRITE replaces a table whole or changes nothing, PACE_READ shows one (R50, R51). -/

namespace Sys2Proof.Machine

/-! ## The result code of a clamped value (Table 11-2) -/

theorem clamped_code {lo hi : Int} (h : lo ≤ hi) (x : Int) :
    (if max lo (min hi x) = x then Result.ok else Result.clamped).code = if x < lo ∨ hi < x then 0x01 else 0x00 := by
  by_cases out : x < lo ∨ hi < x
  · rw [if_pos out, if_neg (by omega)]
    rfl
  · rw [if_neg out, if_pos (by omega)]
    rfl

/-! ## The checks of a written table (R50) -/

theorem all_zip_drop_iff (l : List Int) :
    (l.zip (l.drop 1)).all (fun p => decide (p.1 < p.2)) = true ↔
      ∀ i, i + 1 < l.length → l[i]?.getD 0 < l[i + 1]?.getD 0 := by
  rw [List.all_eq_true]
  constructor
  · intro h i hi
    have hmem : (l[i], l[i + 1]) ∈ l.zip (l.drop 1) := by
      refine List.mem_iff_getElem.2 ⟨i, by simp; omega, ?_⟩
      simp [List.getElem_zip]
    have := of_decide_eq_true (h _ hmem)
    rwa [List.getElem?_eq_getElem (by omega), List.getElem?_eq_getElem hi]
  · rintro h ⟨a, b⟩ hmem
    obtain ⟨i, hi, he⟩ := List.mem_iff_getElem.1 hmem
    simp only [List.length_zip, List.length_drop] at hi
    rw [List.getElem_zip, List.getElem_drop] at he
    have := h i (by omega)
    rw [List.getElem?_eq_getElem (by omega), List.getElem?_eq_getElem (by omega)] at this
    obtain ⟨rfl, rfl⟩ := Prod.mk.inj he
    simpa [Nat.add_comm 1 i] using this

theorem all_take_iff (f : Int → Bool) {l : List Int} {n : Nat} (h : n ≤ l.length) :
    (l.take n).all f = true ↔ ∀ i, i < n → f (l[i]?.getD 0) = true := by
  rw [List.all_eq_true]
  constructor
  · intro hall i hi
    rw [List.getElem?_eq_getElem (by omega)]
    exact hall _ (List.mem_iff_getElem.2 ⟨i, by simp; omega, by simp⟩)
  · intro hall x hx
    obtain ⟨i, hi, rfl⟩ := List.mem_iff_getElem.1 hx
    rw [List.length_take] at hi
    have := hall i (by omega)
    rw [List.getElem?_eq_getElem (by omega)] at this
    rwa [List.getElem_take]

theorem getElem?_take_getD {l : List Int} {n i : Nat} (h : i < n) : (l.take n)[i]?.getD 0 = l[i]?.getD 0 := by
  rw [List.getElem?_take, if_pos h]

/-- The used segments of a lawful table (R50). -/
theorem paceValid_iff {n : Nat} {bounds rates : List Int} (hb : bounds.length = 6) (hr : rates.length = 6) :
    paceValid n bounds rates = true ↔ 1 ≤ n ∧ n ≤ 6 ∧ bounds[0]?.getD 0 = 0 ∧
      (∀ i, i + 1 < n → bounds[i]?.getD 0 < bounds[i + 1]?.getD 0) ∧
      (∀ i, i < n → bounds[i]?.getD 0 ≤ 11000) ∧ (∀ i, i < n → 0 ≤ rates[i]?.getD 0 ∧ rates[i]?.getD 0 ≤ 300) := by
  by_cases hn : 1 ≤ n ∧ n ≤ 6
  · have head : (bounds.head? == some 0) = true ↔ bounds[0]?.getD 0 = 0 := by
      cases bounds with
      | nil => exact absurd hb (by decide)
      | cons x xs => simp
    have rising : (((bounds.take n).zip ((bounds.take n).drop 1)).all fun p => decide (p.1 < p.2)) = true ↔
        ∀ i, i + 1 < n → bounds[i]?.getD 0 < bounds[i + 1]?.getD 0 := by
      rw [all_zip_drop_iff, List.length_take, Nat.min_eq_left (by omega)]
      refine forall₂_congr fun i hi => ?_
      rw [getElem?_take_getD (by omega), getElem?_take_getD hi]
    simp only [paceValid, Bool.and_eq_true, head, rising, all_take_iff _ (show n ≤ bounds.length by omega),
      all_take_iff _ (show n ≤ rates.length by omega), decide_eq_true_eq, and_assoc]
  · refine iff_of_false (fun h => hn ?_) fun h => hn ⟨h.1, h.2.1⟩
    simp only [paceValid, Bool.and_eq_true, decide_eq_true_eq] at h
    exact h.1.1.1.1

/-! ## The table that a write makes -/

theorem paceOf_bound {n : Nat} (h : n ≤ 6) (hyst : Int) (bounds rates : List Int) (i : Nat) :
    (paceOf hyst n bounds rates).bound i = if i < n then bounds[i]?.getD 0 else 0 := by
  by_cases hi : i < 6
  · simp [PaceTable.bound, paceOf, hi]
  · rw [if_neg (by omega)]
    simp [PaceTable.bound, paceOf, hi]

theorem paceOf_rate {n : Nat} (h : n ≤ 6) (hyst : Int) (bounds rates : List Int) (i : Nat) :
    (paceOf hyst n bounds rates).rate i = if i < n then rates[i]?.getD 0 else 0 := by
  by_cases hi : i < 6
  · simp [PaceTable.rate, paceOf, hi]
  · rw [if_neg (by omega)]
    simp [PaceTable.rate, paceOf, hi]

/-- A unit's record with a reselection pending if it names the table. -/
def BrushRec.marked (table : Fin 4) (b : BrushRec) : BrushRec :=
  { b with reselect := b.reselect || b.table.val == table.val }

theorem markReselect_eq (table : Fin 4) (u : BrushUnit) (s : State) :
    markReselect table u s = s.putBrush u ((s.brushOf u).marked table) := by
  unfold markReselect BrushRec.marked
  split
  · next h => simp [h]
  · next h =>
    have other : ((s.brushOf u).table.val == table.val) = false := beq_eq_false_iff_ne.2 fun e => h (Fin.ext e)
    rw [other, Bool.or_false]
    exact (State.putBrush_brushOf_self s u).symm

theorem forUnits_markReselect (table : Fin 4) (s : State) :
    forUnits (markReselect table) s = { s with brush := { s.brush with units := s.brush.units.map (·.marked table) } } := by
  simp only [forUnits, markReselect_eq]
  rfl

/-- The body of a PACE_WRITE, place by place. -/
def paceBody (table h1 h0 count : Byte) (places : Vector (Byte × Byte × Byte × Byte) 6) : List Byte :=
  [table, h1, h0, count] ++ places.toList.flatMap fun p => [p.1, p.2.1, p.2.2.1, p.2.2.2]

theorem exec_paceWrite (tag table h1 h0 count : Byte) (places : Vector (Byte × Byte × Byte × Byte) 6) (s : State) :
    exec (.paceWrite tag (paceBody table h1 h0 count places)) s =
      finish (takeRequest 0x0C tag (paceBody table h1 h0 count places) (guarded true
        (takePaceWrite table.toNat (i16 h1 h0) count.toNat (places.toList.map fun p => i16 p.1 p.2.1)
          (places.toList.map fun p => i16 p.2.2.1 p.2.2.2))) s) := by
  obtain ⟨⟨l⟩, hl⟩ := places
  match l, hl with
  | [_, _, _, _, _, _], _ => rfl

theorem paceBody_length (table h1 h0 count : Byte) (places : Vector (Byte × Byte × Byte × Byte) 6) :
    (paceBody table h1 h0 count places).length = 28 := by
  obtain ⟨⟨l⟩, hl⟩ := places
  match l, hl with
  | [_, _, _, _, _, _], _ => rfl

theorem takePaceWrite_refused {table n : Nat} {hyst : Int} {bounds rates : List Int} {s : State}
    (h : ¬ (table < 4 ∧ paceValid n bounds rates = true)) :
    takePaceWrite table hyst n bounds rates s = answer .badTable s := by
  unfold takePaceWrite
  split
  · next ht => exact if_neg fun hv => h ⟨ht, hv⟩
  · rfl

theorem takePaceWrite_taken {table n : Nat} {hyst : Int} {bounds rates : List Int} {s : State} (ht : table < 4)
    (hv : paceValid n bounds rates = true) :
    takePaceWrite table hyst n bounds rates s =
      ({ s with
        recipes := { s.recipes with pace := s.recipes.pace.set table (paceOf (max 0 (min 500 hyst)) n bounds rates) }
        brush := { s.brush with units := s.brush.units.map (·.marked ⟨table, ht⟩) } },
        [if hyst < 0 ∨ 500 < hyst then 0x01 else 0x00]) := by
  rw [takePaceWrite, dif_pos ht, if_pos hv]
  simp only [answer, clamp_eq (by decide : (0 : Int) ≤ 500) hyst, clamped_code (by decide : (0 : Int) ≤ 500) hyst,
    forUnits_markReselect]

/-- Settles O37: PACE_WRITE by the lawfulness of its table, PACE_READ byte by byte. -/
theorem paceTablesAreReplacedWholeAndRead : Obligations.PaceTablesAreReplacedWholeAndRead := by
  unfold Obligations.PaceTablesAreReplacedWholeAndRead
  refine ⟨fun s tag table h1 h0 count places => ?_, fun s tag table hr hs => ⟨fun ht => ?_, fun k hk => ?_⟩⟩
  · intro body n hyst bound rate lawful hr
    have judged : exec (.paceWrite tag body) s = _ := exec_paceWrite tag table h1 h0 count places s
    have hlawful : lawful ↔ table.toNat < 4 ∧ paceValid n (places.toList.map fun p => i16 p.1 p.2.1)
        (places.toList.map fun p => i16 p.2.2.1 p.2.2.2) = true := by
      rw [paceValid_iff (by simp) (by simp)]
    refine ⟨exec_busy rfl ?_ (by decide) hr, fun hs h => ?_, fun hs h => ?_⟩
    · rw [show body.length = 28 from paceBody_length table h1 h0 count places]
      rfl
    · rw [judged]
      exact finish_judged_answered hr hs (takePaceWrite_refused (mt hlawful.2 h))
    · obtain ⟨ht, hv⟩ := hlawful.1 h
      obtain ⟨-, -, h6, -⟩ := h
      refine ⟨_, judged.trans (finish_judged hr hs (takePaceWrite_taken ht hv)), fun k hk => ?_, fun k hk => ?_,
        fun u => ?_, rfl⟩
      · exact Vector.getElem_set_ne ht k.isLt fun e => hk e.symm
      · have written : (s.recipes.pace.set table.toNat (paceOf (max 0 (min 500 hyst)) n
            (places.toList.map fun p => i16 p.1 p.2.1) (places.toList.map fun p => i16 p.2.2.1 p.2.2.2)))[k] =
              paceOf (max 0 (min 500 hyst)) n (places.toList.map fun p => i16 p.1 p.2.1)
                (places.toList.map fun p => i16 p.2.2.1 p.2.2.2) := by
          simp [hk]
        exact ⟨congrArg PaceTable.count written, congrArg PaceTable.hysteresis written,
          fun i => (congrArg (·.bound i) written).trans (paceOf_bound h6 _ _ _ i),
          fun i => (congrArg (·.rate i) written).trans (paceOf_rate h6 _ _ _ i)⟩
      · exact PerUnit.get_map _ _ u
  · have judged : exec (.paceRead tag [table]) s = finish (takeRequest 0x0D tag [table] (guarded true (takePaceRead table)) s) := rfl
    rw [judged]
    exact finish_judged_answered hr hs (dif_neg (by omega))
  · have judged : exec (.paceRead tag [table]) s = finish (takeRequest 0x0D tag [table] (guarded true (takePaceRead table)) s) := rfl
    have ht : table.toNat < 4 := hk ▸ k.isLt
    have hpace : s.recipes.pace[k] = s.recipes.pace[table.toNat] := by
      simp only [Fin.getElem_fin, hk]
    refine ⟨_, judged.trans (finish_judged_answered hr hs (dif_pos ht)), rfl, rfl, ?_, ?_, fun i hi => ?_⟩
    · rw [hpace]
      rfl
    · rw [hpace]
      rfl
    · rw [hpace]
      interval_cases i <;> rfl

end Sys2Proof.Machine
end

section
/-! The supply and the levels (R111 to R113), the allocation (R116 to R121), and the condition records with their notices,
their clearing and the Monitor's limits (R155 to R162). -/

namespace Sys2Proof.Machine

/-! ## SUPPLY and its timer (R111 to R113) -/

theorem takeSupply_eq (v : Int) (s : State) :
    takeSupply v s =
      (let taken := { s with arb := { s.arb with
        supply := min 2000 v, holdTimer := s.startMs s.setup.supplyHold, stale := false } }
      (if s.arb.stale then notice .supplyStale false taken else taken, [if 2000 < v then 0x01 else 0x00])) := by
  have code : (if min 2000 v = v then Result.ok else Result.clamped).code = if 2000 < v then 0x01 else 0x00 := by
    by_cases h : 2000 < v
    · rw [if_pos h, if_neg (by omega)]
      rfl
    · rw [if_neg h, if_pos (by omega)]
      rfl
  cases h : s.arb.stale <;>
    simp only [takeSupply, answer, setSupplyStale, least_eq_min, h, code, if_true, Bool.false_eq_true, if_false]

theorem recipeLevels_eq (f : RecipeFields) (p : PerConsumer ConsumerRec) :
    recipeLevels f p = {
      arms := p.arms
      drive := { p.drive with level := if f[18].toNat = 0 then p.drive.level else f[18].toNat }
      broomM := { p.broomM with level := f[19].toNat }
      brushL := { p.brushL with level := f[20].toNat }
      brushR := { p.brushR with level := f[21].toNat }
      water := { p.water with level := f[22].toNat } } := by
  unfold recipeLevels fieldLevelDrive
  by_cases h : f[18].toNat = 0
  · rw [if_pos h, if_pos h]
    rfl
  · rw [if_neg h, if_neg h]
    rfl

/-- Settles O47: SUPPLY's step and the timer's by the stale flag, the levels by consumer. -/
theorem supplyIsStoredAndGoesStale : Obligations.SupplyIsStoredAndGoesStale := by
  unfold Obligations.SupplyIsStoredAndGoesStale
  refine fun s => ⟨fun tag hi lo hr => ?_, fun due hdue => ?_, rfl, fun f => recipeLevels_eq f _⟩
  · intro v taken
    have judged : exec (.supply tag [hi, lo]) s =
        finish (takeRequest 0x04 tag [hi, lo] (guarded true (notInStandby (takeSupply v))) s) := rfl
    refine ⟨exec_busy rfl rfl (by decide) hr, exec_refusedAsleep rfl rfl (by decide) hr, fun hs hb => ?_⟩
    rw [judged]
    exact finish_judged hr hs ((notInStandby_taken (s := s.holding 0x04 tag [hi, lo]) hb).trans (takeSupply_eq v _))
  · intro aged
    have expiry : exec .supplyHoldTimerExpiry s = .next (onExpiry s.arb.holdTimer supplyHoldOver s).sent := rfl
    rw [expiry, hdue, onExpiry_some, supplyHoldOver]
    cases h : s.arb.stale
    · simp only [State.atTime, h, Bool.false_eq_true, if_false]
      rfl
    · simp only [State.atTime, h, if_true, aged]

/-! ## The visiting order (R118) -/

/-- A consumer is visited before another: at a higher level, or at the same level with a lower rank. -/
def VisitedBefore (level rank : Consumer → Nat) (a b : Consumer) : Prop :=
  level b < level a ∨ level a = level b ∧ rank a < rank b

/-- Insertion by level keeps consumers of one level in the order of their ranks. -/
theorem pairwise_insertionSort (level rank : Consumer → Nat) : ∀ l : List Consumer,
    l.Pairwise (fun a b => rank a < rank b) →
      (l.insertionSort fun a b => level b ≤ level a).Pairwise (VisitedBefore level rank) := by
  have insert : ∀ (a : Consumer) (l : List Consumer), (∀ x ∈ l, rank a < rank x) →
      l.Pairwise (VisitedBefore level rank) →
      (l.orderedInsert (fun a b => level b ≤ level a) a).Pairwise (VisitedBefore level rank) := by
    intro a l
    induction l with
    | nil => exact fun _ _ => List.pairwise_singleton _ _
    | cons b l ih =>
      intro ha hl
      obtain ⟨hb, hl⟩ := List.pairwise_cons.1 hl
      rw [List.orderedInsert_cons]
      split
      case isTrue h =>
        refine List.pairwise_cons.2 ⟨fun x hx => ?_, List.pairwise_cons.2 ⟨hb, hl⟩⟩
        have rising := ha x hx
        have below : level x ≤ level b := by
          rcases List.mem_cons.1 hx with rfl | hx
          · exact le_rfl
          · rcases hb x hx with h | ⟨h, -⟩ <;> omega
        unfold VisitedBefore
        omega
      case isFalse h =>
        refine List.pairwise_cons.2 ⟨fun x hx => ?_, ih (fun x hx => ha x (List.mem_cons_of_mem b hx)) hl⟩
        rcases (List.mem_orderedInsert _).1 hx with rfl | hx
        · exact Or.inl (not_le.1 h)
        · exact hb x hx
  intro l
  induction l with
  | nil => exact fun _ => List.Pairwise.nil
  | cons a l ih =>
    intro hl
    obtain ⟨ha, hl⟩ := List.pairwise_cons.1 hl
    exact insert a _ (fun x hx => ha x ((List.perm_insertionSort _ l).mem_iff.1 hx)) (ih hl)

theorem visitOrder_perm (p : PerConsumer ConsumerRec) : (visitOrder p).Perm allConsumers :=
  List.perm_insertionSort _ _

theorem visitOrder_nodup (p : PerConsumer ConsumerRec) : (visitOrder p).Nodup :=
  (visitOrder_perm p).nodup_iff.2 (by decide)

theorem mem_visitOrder (p : PerConsumer ConsumerRec) (c : Consumer) : c ∈ visitOrder p :=
  (visitOrder_perm p).mem_iff.2 (by cases c <;> decide)

/-! ## The visits (R119 to R121) -/

section
variable {rise : Int} {demand : Consumer → Int}

/-- What a consumer is granted of what is left (R119). -/
def granted (rise : Int) (demand : Consumer → Int) (p : PerConsumer ConsumerRec) (left : Int) (c : Consumer) : Int :=
  min (min (demand c) ((p.get c).grant + rise)) left

theorem visit_cons (c : Consumer) (rest : List Consumer) (left : Int) (p : PerConsumer ConsumerRec) :
    visit rise demand (c :: rest) left p =
      visit rise demand rest (left - granted rise demand p left c) (p.set c ⟨(p.get c).level, demand c,
        granted rise demand p left c, shareOf (granted rise demand p left c) (demand c)⟩) := by
  rw [visit, ceilingOf, least_eq_min, least_eq_min]
  rfl

/-- A consumer that is not visited keeps its record. -/
theorem visit_get_of_not_mem {c : Consumer} : ∀ (l : List Consumer) (left : Int) (p : PerConsumer ConsumerRec), c ∉ l →
    (visit rise demand l left p).get c = p.get c
  | [], _, _, _ => rfl
  | d :: rest, left, p, h => by
    obtain ⟨hd, hrest⟩ := not_or.1 (mt List.mem_cons.2 h)
    rw [visit_cons, visit_get_of_not_mem rest _ _ hrest, PerConsumer.get_set_other _ _ hd]

theorem visit_get_head {c : Consumer} {rest : List Consumer} (left : Int) (p : PerConsumer ConsumerRec) (h : c ∉ rest) :
    (visit rise demand (c :: rest) left p).get c = ⟨(p.get c).level, demand c, granted rise demand p left c,
      shareOf (granted rise demand p left c) (demand c)⟩ := by
  rw [visit_cons, visit_get_of_not_mem rest _ _ h, PerConsumer.get_set_same]

/-- Each consumer is granted of what those visited before it have left. -/
theorem visit_get {c : Consumer} {after : List Consumer} :
    ∀ (before : List Consumer) (left : Int) (p : PerConsumer ConsumerRec), (before ++ c :: after).Nodup →
      let q := visit rise demand (before ++ c :: after) left p
      let g := granted rise demand p (left - (before.map fun b => (q.get b).grant).sum) c
      q.get c = ⟨(p.get c).level, demand c, g, shareOf g (demand c)⟩
  | [], left, p, h => by
    intro q g
    have hg : g = granted rise demand p left c := by simp [g]
    rw [hg]
    exact visit_get_head left p (List.nodup_cons.1 h).1
  | b :: before, left, p, h => by
    obtain ⟨hb, hrest⟩ := List.nodup_cons.1 h
    have hcb : c ≠ b := fun e => hb (e ▸ List.mem_append_right _ (List.mem_cons_self ..))
    intro q g
    have first : (q.get b).grant = granted rise demand p left b :=
      congrArg ConsumerRec.grant (visit_get_head left p hb)
    have rest := visit_get before (left - granted rise demand p left b) (p.set b ⟨(p.get b).level, demand b,
      granted rise demand p left b, shareOf (granted rise demand p left b) (demand b)⟩) hrest
    rw [← visit_cons, PerConsumer.get_set_other _ _ hcb] at rest
    have hg : g = granted rise demand (p.set b ⟨(p.get b).level, demand b, granted rise demand p left b,
        shareOf (granted rise demand p left b) (demand b)⟩) (left - granted rise demand p left b -
          (before.map fun x => (q.get x).grant).sum) c := by
      simp only [g, granted, List.map_cons, List.sum_cons, first, PerConsumer.get_set_other _ _ hcb]
      congr 1
      ring
    rw [hg]
    exact rest

/-- The grants of the consumers visited first never pass what there was to grant. -/
theorem visit_sum_le {after : List Consumer} :
    ∀ (before : List Consumer) (left : Int) (p : PerConsumer ConsumerRec), (before ++ after).Nodup → 0 ≤ left →
      (before.map fun b => ((visit rise demand (before ++ after) left p).get b).grant).sum ≤ left
  | [], _, _, _, h0 => h0
  | b :: before, left, p, h, h0 => by
    obtain ⟨hb, hrest⟩ := List.nodup_cons.1 h
    have first : ((visit rise demand (b :: before ++ after) left p).get b).grant = granted rise demand p left b :=
      congrArg ConsumerRec.grant (visit_get_head left p hb)
    have le : granted rise demand p left b ≤ left := min_le_right _ _
    have rest := visit_sum_le before (left - granted rise demand p left b) (p.set b ⟨(p.get b).level, demand b,
      granted rise demand p left b, shareOf (granted rise demand p left b) (demand b)⟩) hrest (by omega)
    rw [← visit_cons] at rest
    rw [List.map_cons, List.sum_cons, first]
    exact le_sub_iff_add_le'.1 rest

end

theorem shareOf_bounds {g d : Int} (h0 : 0 ≤ g) (h : g ≤ d) : 0 ≤ shareOf g d ∧ shareOf g d ≤ 1000 := by
  unfold shareOf
  split
  · decide
  · next hne =>
    obtain ⟨hd, -⟩ := not_or.1 hne
    have hpos : 0 < d := by omega
    rw [Int.fdiv_eq_ediv_of_nonneg _ hpos.le]
    exact ⟨Int.ediv_nonneg (by omega) hpos.le, Int.ediv_le_of_le_mul hpos (by nlinarith)⟩

/-- Settles O48: the visits in their order, each by what is left to it. -/
theorem allocationGrantsByLevelWithinTheBudget : Obligations.AllocationGrantsByLevelWithinTheBudget := by
  unfold Obligations.AllocationGrantsByLevelWithinTheBudget
  intro s order level t grant
  have budget : 0 ≤ t.arb.budget := by
    show 0 ≤ budgetNow s
    unfold budgetNow
    split
    · exact le_rfl
    · rw [most_eq_max]
      exact le_max_left _ _
  have nodup : order.Nodup := visitOrder_nodup s.arb.consumers
  have visited {before after : List Consumer} {c : Consumer} (h : order = before ++ c :: after) :
      let g := granted s.setup.grantRise s.demandOf s.arb.consumers (t.arb.budget - (before.map grant).sum) c
      t.arb.consumers.get c = ⟨level c, s.demandOf c, g, shareOf g (s.demandOf c)⟩ := by
    have spec := visit_get (rise := s.setup.grantRise) (demand := s.demandOf) before t.arb.budget s.arb.consumers
      (h ▸ nodup)
    rw [← h] at spec
    exact spec
  have left {before after : List Consumer} (h : order = before ++ after) : (before.map grant).sum ≤ t.arb.budget := by
    have le := visit_sum_le (rise := s.setup.grantRise) (demand := s.demandOf) before t.arb.budget s.arb.consumers
      (h ▸ nodup) budget
    rw [← h] at le
    exact le
  have place (c : Consumer) : ∃ before after, order = before ++ c :: after :=
    List.append_of_mem (mem_visitOrder s.arb.consumers c)
  have le_demand (c : Consumer) : grant c ≤ s.demandOf c := by
    obtain ⟨before, after, h⟩ := place c
    have hc : grant c = _ := congrArg ConsumerRec.grant (visited h)
    rw [hc]
    exact (min_le_left _ _).trans (min_le_left _ _)
  refine ⟨?_, visitOrder_perm s.arb.consumers, ?_, fun before c after h => visited h, left (List.append_nil order).symm,
    le_demand, fun hd hrise c => ?_, rfl, by decide, rfl, fun due hdue => ?_⟩
  · show budgetNow s = _
    rw [budgetNow, most_eq_max, divZ]
  · exact pairwise_insertionSort level (allConsumers.idxOf ·) allConsumers (by decide)
  · obtain ⟨before, after, h⟩ := place c
    have rest := left h
    have hg : grant c = _ := congrArg ConsumerRec.grant (visited h)
    have nonneg : 0 ≤ grant c := by
      rw [hg]
      exact le_min (le_min (hd c).1 (add_nonneg (hd c).2 hrise)) (sub_nonneg.2 rest)
    have hshare : (t.arb.consumers.get c).share = shareOf (grant c) (s.demandOf c) := by
      rw [hg]
      exact congrArg ConsumerRec.share (visited h)
    rw [hshare]
    exact ⟨nonneg, shareOf_bounds nonneg (le_demand c)⟩
  · intro published
    have expiry : exec .arbiterPeriodExpiry s = .next (onExpiry s.arb.periodTimer arbiterPeriodOver s).sent := rfl
    rw [expiry, hdue, onExpiry_some]
    rfl

/-! ## The condition table's counts (R155, R159) -/

theorem CondTable.get_set (t : CondTable) (k j : CondKind) (v : CondState) :
    (t.set k v).get j = if j = k then v else t.get j := by
  split
  · next h => rw [h, CondTable.get_set_same]
  · next h => rw [CondTable.get_set_other _ _ h]

/-- Counting by two tests that differ at one element alone. -/
theorem countP_of_differ {α : Type} {l : List α} {f g : α → Bool} {a : α} (hl : l.Nodup) (ha : a ∈ l)
    (h : ∀ b, b ≠ a → f b = g b) :
    l.countP f + (if g a then 1 else 0) = l.countP g + (if f a then 1 else 0) := by
  induction l with
  | nil => exact absurd ha List.not_mem_nil
  | cons b l ih =>
    obtain ⟨hb, hl⟩ := List.nodup_cons.1 hl
    rw [List.countP_cons, List.countP_cons]
    rcases List.mem_cons.1 ha with rfl | ha
    · have same : l.countP f = l.countP g :=
        List.countP_congr fun x hx => by rw [h x fun e => hb (e ▸ hx)]
      omega
    · have := ih hl ha
      rw [h b fun e => hb (e ▸ ha)]
      omega

theorem mem_allKinds (k : CondKind) : k ∈ allKinds := by
  cases k with
  | brushStall u | brushLag u | brushStarved u | armTimeout u | switch u => cases u <;> decide
  | sensorLost r => cases r <;> decide
  | _ => decide

theorem countOf_set (t : CondTable) (k : CondKind) (after v : CondState) :
    (t.set k after).countOf (fun _ => true) v + (if t.get k = v then 1 else 0) =
      t.countOf (fun _ => true) v + (if after = v then 1 else 0) := by
  have counted := countP_of_differ (f := fun j => (t.set k after).get j == v) (g := fun j => t.get j == v)
    (show allKinds.Nodup by decide) (mem_allKinds k) fun j hj => by rw [CondTable.get_set_other _ _ hj]
  simpa [CondTable.countOf, List.countP_eq_length_filter] using counted

/-- The kinds of a class in force are those of its kinds that are PRESENT. -/
theorem inForce_eq (t : CondTable) (c : ReactionClass) :
    t.inForce c = ((allKinds.filter fun k => k.reaction == c).filter fun k => t.get k == .present).length := by
  rw [List.filter_filter]
  simp only [CondTable.inForce, CondTable.countOf, Bool.and_comm]

theorem inForce_derate (t : CondTable) :
    t.inForce .derate = (if t.get .oilHigh = .present then 1 else 0) + (if t.get .loopOver = .present then 1 else 0) := by
  rw [inForce_eq, show (allKinds.filter fun k => k.reaction == .derate) = [.oilHigh, .loopOver] by decide]
  by_cases h : t.get .oilHigh = .present <;> by_cases h' : t.get .loopOver = .present <;> simp [h, h']

theorem inForce_stop (t : CondTable) : t.inForce .stop = if t.get .oilOver = .present then 1 else 0 := by
  rw [inForce_eq, show (allKinds.filter fun k => k.reaction == .stop) = [.oilOver] by decide]
  by_cases h : t.get .oilOver = .present <;> simp [h]

theorem classFlag_same (n : Nat) (flag : Bool) : classFlag n n flag = flag := by
  rw [classFlag, if_neg (by omega), if_neg (by omega)]

/-- A flag that stands while a class is in force follows a change by one kind. -/
theorem classFlag_iff {before after : Nat} {flag : Bool} (h : flag = true ↔ 0 < before) (hup : after ≤ before + 1)
    (hdown : before ≤ after + 1) : classFlag before after flag = true ↔ 0 < after := by
  unfold classFlag
  split_ifs with h1 h2
  · simp [h1]
  · simp [h2]
  · rw [h]
    omega

theorem latching_iff (k : CondKind) : k.latching = true ↔ k ∈ CondKind.oilOver ::
    [BrushUnit.l, .r, .m].flatMap fun u => [CondKind.brushStall u, .armTimeout u, .switch u] := by
  rcases k with _ | _ | _ | _ | _ | u | u | u | u | u | r | _ | _ | _ | _
  case sensorLost => cases r <;> decide
  case brushStall => cases u <;> decide
  case brushLag => cases u <;> decide
  case brushStarved => cases u <;> decide
  case armTimeout => cases u <;> decide
  case switch => cases u <;> decide
  all_goals decide

theorem changeRecord_changed {k : CondKind} {after : CondState} {s : State} (h : s.cond.get k ≠ after) :
    changeRecord k after s = { s with
      cond := s.cond.set k after
      link := s.link.post (.condition k (s.cond.get k) after (s.cond.set k after).presentCount
        (s.cond.set k after).latchedCount)
      arb := { s.arb with
        derate := classFlag (s.cond.inForce .derate) ((s.cond.set k after).inForce .derate) s.arb.derate
        stop := classFlag (s.cond.inForce .stop) ((s.cond.set k after).inForce .stop) s.arb.stop } } := if_neg h

theorem changeRecord_same {k : CondKind} {after : CondState} {s : State} (h : s.cond.get k = after) :
    changeRecord k after s = s := if_pos h

/-- Settles O52: the change of the record, the counts by the one kind that differs, and the two classes' flags. -/
theorem conditionRecordsFollowTheirNotices : Obligations.ConditionRecordsFollowTheirNotices := by
  unfold Obligations.ConditionRecordsFollowTheirNotices
  intro s k present latching before after t one derates
  have noticed : (s.cond.get k).noticed k present = after := by
    simp only [CondState.noticed, latching_iff]
    rfl
  have ht : t = changeRecord k after s := congrArg (changeRecord k · s) noticed
  refine ⟨fun h => ht.trans (changeRecord_same h.symm), fun h => ?_⟩
  have hx : t = { s with cond := _, link := _, arb := _ } := ht.trans (changeRecord_changed (Ne.symm h))
  have hcond : t.cond = s.cond.set k after := congrArg State.cond hx
  have hderate : t.arb.derate = classFlag (s.cond.inForce .derate) (t.cond.inForce .derate) s.arb.derate := by
    rw [hcond]
    exact congrArg (fun x => x.arb.derate) hx
  have hstop : t.arb.stop = classFlag (s.cond.inForce .stop) (t.cond.inForce .stop) s.arb.stop := by
    rw [hcond]
    exact congrArg (fun x => x.arb.stop) hx
  have kept {j : CondKind} (hj : k ≠ j) : t.cond.get j = s.cond.get j := by
    rw [hcond, CondTable.get_set_other _ _ hj.symm]
  refine ⟨fun j => by rw [hcond, CondTable.get_set], ?_, ?_, ?_, fun hd => ?_, fun hd => ?_, fun h1 h2 => ?_, fun h1 => ?_⟩
  · rw [hcond]
    exact countOf_set _ _ _ _
  · rw [hcond]
    exact countOf_set _ _ _ _
  · rw [hderate, hstop, hcond]
    exact hx
  · have counted (x : State) : derates x ↔ 0 < x.cond.inForce .derate := by
      rw [inForce_derate]
      show x.cond.get .oilHigh = .present ∨ x.cond.get .loopOver = .present ↔ _
      by_cases h1 : x.cond.get .oilHigh = .present <;> by_cases h2 : x.cond.get .loopOver = .present <;> simp [h1, h2]
    rw [counted] at hd ⊢
    rw [hderate]
    by_cases hk : k = .oilHigh
    · have other : t.cond.get .loopOver = s.cond.get .loopOver := kept (by rw [hk]; decide)
      refine classFlag_iff hd ?_ ?_ <;> rw [inForce_derate, inForce_derate, other] <;> split <;> split <;> omega
    · have other : t.cond.get .oilHigh = s.cond.get .oilHigh := kept hk
      refine classFlag_iff hd ?_ ?_ <;> rw [inForce_derate, inForce_derate, other] <;> split_ifs <;> omega
  · have counted (x : State) : x.cond.get .oilOver = .present ↔ 0 < x.cond.inForce .stop := by
      rw [inForce_stop]
      by_cases h1 : x.cond.get .oilOver = .present <;> simp [h1]
    rw [counted] at hd ⊢
    rw [hstop]
    refine classFlag_iff hd ?_ ?_ <;> rw [inForce_stop, inForce_stop] <;> split_ifs <;> omega
  · rw [hderate, inForce_derate, inForce_derate, kept h1, kept h2, classFlag_same]
  · rw [hstop, inForce_stop, inForce_stop, kept h1, classFlag_same]

/-! ## CLEAR (R160, R161) -/

theorem kindOf_number (k : CondKind) : kindOf? k.number = some k := by
  rcases k with _ | _ | _ | _ | _ | u | u | u | u | u | r | _ | _ | _ | _
  case sensorLost => cases r <;> rfl
  case brushStall => cases u <;> rfl
  case brushLag => cases u <;> rfl
  case brushStarved => cases u <;> rfl
  case armTimeout => cases u <;> rfl
  case switch => cases u <;> rfl
  all_goals rfl

theorem runPlanner_plans {u : BrushUnit} {s : State} (h : s.mc.mode.plans = true) :
    runPlanner u s = runStartTest (planStep u s) := if_pos h

theorem Mode.plans_iff (m : Mode) : m.plans = true ↔ ¬ (m = .standby ∨ m = .settle) := by cases m <;> decide

theorem pairsClear_iff (w : Switches) :
    pairsClear w = true ↔ ¬ (w.isIn = true ∧ w.out = true ∨ w.up = true ∧ w.down = true) := by
  simp only [pairsClear, Switches.bothReach, Switches.bothHeight, Bool.and_eq_true, Bool.not_eq_true',
    ← Bool.not_eq_true, not_or]

/-- The end of a unit's FAULT (R88), by its conditions and the switches it reads. -/
theorem faultCleared_stays {u : BrushUnit} {s : State}
    (h : ¬ ((s.armOf u).activity = .fault ∧ s.cond.get (.armTimeout u) = .clear ∧ s.cond.get (.switch u) = .clear)) :
    faultCleared u s = s := if_neg h

theorem faultCleared_ends {u : BrushUnit} {s : State}
    (h : (s.armOf u).activity = .fault ∧ s.cond.get (.armTimeout u) = .clear ∧ s.cond.get (.switch u) = .clear) :
    faultCleared u s =
      if !pairsClear ((readSwitches u s).pins.switches.get u) then switchFault u (readSwitches u s)
      else if (readSwitches u s).mc.mode.plans then runPlanner u (readSwitches u s)
      else setActivity u .idle (readSwitches u s) := if_pos h

theorem readSwitches_pins (u : BrushUnit) (s : State) : (readSwitches u s).pins = s.pins :=
  ((inner_sameShell s).loose.plain.readSwitches (SameShell.refl s)).pins

/-- Settles O53: CLEAR by the kind's state, and the end of a FAULT by the switches. -/
theorem clearEndsALatchedCondition : Obligations.ClearEndsALatchedCondition := by
  unfold Obligations.ClearEndsALatchedCondition
  intro s tag n hr h latching
  have judged : exec (.clear tag [n]) s = finish (takeRequest 0x15 tag [n] (guarded true (takeClear n.toNat)) s) := rfl
  refine ⟨exec_busy rfl rfl (by decide) hr, fun hs hn => ?_, fun k hs hk => ?_, fun u => ?_⟩
  · have none : kindOf? n.toNat = none := List.getElem?_eq_none hn
    rw [judged]
    exact finish_judged_answered hr hs (by rw [takeClear, none]; rfl)
  · intro cleared code ended
    have kind : kindOf? n.toNat = some k := hk ▸ kindOf_number k
    have hlatching : k.latching = true ↔ k ∈ latching := latching_iff k
    have taken : takeClear n.toNat h =
        if k.latching ∧ s.cond.get k = .latched then (ended, [Result.ok.code, (ended.cond.get k).code])
        else if k.latching ∧ s.cond.get k = .present then (h, [Result.stillPresent.code, CondState.present.code])
        else (h, [Result.ok.code, (s.cond.get k).code]) := by
      have reaction : clearedReaction k cleared = ended := by cases k <;> rfl
      rw [takeClear, kind, ← reaction]
      rfl
    rw [judged]
    refine ⟨fun hl hc => ?_, fun hl hc => ?_, fun hl => ?_⟩
    · refine (finish_judged hr hs (taken.trans (if_pos ⟨hlatching.2 hl, hc⟩))).trans ?_
      cases ended.cond.get k <;> rfl
    · refine finish_judged_answered hr hs (taken.trans ((if_neg ?_).trans (if_pos ⟨hlatching.2 hl, hc⟩)))
      rw [hc]
      exact fun h => nomatch h.2
    · have hcode : (s.cond.get k).code = code := by
        unfold code
        cases s.cond.get k <;> rfl
      refine finish_judged_answered hr hs (taken.trans ?_)
      rw [if_neg, if_neg, hcode]
      · rfl
      · rintro ⟨hl', hc⟩
        rcases hl with hl | hl
        · exact hl (hlatching.1 hl')
        · rw [hc] at hl
          exact nomatch hl
      · rintro ⟨hl', hc⟩
        rcases hl with hl | hl
        · exact hl (hlatching.1 hl')
        · rw [hc] at hl
          exact nomatch hl
  · intro a ends read w both
    have pairs : pairsClear ((readSwitches u s).pins.switches.get u) = true ↔ ¬ both := by
      rw [readSwitches_pins]
      exact pairsClear_iff w
    refine ⟨faultCleared_stays, fun h hb => ?_, fun h hb => ?_⟩
    · rw [faultCleared_ends h, Bool.eq_false_iff.2 fun e => pairs.1 e hb]
      rfl
    · rw [faultCleared_ends h, pairs.2 hb]
      by_cases hm : read.mc.mode = .standby ∨ read.mc.mode = .settle
      · rw [if_pos hm]
        exact if_neg fun e => (Mode.plans_iff _).1 e hm
      · rw [if_neg hm]
        have plans : read.mc.mode.plans = true := (Mode.plans_iff _).2 hm
        exact (if_pos plans).trans (runPlanner_plans plans)

/-! ## The Monitor's limits (R157, R158) -/

theorem forcedParking_moves {s : State} (h : s.mc.mode = .transport ∨ s.mc.mode = .work ∨ s.mc.mode = .stowing) :
    forcedParking s = enterTravel .parking s := by
  rcases h with h | h | h <;> rw [forcedParking, h]

theorem forcedParking_stays {s : State} (h : ¬ (s.mc.mode = .transport ∨ s.mc.mode = .work ∨ s.mc.mode = .stowing)) :
    forcedParking s = s := by
  unfold forcedParking
  cases hm : s.mc.mode with
  | transport => exact absurd (Or.inl hm) h
  | work => exact absurd (Or.inr (Or.inl hm)) h
  | stowing => exact absurd (Or.inr (Or.inr hm)) h
  | _ => rfl

/-- Settles O54: each test by its two limits. -/
theorem monitorTestsItsLimits : Obligations.MonitorTestsItsLimits := by
  unfold Obligations.MonitorTestsItsLimits
  intro s t a b high stop loop stopped
  have raised {h : CondState} {x y : Prop} (hc : h = .present) : ¬ (h = .clear ∧ x) := by
    rw [hc]
    exact fun e => nomatch e.1
  have mode : stopped.mc = s.mc := notice_mc _ _ _
  have above : s.setup.loopOver ≤ max a b ↔ s.setup.loopOver ≤ a ∨ s.setup.loopOver ≤ b := le_max_iff
  have below : max a b < s.setup.loopOver - s.setup.loopHyst ↔
      a < s.setup.loopOver - s.setup.loopHyst ∧ b < s.setup.loopOver - s.setup.loopHyst := max_lt_iff
  rw [above, below]
  refine ⟨rfl, fun h1 h2 => if_pos ⟨h1, h2⟩, fun h1 h2 => (if_neg (raised (y := True) h1)).trans (if_pos ⟨h1, h2⟩),
    fun h1 h2 => (if_neg h1).trans (if_neg h2), fun h1 h2 => ⟨fun hm => ?_, fun hm => ?_⟩,
    fun h1 h2 => (if_neg fun e => e.1 h1).trans (if_pos ⟨h1, h2⟩), fun h1 h2 => (if_neg h1).trans (if_neg h2),
    fun h1 h2 => if_pos ⟨h1, h2⟩, fun h1 h2 => (if_neg (raised (y := True) h1)).trans (if_pos ⟨h1, h2⟩),
    fun h1 h2 => (if_neg h1).trans (if_neg h2)⟩
  · exact (if_pos ⟨h1, h2⟩).trans (forcedParking_moves (by rw [mode]; exact hm))
  · exact (if_pos ⟨h1, h2⟩).trans (forcedParking_stays (by rw [mode]; exact hm))

end Sys2Proof.Machine
end

section
/-! The Recipe Unit's table: RECIPE_WRITE, RECIPE_READ, RECIPE_COPY, RECIPE_ERASE (R127 to R131) and REFRESH (R135). -/

namespace Sys2Proof.Machine

/-! ## Slot numbers -/

theorem slotOf_some {b : Byte} {n : Fin 32} (h : n.val = b.toNat) : slotOf? b = some n := by
  have hb : b.toNat < 32 := h ▸ n.isLt
  rw [slotOf?, dif_pos hb]
  exact congrArg some (Fin.ext h.symm)

theorem slotOf_none {b : Byte} (h : 31 < b.toNat) : slotOf? b = none := dif_neg (by omega)

/-! ## RECIPE_COPY and RECIPE_ERASE (R130, R131) -/

section
variable {s : State} {a b : Byte} {m n : Fin 32}

theorem takeRecipeCopy_badSlot (h : 31 < a.toNat ∨ 31 < b.toNat) : takeRecipeCopy a b s = answer .badSlot s := by
  unfold takeRecipeCopy
  rcases h with h | h
  · rw [slotOf_none h]
  · rw [slotOf_none h]
    cases slotOf? a <;> rfl

theorem takeRecipeCopy_slots (ha : m.val = a.toNat) (hb : n.val = b.toNat) :
    takeRecipeCopy a b s = if s.recipes.slots[m].valid then
        answer .ok (s.putSlot n ⟨true, s.recipes.slots[m].fields, Vector.replicate 23 true⟩)
      else answer .notValid s := by
  rw [takeRecipeCopy, slotOf_some ha, slotOf_some hb]

theorem takeRecipeErase_slot (ha : n.val = a.toNat) :
    takeRecipeErase a s =
      answer .ok (s.putSlot n ⟨decide (n = 0), RecipeFields.defaults, Vector.replicate 23 false⟩) := by
  have first : (n.val == 0) = decide (n = 0) := by
    rw [Bool.eq_iff_iff, beq_iff_eq, decide_eq_true_eq]
    exact Fin.val_eq_zero_iff
  simp only [takeRecipeErase, slotOf_some ha, first]
  rfl

theorem takeRecipeErase_badSlot (h : 31 < a.toNat) : takeRecipeErase a s = answer .badSlot s := by
  simp only [takeRecipeErase, slotOf_none h]

end

/-- Settles O56: each request by the slots its body names. -/
theorem recipeSlotsAreCopiedAndErased : Obligations.RecipeSlotsAreCopiedAndErased := by
  unfold Obligations.RecipeSlotsAreCopiedAndErased
  refine fun s tag a b => ⟨fun hr => ?_, fun hr => ?_⟩
  · have judged : exec (.recipeCopy tag [a, b]) s =
        finish (takeRequest 0x09 tag [a, b] (guarded true (takeRecipeCopy a b)) s) := rfl
    refine ⟨exec_busy rfl rfl (by decide) hr, fun hs h => ?_, fun m n hs hm hn => ⟨fun hv => ?_, fun hv => ?_⟩⟩
    · rw [judged]
      exact finish_judged_answered hr hs (takeRecipeCopy_badSlot h)
    · rw [judged]
      exact finish_judged_answered hr hs ((takeRecipeCopy_slots hm hn).trans (if_neg (Bool.eq_false_iff.1 hv)))
    · rw [judged]
      exact finish_judged hr hs ((takeRecipeCopy_slots hm hn).trans (if_pos hv))
  · have judged : exec (.recipeErase tag [a]) s =
        finish (takeRequest 0x0A tag [a] (guarded true (takeRecipeErase a)) s) := rfl
    refine ⟨exec_busy rfl rfl (by decide) hr, fun hs h => ?_, fun n hs hn => ?_⟩
    · rw [judged]
      exact finish_judged_answered hr hs (takeRecipeErase_badSlot h)
    · rw [judged]
      exact finish_judged hr hs (takeRecipeErase_slot hn)

/-! ## REFRESH (R135) -/

theorem refreshes_fin (x : Slot) (groups : Byte) (i : Fin 23) :
    refreshes x groups i.val = (x.dirty[i] && groups.toNat.testBit (fieldGroup i.val)) := by
  simp [refreshes]

theorem any_refreshes_iff (x : Slot) (groups : Byte) :
    (List.range 23).any (refreshes x groups) = true ↔
      ∃ i : Fin 23, x.dirty[i] = true ∧ groups.toNat.testBit (fieldGroup i.val) = true := by
  rw [List.any_eq_true]
  constructor
  · rintro ⟨i, hi, h⟩
    rw [refreshes_fin x groups ⟨i, List.mem_range.1 hi⟩, Bool.and_eq_true] at h
    exact ⟨_, h⟩
  · rintro ⟨i, h⟩
    exact ⟨i.val, List.mem_range.2 i.isLt, by rw [refreshes_fin, Bool.and_eq_true]; exact h⟩

theorem refreshEntry_eq (n : Fin 32) (x : Slot) (groups : Byte) (e : StackEntry) :
    refreshEntry n x groups e = if e.source = n then
      ⟨n, Vector.ofFn fun i => if x.dirty[i] && groups.toNat.testBit (fieldGroup i.val) then x.fields[i]
        else e.fields[i]⟩ else e := by
  unfold refreshEntry
  split
  · next h => simp only [refreshes_fin, h]
  · rfl

theorem takeRefresh_badSlot {slot groups : Byte} {s : State} (h : 31 < slot.toNat) :
    takeRefresh slot groups s = answer .badSlot s := by
  simp only [takeRefresh, slotOf_none h]

theorem takeRefresh_slot {slot : Byte} (groups : Byte) {s : State} {n : Fin 32} (h : n.val = slot.toNat) :
    takeRefresh slot groups s =
      (let x := s.recipes.slots[n]
       let refreshed := { s with recipes := { s.recipes with
         slots := s.recipes.slots.set n.val (refreshSlot groups x)
         base := refreshEntry n x groups s.recipes.base
         overrides := s.recipes.overrides.map (refreshEntry n x groups) } }
       (if s.recipes.top.source == n && (List.range 23).any (refreshes x groups) then recipeChange .refresh refreshed
          else refreshed, [Result.ok.code, byte (s.recipes.copiesOf n)])) := by
  simp only [takeRefresh, slotOf_some h]
  rfl

/-- Settles O58: the refreshed entries and slot, and the recipe change by the top entry. -/
theorem refreshCopiesDirtyFields : Obligations.RefreshCopiesDirtyFields := by
  unfold Obligations.RefreshCopiesDirtyFields
  intro s tag slot groups hr body
  have judged : exec (.refresh tag body) s =
      finish (takeRequest 0x0B tag body (guarded true (takeRefresh slot groups)) s) := rfl
  refine ⟨exec_busy rfl rfl (by decide) hr, fun hs h => ?_, fun n hs hn => ?_⟩
  · rw [judged]
    exact finish_judged_answered hr hs (takeRefresh_badSlot h)
  · intro x named fresh copies refreshed reaches
    have entries : refreshEntry n x groups = fresh := funext (refreshEntry_eq n x groups)
    have top : (s.recipes.top.source == n && (List.range 23).any (refreshes x groups)) = true ↔ reaches := by
      rw [Bool.and_eq_true, beq_iff_eq, any_refreshes_iff]
      rfl
    have taken : takeRefresh slot groups (s.holding 0x0B tag body) =
        (if s.recipes.top.source == n && (List.range 23).any (refreshes x groups) then recipeChange .refresh refreshed
          else refreshed, [0x00, BitVec.ofNat 8 copies]) := by
      have refreshed_of (f : StackEntry → StackEntry) (hf : f = fresh) : { s.holding 0x0B tag body with
          recipes := { s.recipes with
            slots := s.recipes.slots.set n.val (refreshSlot groups x)
            base := f s.recipes.base
            overrides := s.recipes.overrides.map f } } = refreshed := by
        rw [hf]
        rfl
      rw [takeRefresh_slot groups hn]
      exact congrArg (fun y => (if s.recipes.top.source == n && (List.range 23).any (refreshes x groups) then
        recipeChange .refresh y else y, [0x00, BitVec.ofNat 8 copies])) (refreshed_of _ entries)
    refine ⟨fun h => ?_, fun h => ?_⟩ <;> rw [judged] <;> refine finish_judged hr hs (taken.trans ?_)
    · rw [if_pos (top.2 h)]
    · rw [if_neg (mt top.1 h)]

end Sys2Proof.Machine
end

section
/-! RECIPE_WRITE and RECIPE_READ (R127 to R129). -/

namespace Sys2Proof.Machine

/-! ## The limits of Table 8-1 -/

theorem FieldLimit.apply_mask {w : Nat} (h : w ≤ 16) (v : Int) : (FieldLimit.mask w).apply v = v % 2 ^ w := by
  have dvd : ((2 : Int) ^ w) ∣ 2 ^ 16 := pow_dvd_pow 2 h
  show (((BitVec.ofInt 16 v).toNat % 2 ^ w : Nat) : Int) = _
  rw [Int.natCast_mod, BitVec.toNat_ofInt, Int.toNat_of_nonneg (Int.emod_nonneg v (by decide))]
  push_cast
  exact Int.emod_emod_of_dvd v dvd

/-! ## The pairs of a body, applied in list order (R128) -/

/-- A pair of a body as a number and a value. -/
def pairOf (p : Byte × Byte × Byte) : Byte × Int := (p.1, i16 p.2.1 p.2.2)

theorem pairsOf_flatMap (pairs : List (Byte × Byte × Byte)) :
    pairsOf (pairs.flatMap fun p => [p.1, p.2.1, p.2.2]) = some (pairs.map pairOf) := by
  induction pairs with
  | nil => rfl
  | cons p rest ih =>
    show (pairsOf (rest.flatMap fun p => [p.1, p.2.1, p.2.2])).map (fun ps => pairOf p :: ps) = _
    rw [ih]
    rfl

theorem listBody_flatMap {pairs : List (Byte × Byte × Byte)} (h1 : 1 ≤ pairs.length) (h18 : pairs.length ≤ 18) :
    listBody (pairs.flatMap fun p => [p.1, p.2.1, p.2.2]) = some (pairs.map pairOf) := by
  simp only [listBody, pairsOf_flatMap, List.length_map, h1, h18, and_self, if_true]

/-- The value that a field takes from a pair. -/
def storedOf (p : Byte × Int) : Int := ((fieldLimits[p.1.toNat]?).map fun limit => limit.apply p.2).getD p.2

theorem writePairs_cons (p : Byte × Int) (rest : List (Byte × Int)) (x : Slot) :
    writePairs (p :: rest) x = ((writePairs rest (x.write p.1.toNat (storedOf p))).1,
      if storedOf p = p.2 then (writePairs rest (x.write p.1.toNat (storedOf p))).2
      else p.1 :: (writePairs rest (x.write p.1.toNat (storedOf p))).2) := rfl

/-- The numbers answered are those of the pairs whose value was limited. -/
theorem writePairs_clamped : ∀ (ps : List (Byte × Int)) (x : Slot),
    (writePairs ps x).2 = (ps.filter fun p => decide (storedOf p ≠ p.2)).map Prod.fst
  | [], _ => rfl
  | p :: rest, x => by
    rw [writePairs_cons, List.filter_cons]
    by_cases h : storedOf p = p.2 <;> simp [h, writePairs_clamped rest]

theorem Slot.write_field (x : Slot) (n : Nat) (v : Int) (i : Fin 23) :
    (x.write n v).fields[i] = (if n = i.val then v else x.fields[i]) ∧
    (x.write n v).dirty[i] = (if n = i.val then true else x.dirty[i]) :=
  ⟨Vector.getElem_setIfInBounds i.isLt, Vector.getElem_setIfInBounds i.isLt⟩

/-- A field that no pair names keeps its value and its mark. -/
theorem writePairs_unnamed (i : Fin 23) : ∀ (ps : List (Byte × Int)) (x : Slot), (∀ p ∈ ps, p.1.toNat ≠ i.val) →
    (writePairs ps x).1.fields[i] = x.fields[i] ∧ (writePairs ps x).1.dirty[i] = x.dirty[i]
  | [], _, _ => ⟨rfl, rfl⟩
  | p :: rest, x, h => by
    obtain ⟨hf, hd⟩ := writePairs_unnamed i rest (x.write p.1.toNat (storedOf p))
      fun q hq => h q (List.mem_cons_of_mem p hq)
    obtain ⟨hf', hd'⟩ := x.write_field p.1.toNat (storedOf p) i
    rw [if_neg (h p (List.mem_cons_self ..))] at hf' hd'
    exact ⟨hf.trans hf', hd.trans hd'⟩

/-- A field that pairs name takes the value of the last of them. -/
theorem writePairs_named (i : Fin 23) : ∀ (ps : List (Byte × Int)) (x : Slot) (p : Byte × Int),
    (ps.filter fun q => q.1.toNat = i.val).getLast? = some p →
    (writePairs ps x).1.fields[i] = storedOf p ∧ (writePairs ps x).1.dirty[i] = true
  | [], _, _, h => nomatch h
  | q :: rest, x, p, h => by
    by_cases hrest : (rest.filter fun q => q.1.toNat = i.val) = []
    · have hq : q.1.toNat = i.val ∧ q = p := by
        rw [List.filter_cons, hrest] at h
        split at h
        · next e => exact ⟨of_decide_eq_true e, Option.some.inj h⟩
        · exact nomatch h
      obtain ⟨hi, rfl⟩ := hq
      obtain ⟨hf, hd⟩ := writePairs_unnamed i rest (x.write q.1.toNat (storedOf q)) fun r hr e =>
        List.not_mem_nil (hrest ▸ List.mem_filter.2 ⟨hr, decide_eq_true e⟩)
      obtain ⟨hf', hd'⟩ := x.write_field q.1.toNat (storedOf q) i
      rw [if_pos hi] at hf' hd'
      exact ⟨hf.trans hf', hd.trans hd'⟩
    · refine writePairs_named i rest _ p ?_
      rw [List.filter_cons] at h
      split at h
      · rwa [List.getLast?_cons_of_ne_nil hrest] at h
      · exact h

/-- The reply names the clamped numbers, each once. -/
theorem clampedReply_eq (numbers : List Byte) :
    clampedReply numbers = if numbers.eraseDups = [] then [0x00] else 0x01 :: numbers.eraseDups := by
  cases numbers with
  | nil => rfl
  | cons n rest =>
    rw [List.eraseDups_cons, if_neg (List.cons_ne_nil _ _), clampedReply, if_neg (by simp), List.eraseDups_cons]
    rfl

section
variable {slot : Byte} {pairs : List (Byte × Int)} {s : State}

theorem takeRecipeWrite_badSlot (h : 31 < slot.toNat) : takeRecipeWrite slot pairs s = answer .badSlot s := by
  simp only [takeRecipeWrite, slotOf_none h]

theorem takeRecipeWrite_badField {n : Fin 32} (hn : n.val = slot.toNat) (h : ∃ p ∈ pairs, 22 < p.1.toNat) :
    takeRecipeWrite slot pairs s = answer .badTable s := by
  have bad : (pairs.any fun p => decide (22 < p.1.toNat)) = true := by simpa using h
  simp only [takeRecipeWrite, slotOf_some hn, bad, if_true]

theorem takeRecipeWrite_taken {n : Fin 32} (hn : n.val = slot.toNat) (h : ∀ p ∈ pairs, p.1.toNat ≤ 22) :
    takeRecipeWrite slot pairs s = (s.putSlot n { (writePairs pairs s.recipes.slots[n]).1 with valid := true },
      clampedReply (writePairs pairs s.recipes.slots[n]).2) := by
  have good : (pairs.any fun p => decide (22 < p.1.toNat)) = false := by simpa using h
  simp only [takeRecipeWrite, slotOf_some hn, good, Bool.false_eq_true, if_false]

end

/-! ## The dirty-mark bytes (Table 11-4) -/

/-- A number made of the powers of two below `n` that pass a test: it lies below 2 to the n, and its bits are the test. -/
theorem powers_testBit (f : Nat → Bool) : ∀ n : Nat,
    let sum := ((List.range n).filter f).foldl (fun acc i => acc + 2 ^ i) 0
    sum < 2 ^ n ∧ ∀ i, i < n → sum.testBit i = f i
  | 0 => ⟨Nat.one_pos, fun _ h => absurd h (Nat.not_lt_zero _)⟩
  | n + 1 => by
    intro sum
    obtain ⟨hlt, hbit⟩ := powers_testBit f n
    have pow : 2 ^ (n + 1) = 2 ^ n + 2 ^ n := by ring
    by_cases h : f n = true
    · have hsum : sum = 2 ^ n + ((List.range n).filter f).foldl (fun acc i => acc + 2 ^ i) 0 := by
        simp [sum, List.range_succ, h, Nat.add_comm]
      refine ⟨by omega, fun i hi => ?_⟩
      obtain hi | rfl : i < n ∨ i = n := by omega
      · rw [hsum, Nat.testBit_two_pow_add_gt hi, hbit i hi]
      · rw [hsum, Nat.testBit_two_pow_add_eq, Nat.testBit_lt_two_pow hlt, h]
        rfl
    · have hsum : sum = ((List.range n).filter f).foldl (fun acc i => acc + 2 ^ i) 0 := by
        simp [sum, List.range_succ, h]
      refine ⟨by omega, fun i hi => ?_⟩
      obtain hi | rfl : i < n ∨ i = n := by omega
      · rw [hsum, hbit i hi]
      · rw [hsum, Nat.testBit_lt_two_pow hlt, Bool.eq_false_iff.2 h]

theorem dirtyBytes_testBit (d : Vector Bool 23) (i : Fin 23) :
    (((dirtyBytes d).map BitVec.toNat)[i.val / 8]?.getD 0).testBit (i.val % 8) = d[i] := by
  obtain ⟨hlt, hbit⟩ := powers_testBit (fun j => d[8 * (i.val / 8) + j]?.getD false) 8
  have place : ((dirtyBytes d).map BitVec.toNat)[i.val / 8]?.getD 0 =
      ((List.range 8).filter fun j => d[8 * (i.val / 8) + j]?.getD false).foldl (fun acc i => acc + 2 ^ i) 0 := by
    have h3 : i.val / 8 < 3 := by omega
    simp only [dirtyBytes, List.map_map, List.getElem?_map, List.getElem?_range h3, Option.map_some, Option.getD_some,
      Function.comp_apply, byte, BitVec.toNat_ofNat]
    exact Nat.mod_eq_of_lt hlt
  have split : 8 * (i.val / 8) + i.val % 8 = i.val := by omega
  rw [place, hbit _ (Nat.mod_lt _ (by decide)), split]
  simp

/-! ## Settling -/

theorem unstatedReply_spec (n : Nat) : ∃ (code : Byte) (rest : List Byte),
    code ∈ ([0x00, 0x01, 0x02, 0x10, 0x11, 0x12, 0x13, 0x14, 0x15, 0x16, 0x17, 0x18, 0x19, 0x1A, 0x1B, 0x1E, 0x1F] :
      List Byte) ∧
    (0x10 ≤ code.toNat → rest = []) ∧ rest.length ≤ 55 ∧ unstatedReply n = code :: rest := by
  have codes : ∀ i : Fin 17, allResults[i].code ∈ ([0x00, 0x01, 0x02, 0x10, 0x11, 0x12, 0x13, 0x14, 0x15, 0x16, 0x17,
      0x18, 0x19, 0x1A, 0x1B, 0x1E, 0x1F] : List Byte) := by decide
  by_cases h : (allResults[Config.unstatedResult n].code).toNat < 0x10
  · exact ⟨_, _, codes _, fun hc => absurd h (not_lt.2 hc), List.length_take_le _ _, if_pos h⟩
  · exact ⟨_, [], codes _, fun _ => rfl, Nat.zero_le _, if_neg h⟩

section
variable {type number : Byte} {s : State}

theorem takeRecipeRead_slot (ht : type = 0) {n : Fin 32} (hn : n.val = number.toNat) :
    takeRecipeRead type number s = (s, [0x00, type, number, if s.recipes.slots[n].valid then 1 else 0] ++
      s.recipes.slots[n].fields.toList.flatMap bytes16 ++ dirtyBytes s.recipes.slots[n].dirty) := by
  rw [takeRecipeRead, if_pos ht, slotOf_some hn]
  rfl

theorem takeRecipeRead_entry (ht : type = 1) {e : StackEntry}
    (he : (s.recipes.base :: s.recipes.overrides)[number.toNat]? = some e) :
    takeRecipeRead type number s = (s, [0x00, type, number, BitVec.ofNat 8 e.source.val, if number = 0 then 0 else 1] ++
      e.fields.toList.flatMap bytes16) := by
  rw [takeRecipeRead, if_neg (by rw [ht]; decide), if_pos ht, show s.recipes.entryAt number.toNat = some e from he]
  rfl

theorem takeRecipeRead_badSlot (h : (type = 0 ∧ 31 < number.toNat) ∨ (type = 1 ∧ s.recipes.depth ≤ number.toNat)) :
    takeRecipeRead type number s = answer .badSlot s := by
  rcases h with ⟨ht, h⟩ | ⟨ht, h⟩
  · simp only [takeRecipeRead, if_pos ht, slotOf_none h]
  · have none : s.recipes.entryAt number.toNat = none := List.getElem?_eq_none h
    rw [takeRecipeRead, if_neg (by rw [ht]; decide), if_pos ht, none]

theorem takeRecipeRead_other (h : 1 < type.toNat) :
    takeRecipeRead type number s = ({ s with free := s.free + 1 }, unstatedReply s.free) := by
  rw [takeRecipeRead, if_neg, if_neg] <;> rintro rfl <;> exact absurd h (by decide)

end

/-- Settles O55: RECIPE_WRITE by its checks and its pairs, RECIPE_READ by its place type. -/
theorem recipeSlotsAreWrittenAndRead : Obligations.RecipeSlotsAreWrittenAndRead := by
  unfold Obligations.RecipeSlotsAreWrittenAndRead
  refine ⟨fun s tag slot pairs h1 h18 => ?_, rfl, fun lo hi v h => clamp_eq h v, fun w v h => FieldLimit.apply_mask h v,
    fun s tag type number hr hs => ?_⟩
  · intro body value stored clamped hr
    have fits : lengthFits 0x07 body.length = true := by
      have len : body.length = 3 * pairs.length + 1 := by
        simp [body, List.length_flatMap, Nat.mul_comm]
      rw [len]
      simp [lengthFits]
      omega
    have judged : exec (.recipeWrite tag body) s =
        finish (takeRequest 0x07 tag body (guarded true (takeRecipeWrite slot (pairs.map pairOf))) s) :=
      congrArg (fun l : Option (List (Byte × Int)) => finish (takeRequest 0x07 tag body (fun x => match l with
        | some ps => guarded true (takeRecipeWrite slot ps) x
        | none => guarded false (answer .ok) x) s)) (listBody_flatMap h1 h18)
    refine ⟨exec_busy rfl fits (by decide) hr, fun hs h => ?_, fun hs h hp => ?_, fun n hs hn hp => ?_⟩
    · rw [judged]
      exact finish_judged_answered hr hs (takeRecipeWrite_badSlot h)
    · obtain ⟨p, hmem, hp⟩ := hp
      rw [judged]
      exact finish_judged_answered hr hs (takeRecipeWrite_badField (n := ⟨slot.toNat, by omega⟩) rfl
        ⟨pairOf p, List.mem_map_of_mem hmem, hp⟩)
    · have fields : ∀ p ∈ pairs.map pairOf, p.1.toNat ≤ 22 := by
        intro q hq
        obtain ⟨p, hmem, rfl⟩ := List.mem_map.1 hq
        exact hp p hmem
      have hstored : ∀ p ∈ pairs, storedOf (pairOf p) = stored p := fun p hmem => by
        have listed : fieldLimits[p.1.toNat]? = some _ := List.getElem?_eq_getElem (Nat.lt_succ_of_le (hp p hmem))
        show ((fieldLimits[p.1.toNat]?).map fun l => l.apply (value p)).getD _ =
          ((fieldLimits[p.1.toNat]?).map fun l => l.apply (value p)).getD 0
        rw [listed]
        rfl
      have hclamped : clampedReply (writePairs (pairs.map pairOf) s.recipes.slots[n]).2 =
          if clamped = [] then [0x00] else 0x01 :: clamped := by
        rw [clampedReply_eq, writePairs_clamped, List.filter_map, List.map_map]
        have same : (pairs.filter ((fun p : Byte × Int => decide (storedOf p ≠ p.2)) ∘ pairOf)) =
            pairs.filter fun p => decide (stored p ≠ value p) :=
          List.filter_congr fun p hmem => by
            show decide (storedOf (pairOf p) ≠ value p) = _
            rw [hstored p hmem]
        rw [same]
        rfl
      refine ⟨{ (writePairs (pairs.map pairOf) s.recipes.slots[n]).1 with valid := true }, rfl,
        fun i => ⟨fun p hlast => ?_, fun h => writePairs_unnamed i _ _ ?_⟩, ?_⟩
      · have hmem : p ∈ pairs := (List.mem_filter.1 (List.mem_of_getLast? hlast)).1
        rw [← hstored p hmem]
        refine writePairs_named i _ _ (pairOf p) ?_
        rw [List.filter_map, List.getLast?_map]
        exact congrArg (Option.map pairOf) hlast
      · intro q hq
        obtain ⟨p, hmem, rfl⟩ := List.mem_map.1 hq
        exact h p hmem
      · rw [judged, ← hclamped]
        exact finish_judged hr hs (takeRecipeWrite_taken hn fields)
  · have judged : exec (.recipeRead tag [type, number]) s =
        finish (takeRequest 0x08 tag [type, number] (guarded true (takeRecipeRead type number)) s) := rfl
    simp only [judged]
    refine ⟨fun h => finish_judged_answered hr hs (takeRecipeRead_badSlot h), fun n ht hn => ⟨_, ?_,
      dirtyBytes_testBit s.recipes.slots[n].dirty, finish_judged_answered hr hs (takeRecipeRead_slot ht hn)⟩,
      fun e ht he => finish_judged_answered hr hs (takeRecipeRead_entry ht he), fun h => ?_⟩
    · simp [dirtyBytes]
    · obtain ⟨code, rest, hcode, halone, hlen, hreply⟩ := unstatedReply_spec s.free
      refine ⟨code, rest, hcode, halone, hlen, (finish_judged hr hs (takeRecipeRead_other h)).trans ?_⟩
      rw [State.holding_free, hreply]
      rfl

end Sys2Proof.Machine
end

section
/-! The zone queue: ZONE_ADD, ZONE_CLEAR, ZONE_LIST (R138, R139) and the odometer update (R140, R141); the recipe stack:
PUSH and POP, and what an announced recipe does to its receivers (R132 to R136). -/

namespace Sys2Proof.Machine

/-! ## ZONE_ADD (R138) -/

/-- A new entry stands behind the nearer entries and before the farther. -/
theorem insertZone_eq (odometer : Word32) (z : ZoneEntry) : ∀ zones : List ZoneEntry, ∃ nearer farther,
    zones = nearer ++ farther ∧ (∀ e ∈ nearer, distanceAhead odometer e.mark ≤ distanceAhead odometer z.mark) ∧
    (∀ e, farther.head? = some e → distanceAhead odometer z.mark < distanceAhead odometer e.mark) ∧
    insertZone odometer z zones = nearer ++ z :: farther
  | [] => ⟨[], [], rfl, fun _ h => absurd h List.not_mem_nil, fun _ h => (nomatch h), rfl⟩
  | h :: t => by
    by_cases hlt : distanceAhead odometer z.mark < distanceAhead odometer h.mark
    · refine ⟨[], h :: t, rfl, fun _ h => absurd h List.not_mem_nil, fun e he => ?_, if_pos hlt⟩
      obtain rfl := Option.some.inj he
      exact hlt
    · obtain ⟨nearer, farther, rfl, hnear, hfar, hinsert⟩ := insertZone_eq odometer z t
      refine ⟨h :: nearer, farther, rfl, fun e he => ?_, hfar, ?_⟩
      · rcases List.mem_cons.1 he with rfl | he
        · exact not_lt.1 hlt
        · exact hnear e he
      · rw [insertZone, if_neg hlt, hinsert]
        rfl

section
variable {mark : Word32} {slot tag : Byte} {s : State}

theorem takeZoneAdd_badSlot (h : 31 < slot.toNat) : takeZoneAdd mark slot tag s = zoneReply .badSlot s := by
  simp only [takeZoneAdd, slotOf_none h]

theorem takeZoneAdd_slot {n : Fin 32} (h : n.val = slot.toNat) :
    takeZoneAdd mark slot tag s =
      if 2 ^ 31 ≤ distanceAhead s.pcu.odometer mark then zoneReply .late s
      else if s.recipes.zones.any fun e => e.mark == mark then
        zoneReply .replaced (s.putZones (s.recipes.zones.map fun e => if e.mark = mark then ⟨mark, n, tag⟩ else e))
      else if 8 ≤ s.recipes.zones.length then zoneReply .full s
      else zoneReply .ok (s.putZones (insertZone s.pcu.odometer ⟨mark, n, tag⟩ s.recipes.zones)) := by
  simp only [takeZoneAdd, slotOf_some h]

end

/-! ## The odometer update (R140, R141) -/

theorem movesBack_iff (reference n : Word32) :
    movesBack reference n = true ↔ 1 ≤ (reference - n).toNat ∧ (reference - n).toNat ≤ 2 ^ 31 := by
  simp only [movesBack, Bool.and_eq_true, decide_eq_true_eq]

theorem reached_eq (n mark : Word32) : reached n mark = (decide (mark = n) || tooFar n mark) := by
  have here : (distanceAhead n mark == 0) = decide (mark = n) := by
    rw [Bool.eq_iff_iff, beq_iff_eq, decide_eq_true_eq]
    rw [← sub_eq_zero (a := mark)]
    exact ⟨fun h => BitVec.eq_of_toNat_eq h, fun h => congrArg BitVec.toNat h⟩
  rw [reached, here]
  rfl

/-- The entries dropped are reported and change nothing else. -/
theorem foldl_zoneReport (o : ZoneOutcome) : ∀ (zs : List ZoneEntry) (s : State),
    zs.foldl (fun s z => zoneReport z o s) s =
      { s with link := zs.foldl (fun l z => l.post (.zone z.tag z.slot z.mark o)) s.link }
  | [], _ => rfl
  | _ :: zs, _ => foldl_zoneReport o zs _

/-- A zone entry names a valid slot. -/
def zoneValid (s : State) (z : ZoneEntry) : Bool := s.recipes.slots[z.slot].valid

theorem takeZone_eq (z : ZoneEntry) (s : State) :
    takeZone z s = { s with
      recipes := { s.recipes with
        base := if zoneValid s z then ⟨z.slot, s.recipes.slots[z.slot].fields⟩ else s.recipes.base }
      link := s.link.post (.zone z.tag z.slot z.mark (if zoneValid s z then .entered else .skipped)) } := by
  unfold takeZone zoneValid zoneReport State.post
  dsimp only
  split <;> rfl

/-- The entries that are due: the last valid one gives the base, and each gives its report. -/
theorem foldl_takeZone : ∀ (zs : List ZoneEntry) (s : State),
    zs.foldl (fun s z => takeZone z s) s = { s with
      recipes := { s.recipes with
        base := (((zs.filter (zoneValid s)).getLast?).map fun z => ⟨z.slot, s.recipes.slots[z.slot].fields⟩).getD
          s.recipes.base }
      link := zs.foldl
        (fun l z => l.post (.zone z.tag z.slot z.mark (if zoneValid s z then .entered else .skipped))) s.link }
  | [], _ => rfl
  | z :: zs, s => by
    rw [List.foldl_cons, foldl_takeZone zs, takeZone_eq]
    have base : (((zs.filter (zoneValid s)).getLast?).map fun z => (⟨z.slot, s.recipes.slots[z.slot].fields⟩ : StackEntry)).getD
        (if zoneValid s z then ⟨z.slot, s.recipes.slots[z.slot].fields⟩ else s.recipes.base) =
        ((((z :: zs).filter (zoneValid s)).getLast?).map fun z => ⟨z.slot, s.recipes.slots[z.slot].fields⟩).getD
          s.recipes.base := by
      rw [List.filter_cons]
      split
      · rw [List.getLast?_cons]
        cases (zs.filter (zoneValid s)).getLast? <;> rfl
      · rfl
    exact congrArg (fun b : StackEntry => { s with
      recipes := { s.recipes with base := b }
      link := (z :: zs).foldl
        (fun (l : LinkPort) (z : ZoneEntry) => l.post (.zone z.tag z.slot z.mark (if zoneValid s z then .entered else .skipped))) s.link }) base

theorem depth_one_iff (x : Recipes) : (x.depth == 1) = true ↔ x.overrides = [] := by
  rw [beq_iff_eq, Recipes.depth, Nat.add_eq_right, List.length_eq_zero_iff]

/-- Settles O59: the zone requests by their cases, and the update by the direction of the movement. -/
theorem zonesAreQueuedAndEntered : Obligations.ZonesAreQueuedAndEntered := by
  unfold Obligations.ZonesAreQueuedAndEntered
  refine ⟨⟨fun s tag m3 m2 m1 m0 slot zoneTag => ?_, fun s tag => ?_⟩, fun s => ?_⟩
  · intro body mark ahead zones answered hr
    have judged : exec (.zoneAdd tag body) s =
        finish (takeRequest 0x0E tag body (guarded true (takeZoneAdd mark slot zoneTag)) s) := rfl
    refine ⟨exec_busy rfl rfl (by decide) hr, fun hs h => ?_, fun n hs hn => ?_⟩
    · rw [judged]
      exact finish_judged hr hs (takeZoneAdd_badSlot h)
    · have taken : takeZoneAdd mark slot zoneTag (s.holding 0x0E tag body) = _ := takeZoneAdd_slot hn
      have some_iff : (zones.any fun e => e.mark == mark) = true ↔ ∃ z ∈ zones, z.mark = mark := by
        simp only [List.any_eq_true, beq_iff_eq]
      rw [judged]
      refine ⟨fun h => ?_, fun h hz => ?_, fun h hz h8 => ?_, fun h hz h8 => ?_⟩
      · exact finish_judged hr hs (taken.trans (if_pos h))
      · exact finish_judged hr hs (taken.trans ((if_neg (not_le.2 h)).trans (if_pos (some_iff.2 hz))))
      all_goals
        have none : ¬ (zones.any fun e => e.mark == mark) = true :=
          mt some_iff.1 fun ⟨z, hmem, hmark⟩ => hz z hmem hmark
      · exact finish_judged hr hs (taken.trans ((if_neg (not_le.2 h)).trans ((if_neg none).trans (if_pos h8))))
      · obtain ⟨nearer, farther, hzones, hnear, hfar, hinsert⟩ :=
          insertZone_eq s.pcu.odometer ⟨mark, n, zoneTag⟩ zones
        refine ⟨nearer, farther, hzones, hnear, hfar, ?_⟩
        rw [← hinsert]
        exact finish_judged hr hs
          (taken.trans ((if_neg (not_le.2 h)).trans ((if_neg none).trans (if_neg (not_le.2 h8)))))
  · intro count
    refine ⟨fun hr => ?_, fun hr => ?_⟩
    · have judged : exec (.zoneClear tag []) s = finish (takeRequest 0x0F tag [] (guarded true takeZoneClear) s) := rfl
      refine ⟨exec_busy rfl rfl (by decide) hr, fun hs => ?_⟩
      rw [judged]
      exact finish_judged (act := takeZoneClear) hr hs rfl
    · have judged : exec (.zoneList tag []) s = finish (takeRequest 0x10 tag [] (guarded true takeZoneList) s) := rfl
      refine ⟨exec_busy rfl rfl (by decide) hr, fun hs => ?_⟩
      rw [judged]
      exact finish_judged_answered (act := takeZoneList) hr hs rfl
  · intro n zones back far passed due valid
    have hpassed : (fun z : ZoneEntry => reached n z.mark) = passed := funext fun z => reached_eq n z.mark
    refine ⟨fun h => ?_, fun h => ?_⟩
    · rw [odometerUpdate, if_pos ((movesBack_iff _ _).2 h), reverseUpdate, foldl_zoneReport]
      rfl
    · intro taken
      have hdue : dueZones n zones = due := congrArg (zones.takeWhile ·) hpassed
      have hrest : restZones n zones = zones.dropWhile passed := congrArg (zones.dropWhile ·) hpassed
      have base : (((due.filter valid).getLast?).map fun z =>
          (⟨z.slot, s.recipes.slots[z.slot].fields⟩ : StackEntry)).getD s.recipes.base = taken.recipes.base := by
        show _ = (match (due.filter valid).getLast? with
          | some z => (⟨z.slot, s.recipes.slots[z.slot].fields⟩ : StackEntry)
          | none => s.recipes.base)
        cases (due.filter valid).getLast? <;> rfl
      have forward : odometerUpdate s =
          if (due.any valid && taken.recipes.depth == 1) = true then recipeChange .zone taken else taken := by
        rw [odometerUpdate, if_neg (mt (movesBack_iff _ _).1 h), forwardUpdate, foldl_takeZone, hdue, hrest]
        exact congrArg (fun b : StackEntry =>
          (fun x : State => if (due.any valid && x.recipes.depth == 1) = true then recipeChange .zone x else x)
            { taken with recipes := { taken.recipes with base := b } }) base
      have enters : (due.any valid && taken.recipes.depth == 1) = true ↔
          (∃ z ∈ due, valid z = true) ∧ s.recipes.overrides = [] := by
        rw [Bool.and_eq_true, List.any_eq_true, depth_one_iff]
      rw [forward]
      exact ⟨fun h => if_pos (enters.2 h), fun h => if_neg (mt enters.1 h)⟩

end Sys2Proof.Machine
end

section
/-! The recipe stack: PUSH and POP (R132 to R134), and what an announced recipe does to its receivers (R45, R60, R72,
R105, R136, R151). -/

namespace Sys2Proof.Machine

/-! ## The Brush Speed Unit's recipe copy (R60) -/

/-- A rate code with an interval, in place of DIRECT. -/
def timedRate (code : Int) : Bool := decide (0 ≤ code ∧ code ≤ 3)

theorem rateInterval_isSome (code : Int) : (rateInterval code).isSome = timedRate code := by
  unfold rateInterval timedRate
  split_ifs <;> simp <;> omega

theorem becomesDirect_needed (before x : State) (b : BrushRec) :
    becomesDirect before x (neededDir b) =
      if b.c < b.t then timedRate before.brush.upRate && !timedRate x.brush.upRate
      else timedRate before.brush.downRate && !timedRate x.brush.downRate := by
  have direct (o : Option Int) : o.isNone = !o.isSome := by cases o <;> rfl
  unfold becomesDirect neededDir
  split <;> rw [direct, dirInterval, dirInterval, rateInterval_isSome, rateInterval_isSome]

/-- A unit's record with a table named by a recipe: a new number leaves a reselection pending. -/
def BrushRec.named (table : Fin 4) (b : BrushRec) : BrushRec :=
  { b with table := table, reselect := b.reselect || decide (table ≠ b.table) }

theorem brushRecipeUnit_eq (f : RecipeFields) (before : State) (u : BrushUnit) (x : State) :
    brushRecipeUnit f before u x =
      (let b := x.brushOf u
       if settled x u = false ∧ becomesDirect before x (neededDir b) = true then
         setBrushCommand u (if b.c < b.t then b.t else if b.t < x.setup.stopRpm u then 0 else b.t)
           (x.putBrush u { b.named (fieldTable f u) with rampTimer := none })
       else x.putBrush u (b.named (fieldTable f u))) := by
  have mark : (fieldTable f u != (x.brushOf u).table) = decide (fieldTable f u ≠ (x.brushOf u).table) := by
    rw [bne, decide_not]
    rfl
  have same : settled (x.putBrush u ((x.brushOf u).named (fieldTable f u))) u = settled x u := by
    rw [Bool.eq_iff_iff, settled_iff, settled_iff, State.brushOf_putBrush]
    rfl
  have unfolded : brushRecipeUnit f before u x =
      if (!settled (x.putBrush u ((x.brushOf u).named (fieldTable f u))) u &&
          becomesDirect before x (neededDir (x.brushOf u))) = true then
        startRamp u (x.putBrush u ((x.brushOf u).named (fieldTable f u)))
      else x.putBrush u ((x.brushOf u).named (fieldTable f u)) := by
    unfold BrushRec.named
    rw [← mark]
    rfl
  rw [unfolded, same]
  by_cases h : settled x u = false ∧ becomesDirect before x (neededDir (x.brushOf u)) = true
  · obtain ⟨hset, hdir⟩ := h
    have none : dirInterval (x.putBrush u ((x.brushOf u).named (fieldTable f u)))
        (neededDir ((x.putBrush u ((x.brushOf u).named (fieldTable f u))).brushOf u)) = none := by
      rw [State.brushOf_putBrush]
      exact Option.isNone_iff_eq_none.1 (Bool.and_eq_true_iff.1 hdir).2
    have unsettled : ¬ ((x.brushOf u).c = 0 ∧ (x.brushOf u).t < x.setup.startRpm u) := fun e =>
      Bool.eq_false_iff.1 hset (settled_iff.2 (Or.inr e))
    have command : directCommand u (x.putBrush u ((x.brushOf u).named (fieldTable f u))) =
        if (x.brushOf u).c < (x.brushOf u).t then (x.brushOf u).t
        else if (x.brushOf u).t < x.setup.stopRpm u then 0 else (x.brushOf u).t := by
      rw [directCommand, State.brushOf_putBrush]
      exact ite_congr rfl (fun _ => if_neg unsettled) fun _ => rfl
    rw [if_pos (by rw [hset, hdir]; rfl), startRamp_direct none, command, State.brushOf_putBrush, State.putBrush_putBrush]
    exact (if_pos ⟨hset, hdir⟩).symm
  · refine (if_neg fun e => h ?_).trans (if_neg h).symm
    rwa [Bool.and_eq_true, Bool.not_eq_true'] at e

/-- The recipe copy's rates. -/
def HasRates (up down : Int) (x : State) : Prop := x.brush.upRate = up ∧ x.brush.downRate = down

theorem noticed_hasRates (up down : Int) : Noticed (HasRates up down) where
  water := wet_of_spray fun _ _ hs => hs
  brush := fun s b hb hs => by
    obtain ⟨-, -, hup, hdown⟩ := hb
    exact ⟨hup.trans hs.1, hdown.trans hs.2⟩
  record := fun s k v _ hs => by
    unfold HasRates
    rw [changeRecord_brush]
    exact hs
  travel := fun s m _ _ hs => by
    unfold HasRates driveEnterTravel
    dsimp only
    split
    · rw [clearOverspeed_brush]
      exact hs
    · exact hs

theorem brushRecipeUnit_rates {f : RecipeFields} {before : State} {u : BrushUnit} {x : State} {up down : Int}
    (h : HasRates up down x) : HasRates up down (brushRecipeUnit f before u x) := by
  rw [brushRecipeUnit_eq]
  dsimp only
  split
  · exact (noticed_hasRates up down).setBrushCommand h
  · exact h

/-! ## PUSH and POP (R133, R134) -/

theorem stackReply_recipeChange (r : Result) (c : RecipeCause) (s : State) :
    stackReply r (recipeChange c s) =
      (recipeChange c s, [r.code, byte s.recipes.depth, byte s.recipes.top.source]) := by
  rw [stackReply, recipeChange_recipes]

section
variable {slot : Byte} {s : State}

theorem takePush_standby (h : s.mc.mode = .standby) : takePush slot s = stackReply .refusedMode s := if_pos h

theorem takePush_badSlot (h : s.mc.mode ≠ .standby) (hs : 31 < slot.toNat) : takePush slot s = stackReply .badSlot s := by
  simp only [takePush, if_neg h, slotOf_none hs]

theorem takePush_slot (h : s.mc.mode ≠ .standby) {n : Fin 32} (hn : n.val = slot.toNat) :
    takePush slot s =
      if !s.recipes.slots[n].valid then stackReply .notValid s
      else if 4 ≤ s.recipes.depth then stackReply .full s
      else stackReply .ok (recipeChange .push { s with recipes := { s.recipes with
        overrides := s.recipes.overrides ++ [⟨n, s.recipes.slots[n].fields⟩] } }) := by
  simp only [takePush, if_neg h, slotOf_some hn]

theorem takePop_standby (h : s.mc.mode = .standby) : takePop s = stackReply .refusedMode s := if_pos h

theorem takePop_empty (h : s.mc.mode ≠ .standby) (ho : s.recipes.overrides = []) :
    takePop s = stackReply .empty s := (if_neg h).trans (if_pos (List.isEmpty_iff.2 ho))

theorem takePop_taken (h : s.mc.mode ≠ .standby) (ho : s.recipes.overrides ≠ []) :
    takePop s = stackReply .ok (recipeChange .pop { s with recipes := { s.recipes with
      overrides := s.recipes.overrides.dropLast } }) := (if_neg h).trans (if_neg (mt List.isEmpty_iff.1 ho))

end

/-- Settles O57: the stack's requests by their checks, and each receiver of the announcement. -/
theorem stackRequestsChangeTheActiveRecipe : Obligations.StackRequestsChangeTheActiveRecipe := by
  unfold Obligations.StackRequestsChangeTheActiveRecipe
  refine ⟨⟨fun s tag slot hr => ?_, fun s tag hr => ?_, fun _ _ => rfl⟩, fun s f => ⟨rfl, ?_, rfl, rfl, ?_⟩⟩
  · intro refused
    have judged : exec (.push tag [slot]) s =
        finish (takeRequest 0x11 tag [slot] (guarded true (takePush slot)) s) := rfl
    refine ⟨exec_busy rfl rfl (by decide) hr, fun hb => ?_, fun hs hb => ⟨fun h => ?_, fun n hn => ⟨fun hv => ?_,
      fun hv hd => ?_, fun hv hd => ?_⟩⟩⟩
    · have hs : s.mc.mode ≠ .settle := by
        rw [hb]
        exact nofun
      rw [judged]
      exact finish_judged_answered hr hs (takePush_standby (s := s.holding 0x11 tag [slot]) hb)
    · rw [judged]
      exact finish_judged_answered hr hs (takePush_badSlot (s := s.holding 0x11 tag [slot]) hb h)
    all_goals
      have taken := takePush_slot (s := s.holding 0x11 tag [slot]) hb hn
      rw [judged]
    · exact finish_judged_answered hr hs (taken.trans (if_pos (by rw [State.holding_recipes, hv]; rfl)))
    all_goals
      have valid : ¬ (!(s.holding 0x11 tag [slot]).recipes.slots[n].valid) = true := by
        rw [State.holding_recipes, hv]
        exact Bool.false_ne_true
    · exact finish_judged_answered hr hs (taken.trans ((if_neg valid).trans (if_pos hd)))
    · refine (finish_judged hr hs (taken.trans ((if_neg valid).trans ((if_neg (not_le.2 hd)).trans
        (stackReply_recipeChange _ _ _))))).trans ?_
      have depth : Recipes.depth { s.recipes with overrides := s.recipes.overrides ++
          [⟨n, s.recipes.slots[n].fields⟩] } = s.recipes.depth + 1 := by
        simp [Recipes.depth]
      have top : Recipes.top { s.recipes with overrides := s.recipes.overrides ++
          [⟨n, s.recipes.slots[n].fields⟩] } = ⟨n, s.recipes.slots[n].fields⟩ := by
        simp [Recipes.top]
      have source : byte n.val = slot := by
        rw [byte, hn, BitVec.ofNat_toNat, BitVec.setWidth_eq]
      have reply : [Result.ok.code, byte (Recipes.depth { s.recipes with overrides := s.recipes.overrides ++
          [⟨n, s.recipes.slots[n].fields⟩] }), byte (Recipes.top { s.recipes with overrides := s.recipes.overrides ++
          [⟨n, s.recipes.slots[n].fields⟩] }).source] = [0x00, BitVec.ofNat 8 (s.recipes.depth + 1), slot] := by
        rw [depth, top, source]
        rfl
      exact congrArg (fun r => Host.Outcome.next (State.replied r (recipeChange .push { s.holding 0x11 tag [slot] with
        recipes := { s.recipes with overrides := s.recipes.overrides ++ [⟨n, s.recipes.slots[n].fields⟩] } })).sent) reply
  · intro refused left
    have judged : exec (.pop tag []) s = finish (takeRequest 0x12 tag [] (guarded true takePop) s) := rfl
    refine ⟨exec_busy rfl rfl (by decide) hr, fun hb => ?_, fun hs hb ho => ?_, fun hs hb ho => ?_⟩
    · have hs : s.mc.mode ≠ .settle := by
        rw [hb]
        exact nofun
      rw [judged]
      exact finish_judged_answered hr hs (takePop_standby (s := s.holding 0x12 tag []) hb)
    · rw [judged]
      exact finish_judged_answered hr hs (takePop_empty (s := s.holding 0x12 tag []) hb ho)
    · rw [judged]
      exact finish_judged hr hs ((takePop_taken (s := s.holding 0x12 tag []) hb ho).trans
        (stackReply_recipeChange _ _ _))
  · intro timed unit
    have unit_eq {u : BrushUnit} {x : State} (hx : HasRates f[7] f[8] x) (table : Int) (ht : fieldTable f u = tableOf table) :
        brushRecipeUnit f s u x = unit u table x := by
      have direct : becomesDirect s x (neededDir (x.brushOf u)) =
          if (x.brushOf u).c < (x.brushOf u).t then timed s.brush.upRate && !timed f[7]
          else timed s.brush.downRate && !timed f[8] := by
        rw [becomesDirect_needed, hx.1, hx.2]
        rfl
      have set : settled x u = decide ((x.brushOf u).c = (x.brushOf u).t ∨
          (x.brushOf u).c = 0 ∧ (x.brushOf u).t < x.setup.startRpm u) := by
        rw [Bool.eq_iff_iff, settled_iff, decide_eq_true_eq]
      rw [brushRecipeUnit_eq]
      dsimp only
      rw [direct, set, ht]
      rfl
    have h0 : HasRates f[7] f[8] { s with brush := { s.brush with step := f[6], upRate := f[7], downRate := f[8] } } :=
      ⟨rfl, rfl⟩
    rw [← unit_eq h0 f[3] rfl, ← unit_eq (brushRecipeUnit_rates h0) f[4] rfl,
      ← unit_eq (brushRecipeUnit_rates (brushRecipeUnit_rates h0)) f[5] rfl]
    rfl
  · intro x
    have changed : (f[12] != s.sensors.dustBase) = true ↔ f[12] ≠ s.sensors.dustBase := bne_iff_ne
    show (if (f[12] != s.sensors.dustBase) = true then (if s.usable .dust then x else evaluateFlow x) else x) = _
    by_cases hc : f[12] ≠ s.sensors.dustBase
    · rw [if_pos (changed.2 hc)]
      cases hu : s.usable .dust
      · exact (if_neg Bool.false_ne_true).trans (if_pos ⟨hc, rfl⟩).symm
      · exact (if_pos rfl).trans (if_neg fun h => nomatch h.2).symm
    · rw [if_neg (mt changed.1 hc), if_neg fun h => hc h.1]

end Sys2Proof.Machine
end

section
/-! The Spray Controller: the wanted set, the valves that follow it and the flow target (R94 to R97, R101), the water
command with the lead, the lag and the pump (R98 to R103), and the tank (R104). -/

namespace Sys2Proof.Machine

/-! ## What a command and a target leave alone -/

/-- Two records of the water from which the same flow target follows. -/
def SameDose (p r : Spray) : Prop :=
  r.wanted = p.wanted ∧ r.low = p.low ∧ r.dose = p.dose ∧ r.doseMax = p.doseMax ∧ r.dustBase = p.dustBase ∧
    r.ctUp = p.ctUp ∧ r.ctDn = p.ctDn ∧ r.idleFlow = p.idleFlow

section
variable (s : State) (p : Spray)

theorem setCommand_sameDose (c : Int) : SameDose p (setCommand s c p) := by
  unfold setCommand enterLag enterLead
  dsimp only
  repeat' split
  all_goals exact ⟨rfl, rfl, rfl, rfl, rfl, rfl, rfl, rfl⟩

theorem followTarget_sameDose (q : Int) : SameDose p (followTarget s q p) := by
  unfold followTarget
  dsimp only
  split
  · exact ⟨rfl, rfl, rfl, rfl, rfl, rfl, rfl, rfl⟩
  · split
    · exact setCommand_sameDose s { p with q := q } 0
    · split
      · exact setCommand_sameDose s { p with q := q } _
      · split
        · exact ⟨rfl, rfl, rfl, rfl, rfl, rfl, rfl, rfl⟩
        · split <;> exact ⟨rfl, rfl, rfl, rfl, rfl, rfl, rfl, rfl⟩

end

theorem flowTarget_of_sameDose {s : State} {p r : Spray} (h : SameDose p r) :
    flowTarget { s with spray := r } = flowTarget { s with spray := p } := by
  obtain ⟨hw, hl, hd, hm, hb, hu, hn, hi⟩ := h
  unfold flowTarget adjustedDose
  dsimp only
  rw [hw, hl, hd, hm, hb, hu, hn, hi]
  rfl

/-- An evaluation leaves the flow target that it formed. -/
theorem evaluateFlow_q (s : State) : (evaluateFlow s).spray.q = flowTarget (evaluateFlow s) :=
  (followTarget_copies s (flowTarget s) s.spray).1.trans
    (flowTarget_of_sameDose (followTarget_sameDose s s.spray (flowTarget s))).symm

/-- Where a command leaves the sequence and the valves: as they were, open to the wanted set, or in the lag or dry. -/
def ValvesLeft (p r : Spray) : Prop :=
  (r.seq = p.seq ∧ r.valves = p.valves) ∨ ((r.seq = .lead ∨ r.seq = .flowing) ∧ r.valves = p.wanted) ∨
    (r.seq = .lag ∧ r.valves = p.valves) ∨ r.seq = .dry

theorem setCommand_valves (s : State) (c : Int) (p : Spray) : ValvesLeft p (setCommand s c p) := by
  unfold setCommand
  split
  · exact Or.inl ⟨rfl, rfl⟩
  · dsimp only
    split
    · unfold enterLag
      dsimp only
      split
      · exact Or.inr (Or.inr (Or.inr rfl))
      · exact Or.inr (Or.inr (Or.inl ⟨rfl, rfl⟩))
    · split
      · unfold enterLead
        dsimp only
        split
        · exact Or.inr (Or.inl ⟨Or.inr rfl, rfl⟩)
        · exact Or.inr (Or.inl ⟨Or.inl rfl, rfl⟩)
      · exact Or.inl ⟨rfl, rfl⟩

theorem followTarget_valves (s : State) (q : Int) (p : Spray) : ValvesLeft p (followTarget s q p) := by
  unfold followTarget
  dsimp only
  split
  · exact Or.inl ⟨rfl, rfl⟩
  · split
    · exact setCommand_valves s 0 { p with q := q }
    · split
      · exact setCommand_valves s _ { p with q := q }
      · split
        · exact Or.inl ⟨rfl, rfl⟩
        · split <;> exact Or.inl ⟨rfl, rfl⟩

/-! ## The wanted set (R94, R101) -/

theorem formWanted_wanted (s : State) : (formWanted s).spray.wanted = wantedSet s :=
  (followTarget_copies _ _ _).2.1.trans (valvesFollow_copies _).1

theorem valvesFollow_flows {p : Spray} (h : p.seq = .lead ∨ p.seq = .flowing) (hw : p.wanted.any = true) :
    valvesFollow p = { p with valves := p.wanted } := by
  unfold valvesFollow
  rcases h with h | h <;> rw [h] <;> exact if_pos hw

theorem valvesFollow_stays {p : Spray} (h : ¬ (p.seq = .lead ∨ p.seq = .flowing) ∨ p.wanted.any = false) :
    valvesFollow p = p := by
  unfold valvesFollow
  cases hs : p.seq with
  | lead => exact if_neg (Bool.eq_false_iff.1 (h.resolve_left fun e => e (Or.inl hs)))
  | flowing => exact if_neg (Bool.eq_false_iff.1 (h.resolve_left fun e => e (Or.inr hs)))
  | dry => rfl
  | lag => rfl

theorem factorEighths_eq (code : Int) : factorEighths code =
    if code = 0 then 0 else if code = 1 then 1 else if code = 2 then 2 else if code = 3 then 4 else 8 := rfl

theorem adjustedDose_eq {s : State} (h : 0 ≤ s.spray.doseMax) :
    adjustedDose s =
      (let p := s.spray
       let d := s.sensor .dust
       let limited := max 0 (min p.doseMax ((p.dose * 80 + (d - p.dustBase) *
         factorEighths (if p.dustBase < d then p.ctUp else p.ctDn)).tdiv 80))
       if p.low then limited / 2 else limited) := by
  simp only [adjustedDose, clamp_eq h, divZ]
  split
  · exact Int.tdiv_eq_ediv_of_nonneg (le_max_left _ _)
  · rfl

/-- Settles O44: SPRAY, the wanted set with its valves, the flow target. -/
theorem sprayFormsTheWantedSetAndFlowTarget : Obligations.SprayFormsTheWantedSetAndFlowTarget := by
  unfold Obligations.SprayFormsTheWantedSetAndFlowTarget
  refine ⟨fun s tag v hr => ?_, fun s => ?_, fun s hdose => ?_⟩
  · have judged : exec (.spray tag [v]) s = finish (takeRequest 0x14 tag [v] (guarded true (takeSpray v)) s) := rfl
    refine ⟨exec_busy rfl rfl (by decide) hr, fun hs => ?_⟩
    have enable : (v != 0) = decide (v ≠ 0) := by
      rw [bne, decide_not]
      rfl
    have code : (if v.toNat ≤ 1 then Result.ok else Result.clamped).code = if v.toNat ≤ 1 then 0x00 else 0x01 := by
      split <;> rfl
    have taken : takeSpray v (s.holding 0x14 tag [v]) =
        (formWanted { s.holding 0x14 tag [v] with spray := { s.spray with enable := decide (v ≠ 0) } },
          [if v.toNat ≤ 1 then 0x00 else 0x01]) := by
      rw [takeSpray, answer, code, enable]
      rfl
    rw [judged]
    exact finish_judged hr hs taken
  · intro p allowed t
    have wanted : t.spray.wanted = wantedSet s := formWanted_wanted s
    rw [wanted]
    have some_driven : (p.brushOn.l = true ∨ p.brushOn.r = true) ∨ p.brushOn.m = true ↔ ∃ u, p.brushOn.get u = true :=
      ⟨fun h => by
        rcases h with (h | h) | h
        · exact ⟨.l, h⟩
        · exact ⟨.r, h⟩
        · exact ⟨.m, h⟩,
       fun ⟨u, h⟩ => by
        cases u
        · exact Or.inl (Or.inl h)
        · exact Or.inl (Or.inr h)
        · exact Or.inr h⟩
    have hallowed : (p.enable && (s.mc.mode == .work || s.mc.mode == .stowing) && !p.empty) = true ↔ allowed := by
      simp only [Bool.and_eq_true, Bool.or_eq_true, beq_iff_eq, Bool.not_eq_true', and_assoc]
      rfl
    refine ⟨?_, ?_, ?_, ?_, ?_⟩
    · rw [← hallowed]
      simp only [wantedSet, Bool.and_eq_true, and_assoc]
      rfl
    · rw [← hallowed]
      simp only [wantedSet, Bool.and_eq_true, and_assoc]
      rfl
    · rw [← hallowed]
      simp only [wantedSet, Bool.and_eq_true, and_assoc]
      rfl
    · rw [← hallowed, ← some_driven]
      simp only [wantedSet, Bool.and_eq_true, Bool.or_eq_true, and_assoc]
      rfl
    · intro w nothing flows
      have none_iff : w.any = false ↔ nothing := by
        simp only [Nozzles.any, Bool.or_eq_false_iff, and_assoc]
        rfl
      have any_iff : w.any = true ↔ ¬ nothing := by rw [← none_iff, Bool.not_eq_false]
      have moved (hf : flows) (hn : ¬ nothing) :
          valvesFollow { p with wanted := w } = { p with wanted := w, valves := w } :=
        valvesFollow_flows (p := { p with wanted := w }) hf (any_iff.2 hn)
      have stayed (h : ¬ flows ∨ nothing) : valvesFollow { p with wanted := w } = { p with wanted := w } :=
        valvesFollow_stays (p := { p with wanted := w }) (h.imp_right none_iff.2)
      have left : ValvesLeft (valvesFollow { p with wanted := w }) t.spray := followTarget_valves _ _ _
      refine ⟨fun hf hn => congrArg (fun x => evaluateFlow { s with spray := x }) (moved hf hn),
        fun h => congrArg (fun x => evaluateFlow { s with spray := x }) (stayed h), fun ht h => ?_, fun hf hn ht => ?_,
        fun h ht => ?_, evaluateFlow_q _, rfl⟩
      · rcases h with hn | hok
        · by_cases hf : flows
          · rw [moved hf hn] at left
            rcases left with ⟨-, h⟩ | ⟨-, h⟩ | ⟨h, -⟩ | h
            · exact h
            · exact h
            · rw [h] at ht
              exact nomatch ht
            · rw [h] at ht
              exact nomatch ht
          · rw [stayed (Or.inl hf)] at left
            rcases left with ⟨h, -⟩ | ⟨-, h⟩ | ⟨h, -⟩ | h
            · rw [h] at ht
              exact absurd ht hf
            · exact h
            · rw [h] at ht
              exact nomatch ht
            · rw [h] at ht
              exact nomatch ht
        · exact (hok.formWanted.wet ht).2.trans wanted
      · rw [moved hf hn] at left
        rcases left with ⟨h, -⟩ | ⟨h, -⟩ | ⟨-, h⟩ | h
        · rw [ht] at h
          have hlag : p.seq = .lag := h.symm
          rw [show flows = (p.seq = .lead ∨ p.seq = .flowing) from rfl, hlag] at hf
          exact nomatch hf
        · rw [ht] at h
          exact nomatch h
        · exact h
        · rw [ht] at h
          exact nomatch h
      · rw [stayed h] at left
        rcases left with ⟨-, h⟩ | ⟨h, -⟩ | ⟨-, h⟩ | h
        · exact h
        · rw [ht] at h
          exact nomatch h
        · exact h
        · rw [ht] at h
          exact nomatch h
  · intro p d code n limited dose
    have hdose : adjustedDose s = dose := adjustedDose_eq hdose
    rw [flowTarget, hdose, mag_eq_abs, least_eq_min, least_eq_min]
    by_cases h : p.wanted = ⟨false, false, false, false⟩
    · rw [if_pos h, if_pos (by rw [show s.spray.wanted.any = false from Nozzles.any_eq_false.2 h]; rfl)]
    · rw [if_neg h, if_neg (by rw [show s.spray.wanted.any = true from Nozzles.any_eq_true.2 h]; exact Bool.false_ne_true)]
      rfl

/-! ## The command, the lead, the lag and the pump (R98 to R103) -/

section
variable {s : State} {p : Spray} {c : Int}

theorem pumpUpdate_eq (s : State) (p : Spray) :
    pumpUpdate s p =
      (let flow := if p.seq = .flowing then (p.command * s.arb.consumers.water.share).tdiv 1000 else 0
       { p with pumpFlow := flow, wpump := min 1000 ((flow * 1000).tdiv s.setup.flowFull) }) := by
  simp only [pumpUpdate, least_eq_min, divZ]

/-- Outside FLOWING the pump stands. -/
theorem pumpUpdate_stands (h : p.seq ≠ .flowing) : pumpUpdate s p = { p with pumpFlow := 0, wpump := 0 } := by
  simp only [pumpUpdate_eq, if_neg h, Int.zero_mul, Int.zero_tdiv]
  rfl

theorem setCommand_q (s : State) (c : Int) (p : Spray) : (setCommand s c p).q = p.q := (setCommand_copies s c p).1

theorem setCommand_same (h : c = p.command) : setCommand s c p = p := if_pos h

theorem setCommand_ends (h : c ≠ p.command) (h0 : c = 0) :
    setCommand s c p = enterLag s { p with command := c, demand := (c * s.setup.kw).tdiv 100 } :=
  (if_neg h).trans (if_pos h0)

theorem setCommand_begins (h : c ≠ p.command) (hp : p.command = 0) :
    setCommand s c p = enterLead s { p with command := c, demand := (c * s.setup.kw).tdiv 100 } :=
  (if_neg h).trans ((if_neg fun h0 => h (h0.trans hp.symm)).trans (if_pos hp))

theorem setCommand_follows (h : c ≠ p.command) (h0 : c ≠ 0) (hp : p.command ≠ 0) :
    setCommand s c p = pumpUpdate s { p with command := c, demand := (c * s.setup.kw).tdiv 100 } :=
  (if_neg h).trans ((if_neg h0).trans (if_neg hp))

end

/-- A new target between nonzero values stops the timer at the command, starts one that was stopped, and leaves one that
ran. -/
theorem followTarget_runs (s : State) {p : Spray} {q : Int} (h : q ≠ p.q) (h0 : q ≠ 0) (hc : p.command ≠ 0) :
    followTarget s q p = { p with
      q := q
      rampTimer := if q = p.command then none else if p.rampTimer = none then some (s.clock + 100000)
        else p.rampTimer } := by
  simp only [followTarget, if_neg h, if_neg h0, if_neg hc, Option.isNone_iff_eq_none]
  split_ifs <;> rfl

theorem tankFlag_eq (flag : Bool) (level threshold hyst : Int) :
    tankFlag flag level threshold hyst =
      if flag then decide (level ≤ threshold + hyst) else decide (level ≤ threshold) := by
  unfold tankFlag
  split
  · rw [← decide_not]
    exact decide_eq_decide.2 not_lt
  · rfl

/-- The low flag's change leaves the empty flag. -/
theorem setLow_empty (flag : Bool) (s : State) : (setLow flag s).spray.empty = s.spray.empty := by
  unfold setLow
  split
  · rfl
  · refine (followTarget_copies _ _ _).2.2.trans ?_
    rw [notice_spray]

/-- Settles O45: an evaluation by the old and the new target, the command by its two values, the timers and the tank. -/
theorem waterFollowsTargetLeadAndLag : Obligations.WaterFollowsTargetLeadAndLag := by
  unfold Obligations.WaterFollowsTargetLeadAndLag
  refine ⟨⟨fun s => ?_, fun s due hdue => ?_, fun s c p => ?_⟩, fun s => ?_⟩
  · intro p q n first e
    refine ⟨rfl, fun h => if_pos h, fun h h0 => (if_neg h).trans (if_pos h0), fun h h0 hc => ?_, fun h h0 hc => ?_⟩
    · refine (if_neg h).trans ((if_neg h0).trans ((if_pos hc).trans ?_))
      rw [least_eq_min]
      rfl
    · exact followTarget_runs s h h0 hc
  · intro x p c
    have expiry : exec .waterRampTimerExpiry s = .next (onExpiry s.spray.rampTimer waterRampExpired s).sent := rfl
    have stepped : waterRampExpired x =
        { x with spray := { setCommand x c p with rampTimer := if c = p.q then none else some (x.clock + 100000) } } := by
      simp only [waterRampExpired, least_eq_min, most_eq_max, setCommand_q]
      rfl
    rw [expiry, hdue, onExpiry_some, show waterRampExpired (s.atTime due) = _ from stepped]
    rfl
  · intro m stopped opened
    refine ⟨setCommand_same, fun h h0 => setCommand_ends h h0, fun h hp => (setCommand_begins h hp).trans ?_,
      fun h h0 hp => setCommand_follows h h0 hp⟩
    unfold enterLead
    dsimp only
    split
    · rfl
    · exact pumpUpdate_stands (nofun)
  · intro p
    refine ⟨fun due hdue => ?_, fun due hdue => ?_, fun n => ?_, fun h => ?_, fun h => ?_, ?_⟩
    · have expiry : exec .valveLeadTimerExpiry s = .next (onExpiry s.spray.leadTimer leadExpired s).sent := rfl
      rw [expiry, hdue, onExpiry_some]
      refine ⟨fun h => ?_, fun h => ?_⟩
      · exact congrArg (fun r => Host.Outcome.next (State.sent { s.atTime due with spray := r })) (if_pos h)
      · exact congrArg (fun r => Host.Outcome.next (State.sent { s.atTime due with spray := r })) (if_neg (not_lt.2 h))
    · have expiry : exec .valveLagTimerExpiry s = .next (onExpiry s.spray.lagTimer lagExpired s).sent := rfl
      rw [expiry, hdue, onExpiry_some]
      rfl
    · intro share flow
      refine ⟨pumpUpdate_eq s n, fun hc h0 h1 => ?_⟩
      by_cases h : n.seq = .flowing
      · rw [show flow = (n.command * share).tdiv 1000 from if_pos h]
        exact ⟨Int.tdiv_nonneg (mul_nonneg hc h0) (by decide), scaled_le hc h1⟩
      · rw [show flow = 0 from if_neg h]
        exact ⟨le_rfl, hc⟩
    · exact congrArg (fun r => { s with spray := r }) (if_pos h)
    · exact congrArg (fun r => { s with spray := r }) (if_neg h)
    · intro level low empty lowered
      have hlow : tankFlag s.spray.low level s.setup.tankLow s.setup.tankHyst = low := tankFlag_eq _ _ _ _
      have hempty : tankFlag s.spray.empty level s.setup.tankEmpty s.setup.tankHyst = empty := tankFlag_eq _ _ _ _
      have first : setLow low s = lowered := rfl
      have kept : (setLow low s).spray.empty = p.empty := setLow_empty low s
      have test : tankTest s = setEmpty empty (setLow low s) := by
        rw [← hlow, ← hempty]
        rfl
      rw [test, setEmpty, kept, first]

end Sys2Proof.Machine
end

section
/-! The Arm Sequencer's planner (R79 to R81), its start test (R82, R83) and the hosts of its holds (R74, R77). -/

namespace Sys2Proof.Machine

/-! ## The planner's line and its modes (R79) -/

theorem nextAction_eq (u : BrushUnit) (a : ArmUnit) :
    nextAction u a =
      (if a.spin = .on ∧ a.goal.on = false then some .spinDown
       else if a.height ≠ (if a.goal.down then .down else .up) ∧ (if a.goal.down then Height.down else .up) = .up then
         some (.cyl .lift)
       else if u ≠ .m ∧ a.reach ≠ (if a.goal.out then .out else .isIn) then
         some (.cyl (if a.goal.out then .swingOut else .swingIn))
       else if a.height ≠ (if a.goal.down then .down else .up) ∧ (if a.goal.down then Height.down else .up) = .down then
         some (.cyl .lower)
       else if a.spin = .off ∧ a.goal.on = true then some .spinUp
       else none) := by
  unfold nextAction
  cases hd : a.goal.down <;> cases ho : a.goal.out <;> cases hn : a.goal.on <;> simp

theorem dropEntry_eq (u : BrushUnit) (s : State) :
    dropEntry u s = { s with arms := { s.arms with queue := s.arms.queue.filter fun e => decide (e.unit ≠ u) } } := by
  have h : (fun e : QueueEntry => e.unit != u) = fun e => decide (e.unit ≠ u) := by
    funext e
    rw [bne, decide_not, beq_eq_decide]
  rw [dropEntry, h]

/-! ## The planner's result acted on (R80, R86, R87) -/

section
variable {s : State} {u : BrushUnit}

theorem planStep_done (h : nextAction u (s.armOf u) = none) :
    planStep u s = postArmsDemand (
      if (s.armOf u).activity = .idle then setActivity u .idle (dropEntry u s)
      else unitReport u .goal (setActivity u .idle (dropEntry u s))) := by
  rw [planStep, h]

theorem planStep_spinUp (h : nextAction u (s.armOf u) = some .spinUp) :
    planStep u s = postArmsDemand (startSpinUp u (dropEntry u s)) := by
  rw [planStep, h]

theorem planStep_spinDown (h : nextAction u (s.armOf u) = some .spinDown) :
    planStep u s = postArmsDemand (startSpinDown u (dropEntry u s)) := by
  rw [planStep, h]

theorem planStep_changes {k : CylKind} (h : nextAction u (s.armOf u) = some (.cyl k))
    (hw : (s.armOf u).activity = .waiting) :
    planStep u s = postArmsDemand { s with arms := { s.arms with
      queue := s.arms.queue.map fun e => if e.unit = u then { e with kind := k } else e } } := by
  rw [planStep, h]
  exact congrArg postArmsDemand (if_pos hw)

theorem planStep_joins {k : CylKind} (h : nextAction u (s.armOf u) = some (.cyl k))
    (hw : (s.armOf u).activity ≠ .waiting) :
    planStep u s = postArmsDemand
      (setActivity u .waiting { s with arms := { s.arms with queue := s.arms.queue ++ [⟨u, k⟩] } }) := by
  rw [planStep, h]
  exact congrArg postArmsDemand (if_neg hw)

theorem setActivity_idle (h : (s.armOf u).activity = .idle) : setActivity u .idle s = s := by
  rw [setActivity, ← h]
  exact putArm_self s u

theorem postArmsDemand_eq (s : State) :
    postArmsDemand s =
      (let d := if s.arms.queue = [] ∧ s.arms.action = none then 0 else s.setup.armReserve
       if d = s.arms.demand then s else { s with arms := { s.arms with demand := d, demandRead := false } }) := by
  unfold postArmsDemand
  simp only [List.isEmpty_iff, Option.isNone_iff_eq_none, Bool.and_eq_true]

/-! ## When the planner runs (R79, R86) -/

theorem replan_rests (h : s.mc.mode.plans = false) : replan u s = s := by rw [replan, h]; rfl

theorem replan_plans (h : s.mc.mode.plans = true) :
    replan u s = match (s.armOf u).activity with
      | .idle => runPlanner u s
      | .waiting => runPlanner u s
      | .spinningUp => if (s.armOf u).goal.on then s else startSpinDown u s
      | _ => s := if_pos h

end

/-- Settles O41: the planner's line by its table, the branches of acting on it, and the modes and activities in which a
change runs it. -/
theorem plannerTakesTheFirstLineThatApplies : Obligations.PlannerTakesTheFirstLineThatApplies := by
  refine ⟨fun s u => ?_, fun s u => ?_⟩
  · intro a others queued reachGoal heightGoal act
    have hdrop : dropEntry u s = queued others := dropEntry_eq u s
    refine ⟨nextAction_eq u a, fun hn hi => ?_, fun hn hi => ?_, fun hn => ?_, fun hn => ?_, fun k hn hw => ?_,
      fun k hn hw => ?_, postArmsDemand_eq s⟩
    · rw [planStep_done hn, if_pos hi, setActivity_idle (s := dropEntry u s) hi, hdrop]
    · rw [planStep_done hn, if_neg hi, hdrop]
      simp only [unitReport, setActivity, State.armOf_putArm]
      rfl
    · rw [planStep_spinUp hn, hdrop]
      rfl
    · rw [planStep_spinDown hn, hdrop]
      rfl
    · rw [planStep_changes hn hw]
      refine congrArg (fun f => postArmsDemand (queued (s.arms.queue.map f))) (funext fun e => ?_)
      split
      · next he => rw [← he]
      · rfl
    · rw [planStep_joins hn hw]
      rfl
  · intro a
    refine ⟨fun h => ?_, fun h1 h2 => ?_⟩
    · have hp := (plans_false _).2 h
      exact ⟨replan_rests hp, by rw [runPlanner, hp]; rfl⟩
    · have hp := (Mode.plans_iff _).2 (not_or.2 ⟨h1, h2⟩)
      refine ⟨runPlanner_plans hp, ?_, fun ha hg => ?_, fun ha hg => ?_, ?_⟩
      · rintro (ha | ha) <;> rw [replan_plans hp, show (s.armOf u).activity = _ from ha]
      · rw [replan_plans hp, show (s.armOf u).activity = _ from ha]
        exact if_pos hg
      · rw [replan_plans hp, show (s.armOf u).activity = _ from ha]
        exact if_neg (by rw [show (s.armOf u).goal.on = false from hg]; exact Bool.false_ne_true)
      · rintro (ha | ha | ⟨k, ha⟩) <;> rw [replan_plans hp, show (s.armOf u).activity = _ from ha]

/-! ## Spacing (R82) -/

section
variable {s : State} {k x : CylKind} {n : Nat}

theorem spacingTerm_none (h : s.arms.lastEnd.get x = none) : spacingTerm s k x = 0 := by rw [spacingTerm, h]

theorem spacingTerm_some {e : Nat} (h : s.arms.lastEnd.get x = some e) :
    spacingTerm s k x = e + (s.setup.spacing x k).toNat * 1000 := by rw [spacingTerm, h]

theorem spacingTerm_le_time (s : State) (k x : CylKind) : spacingTerm s k x ≤ spacingTime s k := by
  unfold spacingTime
  cases x <;> simp only [Nat.max_def] <;> split_ifs <;> omega

theorem spacingTime_attained (s : State) (k : CylKind) : ∃ x, spacingTime s k = spacingTerm s k x := by
  unfold spacingTime
  rcases Nat.le_total (Nat.max (spacingTerm s k .swingOut) (spacingTerm s k .swingIn))
    (Nat.max (spacingTerm s k .lift) (spacingTerm s k .lower)) with h | h
  · rcases Nat.le_total (spacingTerm s k .lift) (spacingTerm s k .lower) with h' | h'
    · exact ⟨.lower, (Nat.max_eq_right h).trans (Nat.max_eq_right h')⟩
    · exact ⟨.lift, (Nat.max_eq_right h).trans (Nat.max_eq_left h')⟩
  · rcases Nat.le_total (spacingTerm s k .swingOut) (spacingTerm s k .swingIn) with h' | h'
    · exact ⟨.swingIn, (Nat.max_eq_left h).trans (Nat.max_eq_right h')⟩
    · exact ⟨.swingOut, (Nat.max_eq_left h).trans (Nat.max_eq_left h')⟩

theorem spacingTime_le_iff :
    spacingTime s k ≤ n ↔ ∀ x e, s.arms.lastEnd.get x = some e → e + (s.setup.spacing x k).toNat * 1000 ≤ n := by
  constructor
  · exact fun h x e he => spacingTerm_some he ▸ (spacingTerm_le_time s k x).trans h
  · intro h
    obtain ⟨x, hx⟩ := spacingTime_attained s k
    cases he : s.arms.lastEnd.get x with
    | none => rw [hx, spacingTerm_none he]; exact Nat.zero_le n
    | some e => rw [hx, spacingTerm_some he]; exact h x e he

/-! ## The start test (R82, R83) -/

theorem armsShareFull_iff (s : State) :
    armsShareFull s = true ↔ s.arb.consumers.arms.share = 1000 ∧ s.arms.demandRead = true := by simp [armsShareFull]

theorem startTest_empty (h : s.arms.queue = []) :
    startTest (n + 1) s = { s with arms := { s.arms with spacingTimer := none } } := by
  rw [startTest, h]

variable {e : QueueEntry} {rest : List QueueEntry}

theorem startTest_waits (h : s.arms.queue = e :: rest) (hw : s.arms.action ≠ none ∨ ¬ armsShareFull s = true) :
    startTest (n + 1) s = s := by
  rw [startTest, h]
  refine if_pos ?_
  rcases hw with hw | hw
  · rw [Option.isSome_iff_ne_none.2 hw]; rfl
  · rw [Bool.eq_false_of_not_eq_true hw]; exact Bool.or_true _

theorem startTest_spaced (h : s.arms.queue = e :: rest) (ha : s.arms.action = none) (hf : armsShareFull s = true)
    (ht : s.clock < spacingTime s e.kind) :
    startTest (n + 1) s = { s with arms := { s.arms with spacingTimer := some (spacingTime s e.kind) } } := by
  rw [startTest, h]
  exact (if_neg (by rw [ha, hf]; exact Bool.false_ne_true)).trans (if_pos ht)

theorem startTest_begins (h : s.arms.queue = e :: rest) (ha : s.arms.action = none) (hf : armsShareFull s = true)
    (ht : spacingTime s e.kind ≤ s.clock) :
    startTest (n + 1) s =
      if switchLevel s e.unit e.kind then startTest n (completeAction e.unit e.kind (beginAction e rest s))
      else beginAction e rest s := by
  rw [startTest, h]
  exact (if_neg (by rw [ha, hf]; exact Bool.false_ne_true)).trans (if_neg (Nat.not_lt.2 ht))

end

/-- Settles O42: the branches of the start test, the due time as the greatest spacing term, and the completion. -/
theorem headActionStartsWhenPowerAndSpacingAllow : Obligations.HeadActionStartsWhenPowerAndSpacingAllow := by
  intro s full met
  have hfull : full ↔ armsShareFull s = true := (armsShareFull_iff s).symm
  have hmet : ∀ k, met k ↔ spacingTime s k ≤ s.clock := fun k => spacingTime_le_iff.symm
  refine ⟨startTest_empty, fun e rest hq => ⟨fun hw => ?_, fun ha hf hm => ?_, fun ha hf hm => ?_⟩, fun c hc u k => ?_,
    fun u => ⟨rfl, rfl, rfl, rfl⟩, fun due hdue => ?_⟩
  · exact startTest_waits hq (hw.imp_right fun h => hfull.not.1 h)
  · have ht : s.clock < spacingTime s e.kind := Nat.lt_of_not_le ((hmet e.kind).not.1 hm)
    obtain ⟨x, hx⟩ := spacingTime_attained s e.kind
    refine ⟨spacingTime s e.kind, ht, startTest_spaced hq ha (hfull.1 hf) ht, spacingTime_le_iff.1 le_rfl, x, ?_⟩
    cases he : s.arms.lastEnd.get x with
    | none => rw [hx, spacingTerm_none he] at ht; exact absurd ht (Nat.not_lt_zero _)
    | some y => exact ⟨y, rfl, by rw [hx, spacingTerm_some he]⟩
  · intro started
    have hb : beginAction e rest s = started := by
      unfold beginAction
      simp only [List.isEmpty_iff]
      rfl
    have hs := startTest_begins (n := 7) hq ha (hfull.1 hf) ((hmet _).1 hm)
    rw [hb] at hs
    exact ⟨fun hl => hs.trans (if_neg (by rw [hl]; exact Bool.false_ne_true)), fun hl => hs.trans (if_pos hl)⟩
  · rw [completeAction, endAction, hc]
  · exact congrArg (fun t => finish (onExpiry t _ s)) hdue

/-! ## Curb readings (R74) -/

section
variable {s : State} {u : BrushUnit}

theorem contains_iff {h : Hold} {l : List Hold} : l.contains h = true ↔ h ∈ l := by simp

theorem takeHold_held {h : Hold} (hh : h ∈ (s.armOf u).holds) : takeHold u h s = s := if_pos (contains_iff.2 hh)

theorem releaseHold_free {h : Hold} (hh : h ∉ (s.armOf u).holds) : releaseHold u h s = s := if_neg (contains_iff.not.2 hh)

theorem curbRead_free (h : .sensed ∉ (s.armOf u).holds) :
    curbRead u s = if s.sensor (curbRole u) < s.setup.obstacle then takeHold u .sensed s else s := by
  refine if_pos ?_
  rw [Bool.eq_false_of_not_eq_true (contains_iff.not.2 h)]
  rfl

theorem curbRead_held (h : .sensed ∈ (s.armOf u).holds) :
    curbRead u s =
      if ¬ (s.usable (curbRole u) = true ∧ s.setup.obstacle + s.setup.releaseMm ≤ s.sensor (curbRole u)) then
        setReleaseTimer u none s
      else if (s.armOf u).releaseTimer = none then setReleaseTimer u (s.startMs s.setup.releaseMs) s
      else s := by
  unfold curbRead
  rw [contains_iff.2 h]
  cases hu : s.usable (curbRole u) <;> simp [Option.isNone_iff_eq_none]

end

/-! ## The UNIT request (R77) -/

theorem unitOf?_of_number {n : Nat} {u : BrushUnit} (h : n = unitNumber u) : unitOf? n = some u := by
  subst h
  cases u <;> rfl

theorem unitOf?_none {n : Nat} (h : 2 < n) : unitOf? n = none := by
  match n with
  | _ + 3 => rfl

theorem exec_unit {c : Instr} {tag unit op : Byte}
    (hc : c ∈ [Instr.setLift tag [unit, op], .releaseLift tag [unit, op], .releaseSensed tag [unit, op],
      .releaseKnock tag [unit, op]]) (s : State) :
    exec c s = finish (takeRequest 0x13 tag [unit, op] (guarded true (takeUnit unit.toNat op.toNat)) s) := by
  simp only [List.mem_cons, List.not_mem_nil, or_false] at hc
  rcases hc with rfl | rfl | rfl | rfl <;> rfl

theorem takeUnit_refused {unit op : Nat} (h : 2 < unit ∨ 3 < op ∨ (unit = 2 ∧ 2 ≤ op)) (s : State) :
    takeUnit unit op s = (s, [0x19]) := by
  by_cases hu : 2 < unit
  · rw [takeUnit, unitOf?_none hu]
    rfl
  · have key : 3 < op ∨ (unit = 2 ∧ 2 ≤ op) := h.resolve_left hu
    have hlt : unit < 3 := by omega
    interval_cases unit
    · exact if_pos (.inl (by simpa using key))
    · exact if_pos (.inl (by simpa using key))
    · exact if_pos (by simpa using key)

theorem takeUnit_done {unit op : Nat} {u : BrushUnit} (hu : unit = unitNumber u) (ho : op ≤ 3) (hm : u ≠ .m ∨ op < 2)
    (s : State) : takeUnit unit op s = (unitOperation u op s, [0x00]) := by
  rw [takeUnit, unitOf?_of_number hu]
  refine if_neg ?_
  rintro (h | ⟨h1, h2⟩)
  · omega
  · exact hm.elim (· h1) (by omega)

/-- Settles O40: the judgement of UNIT by its body, the curb readings by hold and usability, and the release timer. -/
theorem holdsAreTakenByHostAndCurb : Obligations.HoldsAreTakenByHostAndCurb := by
  refine ⟨fun s tag unit op c hc hr hm => ?_, fun s u => ?_⟩
  · intro h
    refine ⟨fun hbad => ?_, fun u hu => ?_⟩
    · rw [exec_unit hc]
      refine finish_judged_answered hr hm (takeUnit_refused (hbad.imp_right (Or.imp_right fun ⟨h2, ho⟩ => ?_)) _)
      subst h2
      exact ⟨rfl, ho⟩
    · have done : ∀ {n : Byte}, op = n → n.toNat ≤ 3 → (u ≠ .m ∨ n.toNat < 2) →
          exec c s = .next ((unitOperation u n.toNat h).replied [0x00]).sent := by
        intro n hn h3 h2
        rw [exec_unit hc, hn]
        exact finish_judged (hn ▸ hr) hm (by subst hn; exact takeUnit_done hu h3 h2 _)
      refine ⟨fun ho => done ho (by decide) (.inr (by decide)), fun ho => done ho (by decide) (.inr (by decide)),
        fun hu ho => done ho (by decide) (.inl hu), fun hu ho hs => ?_, fun hu ho hs => ?_⟩
      · refine (done ho (by decide) (.inl hu)).trans (congrArg (fun x => Host.Outcome.next (State.replied [0x00] x).sent) ?_)
        exact if_neg (contains_iff.not.2 hs)
      · intro freed
        have hshell : SameShell s freed := 
          (inner_sameShell s).blocks.told.releaseExpired ⟨rfl, rfl, rfl, rfl, rfl, rfl⟩
        have hop : unitOperation u (2 : Byte).toNat h =
            if freed.sensor (curbRole u) < freed.setup.obstacle then takeHold u .sensed freed else freed :=
          if_pos (contains_iff.2 hs)
        have hd := done ho (by decide) (.inl hu)
        rw [hop, hshell.setup] at hd
        exact ⟨fun hle => by rw [hd, if_neg (by omega)], fun hlt => by rw [hd, if_pos hlt]⟩
  · intro a v clear
    refine ⟨rfl, rfl, fun hs hv => (curbRead_free hs).trans (if_pos hv),
      fun hs hv => (curbRead_free hs).trans (if_neg (by omega)), fun hs hc => (curbRead_held hs).trans (if_pos hc),
      fun hs hc ht => ?_, fun hs hc ht => ?_, fun due hdue => ?_⟩
    · exact (curbRead_held hs).trans ((if_neg (not_not.2 hc)).trans (if_neg ht))
    · exact (curbRead_held hs).trans ((if_neg (not_not.2 hc)).trans (if_pos ht))
    · exact congrArg (fun t => finish (onExpiry t _ s)) hdue

end Sys2Proof.Machine
end

section
/-! Postures and goals of the arms: what a notice of a posture does (R69, R8, R12), and how holds shape the goal (R72, R73,
R79). -/

namespace Sys2Proof.Machine

/-! ## Goals and holds (R72, R73, R79) -/

/-- The goals, holds and base goals of the units stand, with the units mask. -/
def SameGoalsAs (b x : State) : Prop := SameGoals b.arms x.arms

theorem planned_sameGoalsAs (b : State) : Planned (SameGoalsAs b) where
  water := wet_of_spray fun _ _ h => h
  brush := fun _ _ _ h => h
  record := fun s k v _ h => by simpa [SameGoalsAs] using h
  travel := fun s m hm hv h => by
    have ha : (driveEnterTravel (modeReport (takeMode m s))).arms = s.arms :=
      ((sameArms_noticed s).travel s m hm hv (SameArms.refl s)).1
    rwa [SameGoalsAs, ha]
  arms := fun s a ha ⟨hu, hm⟩ => ⟨fun u => by
    obtain ⟨a1, a2, a3, a4⟩ := hu u
    obtain ⟨b1, b2, b3, b4⟩ := ha.1 u
    exact ⟨b1.trans a1, b2.trans a2, b3.trans a3, b4.trans a4⟩, ha.2.trans hm⟩
  post := fun _ _ h => h

/-- The reports posted since `l` stand in the queue's order. -/
theorem inner_reported (l : LinkPort) : Inner fun x => ∃ more : List Report, x.link = more.foldl LinkPort.post l where
  mc := fun _ _ h => h
  drive := fun _ _ h => h
  spray := fun _ _ h => h
  brush := fun _ _ h => h
  arms := fun _ _ h => h
  sensors := fun _ _ h => h
  arb := fun _ _ h => h
  cond := fun _ _ h => h
  post := fun _ _ h => posted_again h

section
variable (u : BrushUnit) (s : State)

theorem baseWorking_iff : baseWorking s u = true ↔ s.mc.mode = .work ∧ s.arms.unitsMask.get u = true := by
  simp [baseWorking]

theorem goalOf_out_iff (w : Bool) (l : List Hold) :
    (goalOf u w l).out = true ↔ w = true ∧ Hold.sensed ∉ l ∧ Hold.knock ∉ l ∧ (u = .m ∨ Hold.stall ∉ l) := by
  by_cases hu : u = .m <;> simp [goalOf, hu, and_assoc]

theorem goalOf_down_iff (w : Bool) (l : List Hold) : (goalOf u w l).down = true ↔ w = true ∧ Hold.lift ∉ l := by
  simp [goalOf]

theorem goalOf_on_iff (w : Bool) (l : List Hold) :
    (goalOf u w l).on = true ↔ w = true ∧ Hold.lift ∉ l ∧ Hold.stall ∉ l := by
  simp [goalOf]

theorem reformGoal_same (h : goalOf u (baseWorking s u) (s.armOf u).holds = (s.armOf u).goal) :
    reformGoal u s = s.putArm u { s.armOf u with
      baseWorking := baseWorking s u
      goal := goalOf u (baseWorking s u) (s.armOf u).holds } := if_pos h

theorem reformGoal_changed (h : goalOf u (baseWorking s u) (s.armOf u).holds ≠ (s.armOf u).goal) :
    reformGoal u s = replan u (s.putArm u { s.armOf u with
      baseWorking := baseWorking s u
      goal := goalOf u (baseWorking s u) (s.armOf u).holds }) := if_neg h

/-- The forming of a goal writes the unit's base goal and goal; a planner run behind it touches neither. -/
theorem reformGoal_goals :
    SameGoalsAs (s.putArm u { s.armOf u with
      baseWorking := baseWorking s u
      goal := goalOf u (baseWorking s u) (s.armOf u).holds }) (reformGoal u s) := by
  have refl : ∀ b, SameGoalsAs b b := fun b => ⟨fun _ => ⟨rfl, rfl, rfl, rfl⟩, rfl⟩
  by_cases h : goalOf u (baseWorking s u) (s.armOf u).holds = (s.armOf u).goal
  · rw [reformGoal_same u s h]
    exact refl _
  · rw [reformGoal_changed u s h]
    exact (planned_sameGoalsAs _).replan (refl _)

theorem takeHold_free {h : Hold} (hh : h ∉ (s.armOf u).holds) :
    takeHold u h s = reformGoal u (unitReport u (.holdTaken h) (s.putArm u { s.armOf u with
      holds := (s.armOf u).holds ++ [h] })) := if_neg (contains_iff.not.2 hh)

theorem releaseHold_held {h : Hold} (hh : h ∈ (s.armOf u).holds) :
    releaseHold u h s = reformGoal u (unitReport u (.holdReleased h) (s.putArm u { s.armOf u with
      holds := (s.armOf u).holds.filter (· != h) })) := if_pos (contains_iff.2 hh)

theorem unitReport_putArm (c : UnitCause) (a : ArmUnit) :
    unitReport u c (s.putArm u a) = (s.putArm u a).post (.unit u c a.reach a.height a.spin a.activity a.holds) := by
  simp only [unitReport, State.armOf_putArm]

/-- What the forming of a goal leaves in a state whose own part is that of `s`, but for the unit's record `a`. -/
theorem reformGoal_shapes {b : State} {a : ArmUnit} (hb : b = { s.putArm u a with link := b.link }) :
    let t := reformGoal u b
    let works := s.mc.mode = .work ∧ s.arms.unitsMask.get u = true
    (t.armOf u).holds = a.holds ∧
    ((t.armOf u).goal.out = true ↔
      works ∧ Hold.sensed ∉ a.holds ∧ Hold.knock ∉ a.holds ∧ (u = .m ∨ Hold.stall ∉ a.holds)) ∧
    ((t.armOf u).goal.down = true ↔ works ∧ Hold.lift ∉ a.holds) ∧
    ((t.armOf u).goal.on = true ↔ works ∧ Hold.lift ∉ a.holds ∧ Hold.stall ∉ a.holds) ∧
    ((t.armOf u).baseWorking = true ↔ works) ∧
    (∀ v, v ≠ u → (t.armOf v).holds = (s.armOf v).holds ∧ (t.armOf v).goal = (s.armOf v).goal) ∧
    t.arms.unitsMask = s.arms.unitsMask ∧ t.setup = s.setup ∧ t.pins = s.pins ∧ t.recipes = s.recipes := by
  intro t works
  have hu : b.armOf u = a := by rw [hb]; exact State.armOf_putArm s u a
  have hw : baseWorking b u = baseWorking s u := by rw [hb]; rfl
  have hg := reformGoal_goals u b
  obtain ⟨g1, g2, g3, -⟩ := hg.1 u
  have hshell : SameShell b t := (inner_sameShell b).loose.plain.reformGoal (SameShell.refl b)
  have hrec : t.recipes = b.recipes := (inner_sameRecipes b.recipes).loose.plain.reformGoal rfl
  simp only [State.putArm, PerUnit.get_set, if_true, hu, hw] at g1 g2 g3
  have e1 : (t.armOf u).baseWorking = baseWorking s u := g1
  have e2 : (t.armOf u).holds = a.holds := g2
  have e3 : (t.armOf u).goal = goalOf u (baseWorking s u) a.holds := g3
  rw [e1, e2, e3, goalOf_out_iff, goalOf_down_iff, goalOf_on_iff, baseWorking_iff]
  refine ⟨rfl, Iff.rfl, Iff.rfl, Iff.rfl, Iff.rfl, fun v hv => ?_, ?_, ?_, ?_, ?_⟩
  · obtain ⟨-, v2, v3, -⟩ := hg.1 v
    have hbv : b.armOf v = s.armOf v := by rw [hb]; exact State.armOf_putArm_other s a hv
    have hp : (b.putArm u { b.armOf u with
        baseWorking := baseWorking b u
        goal := goalOf u (baseWorking b u) (b.armOf u).holds }).armOf v = s.armOf v :=
      (State.armOf_putArm_other b _ hv).trans hbv
    exact ⟨v2.trans (congrArg ArmUnit.holds hp), v3.trans (congrArg ArmUnit.goal hp)⟩
  · exact hg.2.trans (by rw [hb]; rfl)
  · exact hshell.setup.trans (by rw [hb]; rfl)
  · exact hshell.pins.trans (by rw [hb]; rfl)
  · exact hrec.trans (by rw [hb]; rfl)

end

/-- Settles O39: the goal by its three components, and taking and releasing a hold as one report and one forming. -/
theorem holdsShapeTheGoal : Obligations.HoldsShapeTheGoal := by
  intro s u h a works shaped now formed
  have hw : baseWorking s u = decide works := Bool.eq_iff_iff.2 ((baseWorking_iff u s).trans decide_eq_true_iff.symm)
  have hnow : goalOf u (baseWorking s u) a.holds = now := by
    have key : ∀ {x y : Bool} {p : Prop} [Decidable p], y = decide p → (x = true ↔ p) → x = y := fun hy hx =>
      Bool.eq_iff_iff.2 (hx.trans (by rw [hy, decide_eq_true_iff]))
    have ho := key (y := now.out) rfl ((goalOf_out_iff u _ a.holds).trans (and_congr_left' (baseWorking_iff u s)))
    have hd := key (y := now.down) rfl ((goalOf_down_iff u _ a.holds).trans (and_congr_left' (baseWorking_iff u s)))
    have hn := key (y := now.on) rfl ((goalOf_on_iff u _ a.holds).trans (and_congr_left' (baseWorking_iff u s)))
    exact (Goal.mk.injEq _ _ _ _ _ _).mpr ⟨ho, hd, hn⟩
  have hformed : s.putArm u { s.armOf u with
      baseWorking := baseWorking s u
      goal := goalOf u (baseWorking s u) (s.armOf u).holds } = formed := by
    rw [hw] at hnow ⊢
    rw [show goalOf u (decide works) (s.armOf u).holds = now from hnow]
  have htake : h ∉ a.holds → takeHold u h s =
      reformGoal u ((s.putArm u { a with holds := a.holds ++ [h] }).post
        (.unit u (.holdTaken h) a.reach a.height a.spin a.activity (a.holds ++ [h]))) := fun hh => by
    rw [takeHold_free u s hh, unitReport_putArm]
  have hrelease : h ∈ a.holds → releaseHold u h s =
      reformGoal u ((s.putArm u { a with holds := a.holds.filter (· ≠ h) }).post
        (.unit u (.holdReleased h) a.reach a.height a.spin a.activity (a.holds.filter (· ≠ h)))) := fun hh => by
    have hf : (fun x : Hold => x != h) = fun x => decide (x ≠ h) := by
      funext x
      rw [bne, decide_not, beq_eq_decide]
    rw [releaseHold_held u s hh, unitReport_putArm, hf]
  refine ⟨reformGoal_shapes u s (a := a) (by rw [putArm_self s u]), fun e => ?_, fun e => ?_, htake, hrelease,
    takeHold_held, fun hh => ⟨?_, ?_⟩, releaseHold_free, fun hh => ⟨?_, ?_⟩⟩
  · exact (reformGoal_same u s (hnow.trans e)).trans hformed
  · exact (reformGoal_changed u s fun e' => e (hnow.symm.trans e')).trans (congrArg (replan u) hformed)
  · rw [htake hh]
    exact reformGoal_shapes u s (a := { a with holds := a.holds ++ [h] }) rfl
  · rw [htake hh]
    exact (inner_reported _).loose.plain.reformGoal ⟨[], rfl⟩
  · rw [hrelease hh]
    exact reformGoal_shapes u s (a := { a with holds := a.holds.filter (· ≠ h) }) rfl
  · rw [hrelease hh]
    exact (inner_reported _).loose.plain.reformGoal ⟨[], rfl⟩

/-! ## What the brushes' work on a notice can change (R56) -/

/-- Two brush units agree in their copies of spin and height. -/
def SameCopies (x y : Brushes) : Prop :=
  ∀ v, (y.units.get v).spin = (x.units.get v).spin ∧ (y.units.get v).heightDown = (x.units.get v).heightDown

/-- A property that every elementary update behind a brush's target, command and output keeps. -/
structure OutputWork (P : State → Prop) : Prop where
  brush : ∀ s b, SameCopies s.brush b → P s → P { s with brush := b }
  spray : ∀ s p, P s → P { s with spray := p }
  record : ∀ s k v, P s → P (changeRecord k v s)

section
variable {P : State → Prop} (w : OutputWork P) {s : State} {u : BrushUnit}
include w

theorem OutputWork.putBrush {b : BrushRec} (hb : b.spin = (s.brushOf u).spin ∧ b.heightDown = (s.brushOf u).heightDown)
    (hs : P s) : P (s.putBrush u b) := by
  refine w.brush s _ (fun v => ?_) hs
  rw [PerUnit.get_set]
  split
  · next e => subst e; exact hb
  · exact ⟨rfl, rfl⟩

theorem OutputWork.updateOutput (hs : P s) : P (updateOutput u s) := by
  have hstarved : ∀ f, P (setStarved u f s) := fun f => by
    unfold setStarved
    split
    · exact hs
    · exact w.record _ _ _ (w.putBrush ⟨rfl, rfl⟩ hs)
  have hdrive : ∀ {x : State} (o : Int), P x → P (driveOutput u o x) := fun {x} o hx => by
    unfold driveOutput
    rw [outputNotice_spray]
    exact w.spray _ _ (w.putBrush ⟨rfl, rfl⟩ hx)
  exact hdrive _ (hstarved _)

theorem OutputWork.setBrushCommand {c : Int} (hs : P s) : P (setBrushCommand u c s) := by
  unfold Machine.setBrushCommand
  split
  · exact hs
  · exact w.updateOutput (w.putBrush ⟨rfl, rfl⟩ hs)

theorem OutputWork.cutCommand (hs : P s) : P (cutCommand u s) := w.setBrushCommand (w.putBrush ⟨rfl, rfl⟩ hs)

theorem OutputWork.examineRamp (hs : P s) : P (examineRamp u s) := by
  have htimer : ∀ {x : State} (r : Option RampTimer), P x → P (setRampTimer u r x) := fun _ hx => w.putBrush ⟨rfl, rfl⟩ hx
  have hstart : P (startRamp u s) := by
    unfold startRamp
    dsimp only
    split
    · exact htimer _ hs
    · exact w.setBrushCommand (htimer _ hs)
  unfold Machine.examineRamp
  split
  · exact htimer _ hs
  · split
    · exact hs
    · exact hstart

theorem OutputWork.setTarget {x : Int} (hs : P s) : P (setTarget u x s) := by
  unfold Machine.setTarget
  split
  · exact hs
  · exact w.examineRamp (w.putBrush ⟨rfl, rfl⟩ hs)

/-- A spin notice is the copy of the spin, and the brush's work behind it. -/
theorem OutputWork.spinNotice {sp : Spin} (hs : P (s.putBrush u { s.brushOf u with spin := sp })) :
    P (spinNotice u sp s) := by
  unfold Machine.spinNotice
  dsimp only
  split
  · exact w.cutCommand (w.putBrush ⟨rfl, rfl⟩ hs)
  · exact w.setTarget hs
  · split
    · exact hs
    · exact w.setTarget hs

/-- A height notice is the copy of the height, and a cut command when the height is no longer DOWN. -/
theorem OutputWork.heightNotice {d : Bool} (hs : P (s.putBrush u { s.brushOf u with heightDown := d })) :
    P (heightNotice u d s) := by
  unfold Machine.heightNotice
  dsimp only
  split
  · exact hs
  · exact w.cutCommand hs

end

/-- The state agrees with `b` outside the brushes, the water and the conditions, and its link port has reports posted. -/
structure BesideBrushes (b x : State) : Prop where
  mc : x.mc = b.mc
  drive : x.drive = b.drive
  arms : x.arms = b.arms
  recipes : x.recipes = b.recipes
  sensors : x.sensors = b.sensors
  shell : SameShell b x
  link : ∃ more : List Report, x.link = more.foldl LinkPort.post b.link

theorem BesideBrushes.refl (b : State) : BesideBrushes b b := ⟨rfl, rfl, rfl, rfl, rfl, SameShell.refl b, [], rfl⟩

theorem outputWork_besideBrushes (b : State) : OutputWork (BesideBrushes b) where
  brush := fun s y _ h => ⟨h.mc, h.drive, h.arms, h.recipes, h.sensors, (inner_sameShell b).brush s y h.shell, h.link⟩
  spray := fun s y h => ⟨h.mc, h.drive, h.arms, h.recipes, h.sensors, (inner_sameShell b).spray s y h.shell, h.link⟩
  record := fun s k v h => ⟨by simp [h.mc], by simp [h.drive], by simp [h.arms], by simp [h.recipes], by simp [h.sensors],
    (inner_sameShell b).blocks.changeRecord h.shell, (inner_reported b.link).blocks.changeRecord h.link⟩

theorem outputWork_copies (x : Brushes) : OutputWork fun s => SameCopies x s.brush where
  brush := fun _ _ hb h v => ⟨(hb v).1.trans (h v).1, (hb v).2.trans (h v).2⟩
  spray := fun _ _ h => h
  record := fun s k v h => by simpa using h

theorem spinNotice_beside (u : BrushUnit) (sp : Spin) (s : State) : BesideBrushes s (spinNotice u sp s) :=
  (outputWork_besideBrushes s).spinNotice
    ⟨rfl, rfl, rfl, rfl, rfl, (inner_sameShell s).brush _ _ (SameShell.refl s), [], rfl⟩

theorem heightNotice_beside {s x : State} (u : BrushUnit) (d : Bool) (h : BesideBrushes s x) :
    BesideBrushes s (heightNotice u d x) :=
  (outputWork_besideBrushes s).heightNotice
    ⟨h.mc, h.drive, h.arms, h.recipes, h.sensors, (inner_sameShell s).brush _ _ h.shell, h.link⟩

theorem spinNotice_spin (u : BrushUnit) (sp : Spin) (s : State) : ((spinNotice u sp s).brushOf u).spin = sp := by
  have h := (outputWork_copies (s.putBrush u { s.brushOf u with spin := sp }).brush).spinNotice (s := s) (u := u) (sp := sp)
    fun _ => ⟨rfl, rfl⟩
  exact (h u).1.trans (congrArg BrushRec.spin (State.brushOf_putBrush s u _))

theorem spinNotice_off_record (u : BrushUnit) (s : State) :
    ((spinNotice u .off s).brushOf u).c = 0 ∧ ((spinNotice u .off s).brushOf u).t = 0 := by
  rw [spinNotice_off]
  obtain ⟨hc, ht, -⟩ := cutCommand_record u (s.putBrush u { s.brushOf u with spin := .off, t := 0 })
  exact ⟨hc, ht.trans (by rw [State.brushOf_putBrush])⟩

theorem heightNotice_spin (u : BrushUnit) (d : Bool) (s : State) :
    ((heightNotice u d s).brushOf u).spin = (s.brushOf u).spin ∧ ((heightNotice u d s).brushOf u).heightDown = d := by
  have h := (outputWork_copies (s.putBrush u { s.brushOf u with heightDown := d }).brush).heightNotice
    (s := s) (u := u) (d := d) fun _ => ⟨rfl, rfl⟩
  have e := State.brushOf_putBrush s u { s.brushOf u with heightDown := d }
  exact ⟨(h u).1.trans ((congrArg BrushRec.spin e).trans rfl), (h u).2.trans ((congrArg BrushRec.heightDown e).trans rfl)⟩

theorem heightNotice_up_command (u : BrushUnit) (s : State) : ((heightNotice u false s).brushOf u).c = 0 :=
  (cutCommand_record u (s.putBrush u { s.brushOf u with heightDown := false })).1

/-! ## Mode Control's answer (R8, R12) -/

theorem postureNotice_eq (x : State) :
    postureNotice x =
      if x.mc.mode = .stowing ∧ x.allStowed = true then enterTravelBlocks .transport x
      else if x.mc.mode = .transport ∧ x.allStowed = false then enterTravelBlocks .parking x
      else x := by
  unfold postureNotice
  cases hm : x.mc.mode <;> cases hs : x.allStowed <;> rfl

theorem postureNotice_stows {x : State} (hm : x.mc.mode = .stowing) (hs : x.allStowed = true) :
    postureNotice x = enterTravelBlocks .transport x := (postureNotice_eq x).trans (if_pos ⟨hm, hs⟩)

theorem postureNotice_parks {x : State} (hm : x.mc.mode = .transport) (hs : x.allStowed = false) :
    postureNotice x = enterTravelBlocks .parking x := by
  rw [postureNotice_eq, hm, hs]
  rfl

theorem postureNotice_stays {x : State} (h1 : x.mc.mode ≠ .stowing ∨ x.allStowed = false)
    (h2 : x.mc.mode ≠ .transport ∨ x.allStowed = true) : postureNotice x = x := by
  rw [postureNotice_eq, if_neg, if_neg]
  · rintro ⟨hm, hs⟩
    exact h2.elim (· hm) (by simp [hs])
  · rintro ⟨hm, hs⟩
    exact h1.elim (· hm) (by simp [hs])

theorem postureNotice_arms (x : State) : (postureNotice x).arms = x.arms :=
  ((sameArms_noticed x).postureNotice (SameArms.refl x)).1

/-- A notice of a posture says nothing of the sensor channels. -/
theorem noticed_sameSensors (y : SensorMaster) : Noticed fun x => x.sensors = y where
  water := wet_of_spray fun _ _ h => h
  brush := fun _ _ _ h => h
  record := fun s k v _ h => by simpa using h
  travel := fun s m _ _ h => by
    unfold driveEnterTravel clearOverspeed setOverspeed
    dsimp only
    split <;> [split; skip] <;> simpa [modeReport, takeMode, notice] using h

theorem postureNotice_brush (x : State) : (postureNotice x).brush = x.brush := by
  have hd : ∀ m, (driveEnterTravel (modeReport (takeMode m x))).brush = x.brush := fun m => by
    unfold driveEnterTravel clearOverspeed setOverspeed
    dsimp only
    split <;> [split; skip] <;> simp [modeReport, takeMode, notice, State.post]
  rw [postureNotice_eq]
  split
  · exact hd _
  · split
    · exact hd _
    · rfl

/-- Entry to a travel mode: its record, the brake, and the MODE report behind what was posted. -/
theorem enterTravelBlocks_entered {x : State} {l : LinkPort} (m : Mode)
    (h : ∃ before : List Report, x.link = before.foldl LinkPort.post l) :
    (enterTravelBlocks m x).mc = (takeMode m x).mc ∧ (enterTravelBlocks m x).drive.brk = true ∧
    (m = .parking → (enterTravelBlocks m x).drive.overspeed = false) ∧
    ∃ before after, (enterTravelBlocks m x).link =
      (before ++ Report.mode m m.target :: after).foldl LinkPort.post l := by
  have hd := driveEnterTravel_drive (modeReport (takeMode m x))
  have hmc := driveEnterTravel_mc (modeReport (takeMode m x))
  refine ⟨hmc, (congrArg Drive.brk hd), fun hm => (congrArg Drive.overspeed hd).trans (by simp [modeReport, hm]), ?_⟩
  obtain ⟨before, hbefore⟩ := h
  have hi := inner_reported (x.link.post (.mode m m.target))
  have hlink : ∃ after : List Report, (driveEnterTravel (modeReport (takeMode m x))).link =
      after.foldl LinkPort.post (x.link.post (.mode m m.target)) := by
    unfold driveEnterTravel
    dsimp only
    split
    · exact hi.clearOverspeed (hi.drive _ _ ⟨[], rfl⟩)
    · exact ⟨[], rfl⟩
  obtain ⟨after, hafter⟩ := hlink
  refine ⟨before, after, hafter.trans ?_⟩
  rw [hbefore, List.foldl_append]
  rfl

section
variable {s x : State} {u : BrushUnit} {a : ArmUnit}

/-- Mode Control's answer to a posture written at one unit, when the brushes have had their notices. -/
theorem postureNotice_answers (h : BesideBrushes (s.putArm u a) x) :
    let t := postureNotice x
    (s.mc.mode = .stowing → t.allStowed = true → t.mc = ⟨.transport, .transport, none, none⟩ ∧ t.drive.brk = true ∧
      ∃ before after, t.link = (before ++ Report.mode .transport .transport :: after).foldl LinkPort.post s.link) ∧
    (s.mc.mode = .transport → t.allStowed = false →
      t.mc = ⟨.parking, .park, none, if s.stopped then some (s.clock + 500000) else none⟩ ∧
      t.drive.brk = true ∧ t.drive.overspeed = false ∧
      ∃ before after, t.link = (before ++ Report.mode .parking .park :: after).foldl LinkPort.post s.link) ∧
    (s.mc.mode ≠ .stowing ∨ t.allStowed = false → s.mc.mode ≠ .transport ∨ t.allStowed = true →
      t.mc = s.mc ∧ t.drive = s.drive) ∧
    (∀ v, v ≠ u → t.armOf v = s.armOf v) ∧ t.arms.queue = s.arms.queue ∧ t.arms.action = s.arms.action ∧
    t.pins = s.pins ∧ t.setup = s.setup ∧ t.pcu = s.pcu ∧ t.recipes = s.recipes ∧ t.sensors = s.sensors ∧
    t.clock = s.clock := by
  intro t
  have harms : t.arms = (s.putArm u a).arms := (postureNotice_arms x).trans h.arms
  have hstowed : t.allStowed = x.allStowed := by simp only [State.allStowed, postureNotice_arms x, t]
  have hshell : SameShell (s.putArm u a) t := (inner_sameShell _).loose.plain.toNoticed.postureNotice h.shell
  have hrec : t.recipes = (s.putArm u a).recipes := (inner_sameRecipes _).loose.plain.toNoticed.postureNotice h.recipes
  have hmode : x.mc.mode = s.mc.mode := congrArg ModeControl.mode h.mc
  rw [hstowed]
  refine ⟨fun hm hs => ?_, fun hm hs => ?_, fun h1 h2 => ?_, fun v hv => ?_, ?_, ?_, hshell.pins, hshell.setup,
    hshell.pcu, hrec, ?_, hshell.clock⟩
  · obtain ⟨e1, e2, -, e4⟩ := enterTravelBlocks_entered .transport h.link
    rw [show t = _ from postureNotice_stows (hmode.trans hm) hs]
    exact ⟨e1, e2, e4⟩
  · obtain ⟨e1, e2, e3, e4⟩ := enterTravelBlocks_entered .parking h.link
    have hstopped : x.stopped = s.stopped := by simp only [State.stopped, h.shell.pcu, State.putArm_pcu]
    have hclock : x.clock = s.clock := h.shell.clock
    rw [show t = _ from postureNotice_parks (hmode.trans hm) hs]
    refine ⟨e1.trans ?_, e2, e3 rfl, e4⟩
    simp only [takeMode, Mode.target, true_and, hstopped, State.startMs, State.after, hclock]
    rfl
  · rw [show t = x from postureNotice_stays (hmode ▸ h1) (hmode ▸ h2)]
    exact ⟨h.mc, h.drive⟩
  · exact (congrArg (fun r : Arms => r.units.get v) harms).trans (State.armOf_putArm_other s a hv)
  · exact (congrArg Arms.queue harms).trans rfl
  · exact (congrArg Arms.action harms).trans rfl
  · exact (noticed_sameSensors s.sensors).postureNotice h.sensors

theorem postureNotice_armOf (h : BesideBrushes (s.putArm u a) x) : (postureNotice x).armOf u = a :=
  (congrArg (fun r : Arms => r.units.get u) ((postureNotice_arms x).trans h.arms)).trans (State.armOf_putArm s u a)

end

/-! ## The three components (R69) -/

theorem setSpin_changed {u : BrushUnit} {sp : Spin} {s : State} (h : sp ≠ (s.armOf u).spin) :
    setSpin u sp s = postureNotice (spinNotice u sp (s.putArm u { s.armOf u with spin := sp })) := if_neg h

theorem setReach_changed {u : BrushUnit} {r : Reach} {s : State} (h : r ≠ (s.armOf u).reach) :
    setReach u r s = postureNotice (s.putArm u { s.armOf u with reach := r }) := if_neg h

/-- The notices that the brushes have of a height: that of the spin it ends, and that of a change between DOWN and another
value. -/
def heightNotices (u : BrushUnit) (h : Height) (a : ArmUnit) (x : State) : State :=
  let y := if a.height = .down ∧ a.spin ≠ .off then spinNotice u .off x else x
  if a.height = .down ∨ h = .down then heightNotice u (decide (h = .down)) y else y

theorem setHeight_changed {u : BrushUnit} {h : Height} {s : State} (hc : h ≠ (s.armOf u).height) :
    setHeight u h s = postureNotice (heightNotices u h (s.armOf u) (s.putArm u { s.armOf u with
      height := h
      spin := if (s.armOf u).height = .down then .off else (s.armOf u).spin })) :=
  (if_neg hc).trans (by simp only [heightNotices, beq_eq_decide])

theorem heightNotices_beside (u : BrushUnit) (h : Height) (a : ArmUnit) (x : State) :
    BesideBrushes x (heightNotices u h a x) := by
  have hy : BesideBrushes x (if a.height = .down ∧ a.spin ≠ .off then spinNotice u .off x else x) := by
    split
    · exact spinNotice_beside u .off x
    · exact BesideBrushes.refl x
  unfold heightNotices
  dsimp only
  split
  · exact heightNotice_beside u _ hy
  · exact hy

section
variable {u : BrushUnit} {h : Height} {a : ArmUnit} {x : State}

theorem heightNotices_copies (hd : a.height = .down ∨ h = .down) :
    ((heightNotices u h a x).brushOf u).heightDown = decide (h = .down) := by
  rw [heightNotices, if_pos hd]
  exact (heightNotice_spin u _ _).2

theorem heightNotices_leaves (hd : a.height = .down) (hc : h ≠ .down) :
    ((heightNotices u h a x).brushOf u).c = 0 := by
  rw [heightNotices, if_pos (.inl hd), decide_eq_false hc]
  exact heightNotice_up_command u _

theorem heightNotices_stops (hd : a.height = .down) (hs : a.spin ≠ .off) :
    ((heightNotices u h a x).brushOf u).spin = .off := by
  rw [heightNotices, if_pos (.inl hd), if_pos ⟨hd, hs⟩]
  exact (heightNotice_spin u _ _).1.trans (spinNotice_spin u .off x)

end

/-- Settles O38: the component written, the brushes' notices, and Mode Control's answer behind them. -/
theorem postureChangesAreNotified : Obligations.PostureChangesAreNotified := by
  intro s u h r sp a answer answeredBy
  have hanswer : ∀ x, postureNotice x = answer x := postureNotice_eq
  have hbrush : ∀ x, (postureNotice x).brushOf u = x.brushOf u := fun x =>
    congrArg (fun b : Brushes => b.units.get u) (postureNotice_brush x)
  refine ⟨fun e => if_pos e, fun e => if_pos e, fun e => if_pos e, fun hr => ?_, fun hs => ?_, fun hh => ?_⟩
  · have hb := BesideBrushes.refl (s.putArm u { a with reach := r })
    rw [setReach_changed hr]
    exact ⟨hanswer _, postureNotice_armOf hb, postureNotice_brush _, postureNotice_answers hb⟩
  · have hb := spinNotice_beside u sp (s.putArm u { a with spin := sp })
    rw [setSpin_changed hs, hbrush]
    refine ⟨hanswer _, postureNotice_armOf hb, spinNotice_spin u sp _, fun ho => ?_, postureNotice_answers hb⟩
    subst ho
    exact spinNotice_off_record u _
  · have hb := heightNotices_beside u h a (s.putArm u { a with
      height := h
      spin := if a.height = .down then .off else a.spin })
    rw [setHeight_changed hh, hbrush]
    exact ⟨hanswer _, postureNotice_armOf hb, heightNotices_copies,
      fun hd => heightNotices_leaves hd fun e => hh (e.trans hd.symm), heightNotices_stops, postureNotice_answers hb⟩

end Sys2Proof.Machine
end

section
/-! The end switches and the faults of the arms: following a switch (R70, R71, R75, R83), entry to FAULT (R88), and the
timeout of the action in progress (R84). -/

namespace Sys2Proof.Machine

/-! ## Switch levels (R70) -/

theorem PerKind.get_set {α : Type} (p : PerKind α) (k j : CylKind) (a : α) : (p.set k a).get j = if j = k then a else p.get j := by
  cases k <;> cases j <;> rfl

theorem Switches.level_put_other (w : Switches) (k : CylKind) (v : Bool) : (w.put k v).level k.other = w.level k.other := by
  cases k <;> rfl

/-- An end switch pin with a level. -/
def State.withSwitch (s : State) (u : BrushUnit) (k : CylKind) (v : Bool) : State :=
  { s with pins := { s.pins with switches := s.pins.switches.set u ((s.pins.switches.get u).put k v) } }

section
variable (s : State) (u : BrushUnit) (k : CylKind) (v : Bool)

theorem withSwitch_switches : (s.withSwitch u k v).pins.switches.get u = (s.pins.switches.get u).put k v := by
  simp [State.withSwitch]

theorem switchLevel_withSwitch_other : switchLevel (s.withSwitch u k v) u k.other = switchLevel s u k.other := by
  rw [switchLevel, withSwitch_switches, Switches.level_put_other]
  rfl

theorem actionMoves_iff :
    actionMoves s u k = true ↔ ∃ c, s.arms.action = some c ∧ c.unit = u ∧ c.kind.movesHeight = k.movesHeight := by
  unfold actionMoves
  cases s.arms.action <;> simp

theorem actionIs_iff : actionIs s u k = true ↔ ∃ c, s.arms.action = some c ∧ c.unit = u ∧ c.kind = k := by
  unfold actionIs
  cases s.arms.action <;> simp

theorem actionMoves_of_is (h : actionIs s u k = true) : actionMoves s u k = true := by
  obtain ⟨c, hc, hu, hk⟩ := (actionIs_iff s u k).1 h
  exact (actionMoves_iff s u k).2 ⟨c, hc, hu, congrArg CylKind.movesHeight hk⟩

end

/-! ## A switch takes a level -/

section
variable {s : State} {sw : EndSwitch} {v : Bool}

theorem endSwitchChanged_same (h : switchLevel s (switchUnit sw) (switchKind sw) = v) : endSwitchChanged sw v s = s :=
  if_pos h

theorem endSwitchChanged_asleep (h : switchLevel s (switchUnit sw) (switchKind sw) ≠ v) (hm : s.mc.mode = .standby) :
    endSwitchChanged sw v s = s.withSwitch (switchUnit sw) (switchKind sw) v := (if_neg h).trans (if_pos hm)

theorem endSwitchChanged_on (h : switchLevel s (switchUnit sw) (switchKind sw) = false) (hm : s.mc.mode ≠ .standby) :
    endSwitchChanged sw true s =
      switchOn (switchUnit sw) (switchKind sw) (s.withSwitch (switchUnit sw) (switchKind sw) true) :=
  (if_neg (by rw [h]; exact Bool.false_ne_true)).trans ((if_neg hm).trans (if_pos rfl))

theorem endSwitchChanged_off (h : switchLevel s (switchUnit sw) (switchKind sw) = true) (hm : s.mc.mode ≠ .standby) :
    endSwitchChanged sw false s =
      switchOff (switchUnit sw) (switchKind sw) (s.withSwitch (switchUnit sw) (switchKind sw) false) :=
  (if_neg (by rw [h]; exact Bool.false_ne_true.symm)).trans ((if_neg hm).trans (if_neg Bool.false_ne_true))

variable {u : BrushUnit} {k : CylKind}

/-! ### Active (R70, R71, R83) -/

theorem switchOn_fault (h : switchLevel s u k.other = true) :
    switchOn u k s = enterFault u (notice (.switch u) true (loseComponent u k s)) := if_pos h

theorem switchOn_completes (h : switchLevel s u k.other = false) (hc : actionIs s u k = true) :
    switchOn u k s = runStartTest (completeAction u k s) :=
  (if_neg (by rw [h]; exact Bool.false_ne_true)).trans (if_pos hc)

theorem switchOn_stays (h : switchLevel s u k.other = false) (hc : ¬ actionIs s u k = true)
    (hs : actionMoves s u k = true ∨ holdsValue (s.armOf u) k = true) : switchOn u k s = s := by
  rw [switchOn, h, if_neg Bool.false_ne_true, if_neg hc]
  by_cases hm : actionMoves s u k = true
  · exact if_pos hm
  · exact (if_neg hm).trans (if_pos (hs.resolve_left hm))

theorem switchOn_takes (h : switchLevel s u k.other = false) (hm : ¬ actionMoves s u k = true)
    (hv : ¬ holdsValue (s.armOf u) k = true) : switchOn u k s = switchReplan u (setComponent u k s) := by
  rw [switchOn, h, if_neg Bool.false_ne_true, if_neg fun hc => hm (actionMoves_of_is s u k hc), if_neg hm, if_neg hv]

/-! ### Inactive (R70, R71, R75) -/

/-- What a pair that comes apart tells the switch condition. -/
def pairApart (u : BrushUnit) (k : CylKind) (s : State) : State :=
  if switchLevel s u k.other ∧ pairsClear (s.pins.switches.get u) then notice (.switch u) false s else s

theorem pairApart_moves : actionMoves (pairApart u k s) u k = actionMoves s u k := by
  unfold pairApart
  split
  · simp only [actionMoves, notice_arms]
  · rfl

theorem pairApart_armOf : (pairApart u k s).armOf u = s.armOf u := by
  unfold pairApart
  split
  · exact notice_armOf _ _ _ _
  · rfl

theorem switchOff_stays (h : actionMoves s u k = true ∨ ¬ holdsValue (s.armOf u) k = true) :
    switchOff u k s = pairApart u k s := by
  rw [← pairApart_moves (s := s), ← pairApart_armOf (s := s) (k := k)] at h
  by_cases hm : actionMoves (pairApart u k s) u k = true
  · exact if_pos hm
  · exact (if_neg hm).trans (if_neg (h.resolve_left hm))

theorem switchOff_loses (hm : ¬ actionMoves s u k = true) (hv : holdsValue (s.armOf u) k = true) :
    switchOff u k s = switchReplan u (
      if k = .swingOut then takeHold u .knock (loseComponent u k (pairApart u k s))
      else loseComponent u k (pairApart u k s)) := by
  rw [← pairApart_moves] at hm
  rw [← pairApart_armOf (s := s) (k := k)] at hv
  exact (if_neg hm).trans (if_pos hv)

end

/-- R70, R71, R75, R83: an end switch takes a level, in every case. -/
theorem endSwitch_followed (s : State) (sw : EndSwitch) :
    let u := switchUnit sw
    let k := switchKind sw
    let other := switchLevel s u k.other
    (s.mc.mode ≠ .standby → switchLevel s u k = false →
      (other = true → endSwitchChanged sw true s =
        enterFault u (notice (.switch u) true (loseComponent u k (s.withSwitch u k true)))) ∧
      (other = false → actionIs s u k = true →
        endSwitchChanged sw true s = runStartTest (completeAction u k (s.withSwitch u k true))) ∧
      (other = false → ¬ actionIs s u k = true → actionMoves s u k = true ∨ holdsValue (s.armOf u) k = true →
        endSwitchChanged sw true s = s.withSwitch u k true) ∧
      (other = false → ¬ actionMoves s u k = true → ¬ holdsValue (s.armOf u) k = true →
        endSwitchChanged sw true s = switchReplan u (setComponent u k (s.withSwitch u k true)))) := by
  intro u k other hm hl
  have ho : ∀ {b : Bool}, other = b → switchLevel (s.withSwitch u k true) u k.other = b := fun h =>
    (switchLevel_withSwitch_other s u k true).trans h
  rw [endSwitchChanged_on hl hm]
  exact ⟨fun h => switchOn_fault (ho h), fun h => switchOn_completes (s := s.withSwitch u k true) (ho h),
    fun h => switchOn_stays (s := s.withSwitch u k true) (ho h),
    fun h => switchOn_takes (s := s.withSwitch u k true) (ho h)⟩

/-! ## A lost component, and the planner behind a switch -/

theorem loseComponent_eq (u : BrushUnit) (k : CylKind) (s : State) :
    loseComponent u k s = if k.movesHeight then setHeight u .unknown s else setReach u .unknown s := rfl

theorem switchReplan_ended {u : BrushUnit} {s : State}
    (h : ((s.armOf u).activity = .spinningUp ∨ (s.armOf u).activity = .spinningDown) ∧ (s.armOf u).spin = .off) :
    switchReplan u s = runPlanner u (s.putArm u { s.armOf u with spinDownTimer := none }) := if_pos h

theorem switchReplan_other {u : BrushUnit} {s : State}
    (h : ¬ (((s.armOf u).activity = .spinningUp ∨ (s.armOf u).activity = .spinningDown) ∧ (s.armOf u).spin = .off)) :
    switchReplan u s = replan u s := if_neg h

/-! ## Entry to FAULT (R88) -/

section
variable (u : BrushUnit) (s : State)

theorem ownsAction_iff : ownsAction s u = true ↔ ∃ c, s.arms.action = some c ∧ c.unit = u := by
  unfold ownsAction
  cases s.arms.action <;> simp

theorem hasEntry_iff : hasEntry s u = true ↔ ∃ e ∈ s.arms.queue, e.unit = u := by simp [hasEntry]

/-- The unit's action and entry gone. -/
def withoutUnit : State := dropEntry u (if ownsAction s u then endAction s else s)

theorem withoutUnit_armOf (v : BrushUnit) : (withoutUnit u s).armOf v = s.armOf v := by
  unfold withoutUnit endAction
  split
  · split <;> rfl
  · rfl

theorem withoutUnit_eq : withoutUnit u s = { s with arms := { s.arms with
    queue := s.arms.queue.filter fun e => decide (e.unit ≠ u)
    action := s.arms.action.bind fun c => if c.unit = u then none else some c
    lastEnd := match s.arms.action with
      | some c => if c.unit = u then s.arms.lastEnd.set c.kind (some s.clock) else s.arms.lastEnd
      | none => s.arms.lastEnd } } := by
  unfold withoutUnit
  rw [dropEntry_eq]
  cases ha : s.arms.action with
  | none =>
    have : ¬ ownsAction s u = true := by simp [ownsAction_iff, ha]
    simp [this, ha]
  | some c =>
    by_cases hu : c.unit = u
    · have : ownsAction s u = true := (ownsAction_iff u s).2 ⟨c, ha, hu⟩
      simp [this, endAction, ha, hu]
    · have : ¬ ownsAction s u = true := by simp [ownsAction_iff, ha, hu]
      simp [this, ha, hu]

/-- The unit's record in FAULT: its spin OFF, its spin action ended. -/
def fallen (a : ArmUnit) : ArmUnit := { a with spin := .off, activity := .fault, spinDownTimer := none }

/-- The unit in FAULT, with the notices of its spin and its UNIT report. -/
def faultTold : State :=
  let f := (setSpin u .off ((withoutUnit u s).putArm u { s.armOf u with spinDownTimer := none })).putArm u
    (fallen (s.armOf u))
  if (s.armOf u).activity = .fault then f
  else f.post (.unit u .fault (s.armOf u).reach (s.armOf u).height .off .fault (s.armOf u).holds)

theorem enterFault_eq :
    enterFault u s =
      if ownsAction s u || hasEntry s u then runStartTest (postArmsDemand (faultTold u s))
      else postArmsDemand (faultTold u s) := by
  have hspun : endSpinAction u (withoutUnit u s) =
      (withoutUnit u s).putArm u { s.armOf u with spinDownTimer := none } := by
    rw [endSpinAction, withoutUnit_armOf]
  have hfallen : setActivity u .fault (setSpin u .off (endSpinAction u (withoutUnit u s))) =
      (setSpin u .off ((withoutUnit u s).putArm u { s.armOf u with spinDownTimer := none })).putArm u
        (fallen (s.armOf u)) := by
    rw [setActivity, hspun, setSpin_armOf, State.armOf_putArm]
    rfl
  have htold : (if (s.armOf u).activity = .fault then setActivity u .fault (setSpin u .off (endSpinAction u (withoutUnit u s)))
      else unitReport u .fault (setActivity u .fault (setSpin u .off (endSpinAction u (withoutUnit u s))))) =
      faultTold u s := by
    rw [hfallen, unitReport_putArm]
    rfl
  rw [← htold]
  rfl

theorem apart_faultTold : Apart u (fallen (s.armOf u)) (faultTold u s) := by
  have hq : ∀ e ∈ (withoutUnit u s).arms.queue, e.unit ≠ u := fun e he => by
    rw [withoutUnit_eq] at he
    exact of_decide_eq_true (List.mem_filter.1 he).2
  have key : Apart u (fallen (s.armOf u))
      ((setSpin u .off ((withoutUnit u s).putArm u { s.armOf u with spinDownTimer := none })).putArm u
        (fallen (s.armOf u))) :=
    ⟨State.armOf_putArm _ _ _, fun e he => hq e (by rwa [State.putArm_queue, setSpin_queue] at he)⟩
  unfold faultTold
  dsimp only
  split
  · exact key
  · exact key

theorem apart_enterFault : Apart u (fallen (s.armOf u)) (enterFault u s) := by
  rw [enterFault_eq]
  split
  · exact Apart.startTest 8 (apart_faultTold u s).demand
  · exact (apart_faultTold u s).demand

end

/-! ## The end time of a kind (R83, R84) -/

/-- The last end of a kind is now. -/
def EndedNow (k : CylKind) (s : State) : Prop := s.arms.lastEnd.get k = some s.clock

section
variable {u : BrushUnit} {k : CylKind} {s x : State}

theorem EndedNow.same (h : EndedNow k s) (hl : x.arms.lastEnd = s.arms.lastEnd) (hc : x.clock = s.clock) : EndedNow k x := by
  rw [EndedNow, hl, hc]
  exact h

theorem EndedNow.setSpin {sp : Spin} (h : EndedNow k s) : EndedNow k (setSpin u sp s) :=
  h.same ((congrArg Arms.lastEnd (setSpin_same u sp s).1).trans rfl)
    ((inner_sameShell s).loose.plain.setSpin (SameShell.refl s)).clock

theorem EndedNow.setReach {r : Reach} (h : EndedNow k s) : EndedNow k (setReach u r s) :=
  h.same ((congrArg Arms.lastEnd (setReach_same u r s).1).trans rfl)
    ((inner_sameShell s).loose.plain.setReach (SameShell.refl s)).clock

theorem EndedNow.setHeight {y : Height} (h : EndedNow k s) : EndedNow k (setHeight u y s) :=
  h.same ((congrArg Arms.lastEnd (setHeight_same u y s).1).trans rfl)
    ((inner_sameShell s).loose.plain.setHeight (SameShell.refl s)).clock

theorem EndedNow.setComponent {j : CylKind} (h : EndedNow k s) : EndedNow k (setComponent u j s) := by
  cases j
  · exact h.setReach
  · exact h.setReach
  · exact h.setHeight
  · exact h.setHeight

theorem EndedNow.loseComponent {j : CylKind} (h : EndedNow k s) : EndedNow k (loseComponent u j s) := by
  rw [loseComponent_eq]
  split
  · exact h.setHeight
  · exact h.setReach

theorem EndedNow.postArmsDemand (h : EndedNow k s) : EndedNow k (postArmsDemand s) := by
  rw [postArmsDemand_eq]
  dsimp only
  split
  · split <;> exact h
  · split <;> exact h

/-- Another end of now leaves the ends of now. -/
theorem EndedNow.endAction (h : EndedNow k s) : EndedNow k (endAction s) := by
  unfold Machine.endAction
  split
  · exact h
  · next c _ =>
    refine (PerKind.get_set _ _ _ _).trans ?_
    split
    · rfl
    · exact h

theorem EndedNow.planStep (h : EndedNow k s) : EndedNow k (planStep u s) := by
  unfold Machine.planStep
  refine EndedNow.postArmsDemand ?_
  split
  · dsimp only
    split <;> exact h
  · exact EndedNow.setSpin h
  · exact EndedNow.setSpin h
  · split <;> exact h

theorem EndedNow.startTest (n : Nat) : ∀ {s : State}, EndedNow k s → EndedNow k (startTest n s) := by
  induction n with
  | zero => exact fun h => h
  | succ n ih =>
    intro s h
    unfold Machine.startTest
    split
    · exact h
    · next e rest _ =>
      have hb : EndedNow k (beginAction e rest s) := h
      split
      · exact h
      · split
        · exact h
        · dsimp only
          split
          · exact ih hb.endAction.setComponent.planStep
          · exact hb

theorem EndedNow.enterFault (h : EndedNow k s) : EndedNow k (enterFault u s) := by
  have hw : EndedNow k (withoutUnit u s) := by
    unfold withoutUnit
    split
    · exact h.endAction
    · exact h
  have hs : EndedNow k (Machine.setSpin u .off ((withoutUnit u s).putArm u { s.armOf u with spinDownTimer := none })) :=
    EndedNow.setSpin hw
  have hp : EndedNow k (Machine.postArmsDemand (faultTold u s)) := by
    refine EndedNow.postArmsDemand ?_
    unfold faultTold
    dsimp only
    split <;> exact hs
  rw [enterFault_eq]
  split
  · exact hp.startTest 8
  · exact hp

end

/-! ## The timeout (R84) -/

/-- The planner says nothing of the sensor channels. -/
theorem planned_sameSensors (y : SensorMaster) : Planned fun x => x.sensors = y where
  toNoticed := noticed_sameSensors y
  arms := fun _ _ _ h => h
  post := fun _ _ h => h

/-- A planner run leaves the conditions that no brush output changes. -/
theorem planned_sameRecord {k : CondKind} (hk : ¬ plannedKind k) (ho : k ≠ .overspeed) (v : CondState) :
    Planned fun x => x.cond.get k = v where
  water := wet_of_spray fun _ _ h => h
  brush := fun _ _ _ h => h
  record := fun s j w hj h => by
    have hne : k ≠ j := fun e => hk (e.symm ▸ hj)
    rw [changeRecord_cond, CondTable.get_set, if_neg hne]
    exact h
  travel := fun s m _ _ h => by
    unfold driveEnterTravel clearOverspeed setOverspeed
    dsimp only
    split
    · split
      · rw [notice, changeRecord_cond, CondTable.get_set, if_neg ho]
        exact h
      · exact h
    · exact h
  arms := fun _ _ _ h => h
  post := fun _ _ h => h

theorem notice_present_then_gone {k : CondKind} (hk : k.latching = true) (s : State) :
    (notice k false (notice k true s)).cond.get k = .latched := by
  have h1 : (notice k true s).cond.get k = .present := by
    rw [notice, changeRecord_cond, CondTable.get_set, if_pos rfl]
    rfl
  rw [notice, changeRecord_cond, CondTable.get_set, if_pos rfl, h1]
  simp [CondState.noticed, hk]

theorem setHeight_armOf_kept (u : BrushUnit) (h : Height) (s : State) :
    ((setHeight u h s).armOf u).height = h ∧ ((setHeight u h s).armOf u).reach = (s.armOf u).reach ∧
    ((setHeight u h s).armOf u).holds = (s.armOf u).holds ∧ ((setHeight u h s).armOf u).goal = (s.armOf u).goal := by
  have e : (setHeight u h s).armOf u = _ :=
    (congrArg (fun a : Arms => a.units.get u) (setHeight_same u h s).1).trans (State.armOf_putArm s u _)
  rw [e]
  exact ⟨rfl, rfl, rfl, rfl⟩

/-- What the timeout of an action leaves. -/
theorem cylinderTimedOut_leaves (c : CylAction) (s : State) (hc : s.arms.action = some c) :
    let t := cylinderTimedOut c s
    (t.armOf c.unit).activity = .fault ∧ (t.armOf c.unit).spin = .off ∧ (t.armOf c.unit).spinDownTimer = none ∧
    (c.kind.movesHeight = true → (t.armOf c.unit).height = .unknown ∧ (t.armOf c.unit).reach = (s.armOf c.unit).reach) ∧
    (c.kind.movesHeight = false → (t.armOf c.unit).reach = .unknown ∧ (t.armOf c.unit).height = (s.armOf c.unit).height) ∧
    (t.armOf c.unit).holds = (s.armOf c.unit).holds ∧ (t.armOf c.unit).goal = (s.armOf c.unit).goal ∧
    t.arms.lastEnd.get c.kind = some t.clock ∧ (∀ e ∈ t.arms.queue, e.unit ≠ c.unit) ∧
    t.cond.get (.armTimeout c.unit) = .latched ∧
    SameShell s t ∧ t.recipes = s.recipes ∧ t.sensors = s.sensors := by
  intro t
  let lost := loseComponent c.unit c.kind (endAction s)
  let told := notice (.armTimeout c.unit) false (notice (.armTimeout c.unit) true lost)
  have ht : t = runStartTest (enterFault c.unit told) := rfl
  have hend : ∀ v, (endAction s).armOf v = s.armOf v := fun v => by rw [endAction, hc]; rfl
  have harm : told.armOf c.unit = lost.armOf c.unit := (notice_armOf _ _ _ _).trans (notice_armOf _ _ _ _)
  obtain ⟨hapart, hqueue⟩ : Apart c.unit (fallen (told.armOf c.unit)) t := Apart.startTest 8 (apart_enterFault c.unit told)
  rw [harm] at hapart
  have hlost : (lost.armOf c.unit).holds = (s.armOf c.unit).holds ∧ (lost.armOf c.unit).goal = (s.armOf c.unit).goal ∧
      (c.kind.movesHeight = true → (lost.armOf c.unit).height = .unknown ∧
        (lost.armOf c.unit).reach = (s.armOf c.unit).reach) ∧
      (c.kind.movesHeight = false → (lost.armOf c.unit).reach = .unknown ∧
        (lost.armOf c.unit).height = (s.armOf c.unit).height) := by
    rw [← hend]
    cases hk : c.kind.movesHeight with
    | true =>
      have e : lost = setHeight c.unit .unknown (endAction s) := if_pos hk
      obtain ⟨h1, h2, h3, h4⟩ := setHeight_armOf_kept c.unit .unknown (endAction s)
      rw [e]
      exact ⟨h3, h4, fun _ => ⟨h1, h2⟩, fun h => Bool.noConfusion h⟩
    | false =>
      have e : lost = setReach c.unit .unknown (endAction s) := if_neg (by rw [hk]; exact Bool.false_ne_true)
      rw [e, setReach_armOf]
      exact ⟨rfl, rfl, fun h => Bool.noConfusion h, fun _ => ⟨rfl, rfl⟩⟩
  obtain ⟨hholds, hgoal, hheight, hreach⟩ := hlost
  have hnow : EndedNow c.kind lost := by
    refine EndedNow.loseComponent ?_
    rw [EndedNow, endAction, hc]
    exact (PerKind.get_set _ _ _ _).trans (if_pos rfl)
  have hended : EndedNow c.kind t :=
    EndedNow.startTest 8 (EndedNow.enterFault (hnow.same
      (congrArg Arms.lastEnd ((notice_arms _ _ _).trans (notice_arms _ _ _)))
      ((notice_clock _ _ _).trans (notice_clock _ _ _))))
  have hsensors : told.sensors = s.sensors := by
    have h1 : lost.sensors = s.sensors := (planned_sameSensors s.sensors).loseComponent ((by rw [endAction, hc]))
    exact (notice_sensors _ _ _).trans ((notice_sensors _ _ _).trans h1)
  rw [hapart]
  refine ⟨rfl, rfl, rfl, hheight, hreach, hholds, hgoal, hended, hqueue, ?_,
    (inner_sameShell s).loose.plain.cylinderTimedOut (SameShell.refl s),
    (inner_sameRecipes s.recipes).loose.plain.cylinderTimedOut rfl,
    (planned_sameSensors s.sensors).runStartTest ((planned_sameSensors s.sensors).enterFault hsensors)⟩
  have p := planned_sameRecord (k := .armTimeout c.unit) id (by nofun) .latched
  exact p.runStartTest (p.enterFault (notice_present_then_gone rfl lost))

/-- Settles O43: the switch in its cases, the tables, entry to FAULT and the timeout. -/
theorem endSwitchesAreFollowed : Obligations.EndSwitchesAreFollowed := by
  refine ⟨fun s sw => ?_, ⟨rfl, rfl, fun w v => ⟨rfl, rfl, rfl, rfl, rfl, rfl, rfl, rfl⟩, fun a => ?_, fun s u => ?_⟩,
    fun s u => ?_, fun s c hc => ?_⟩
  · intro u k set other moves completes has
    have hexec : ∀ v, exec (.endSwitchChange sw v) s = .next (endSwitchChanged sw v s).sent := fun _ => rfl
    refine ⟨?_, fun hm v => ?_, fun hm hl => ?_, fun hm hl => ?_⟩
    · rw [hexec, endSwitchChanged_same rfl]
    · rw [hexec]
      split
      · next h => rw [endSwitchChanged_same h]
      · next h => rw [endSwitchChanged_asleep h hm]; rfl
    · obtain ⟨h1, h2, h3, h4⟩ := endSwitch_followed s sw hm hl
      rw [actionIs_iff] at h2 h3
      rw [actionMoves_iff] at h3 h4
      rw [hexec]
      exact ⟨fun ho => by rw [h1 ho]; rfl, fun ho hc => by rw [h2 ho hc]; rfl,
        fun ho hc hs => by rw [h3 ho hc hs]; rfl, fun ho hm hv => by rw [h4 ho hm hv]; rfl⟩
    · intro w apart
      have hw : (s.withSwitch u k false).pins.switches.get u = w := withSwitch_switches s u k false
      have hapart : pairApart u k (s.withSwitch u k false) = apart := by
        unfold pairApart
        rw [hw, switchLevel_withSwitch_other]
        simp only [pairsClear_iff, not_or]
        rfl
      rw [hexec, endSwitchChanged_off hl hm]
      have hstays := switchOff_stays (s := s.withSwitch u k false) (u := u) (k := k)
      have hloses := switchOff_loses (s := s.withSwitch u k false) (u := u) (k := k)
      rw [hapart, actionMoves_iff] at hstays hloses
      refine ⟨fun h => by rw [hstays h], fun hmoves hhas hk => ?_, fun hmoves hhas hk => ?_⟩
      · rw [hloses hmoves hhas, if_neg hk]
      · rw [hloses hmoves hhas, if_pos hk, hk]
        rfl
  · exact ⟨by simp [holdsValue], by simp [holdsValue], by simp [holdsValue], by simp [holdsValue]⟩
  · intro a ended
    exact ⟨fun _ => rfl, rfl, rfl, rfl, rfl, switchReplan_ended, switchReplan_other⟩
  · intro a fallenRecord gone stopped faulted told
    have hgone : gone ↔ (ownsAction s u || hasEntry s u) = true := by
      rw [Bool.or_eq_true, ownsAction_iff, hasEntry_iff]
    have htold : faultTold u s = told := by
      unfold faultTold
      rw [withoutUnit_eq]
      rfl
    have he := enterFault_eq u s
    rw [htold] at he
    obtain ⟨h1, h2⟩ := apart_enterFault u s
    exact ⟨fun hg => he.trans (if_pos (hgone.1 hg)), fun hg => he.trans (if_neg (hgone.not.1 hg)), h1, h2, rfl⟩
  · have hrun : exec .cylinderTimeoutExpiry s = .next (cylinderTimedOut c (s.atTime c.due)).sent := by
      show finish _ = _
      rw [hc]
      rfl
    obtain ⟨h1, h2, h3, h4, h5, h6, h7, h8, h9, h10, hshell, hrec, hsen⟩ :=
      cylinderTimedOut_leaves c (s.atTime c.due) hc
    exact ⟨_, hrun, hshell.clock, h1, h2, h3, h4, h5, h6, h7, h8, h9, h10, hshell.pins, hshell.setup, hshell.pcu, hrec, hsen⟩

end Sys2Proof.Machine
end

section
/-! The Sensor Link Master: what a reply means and an outcome does (R144, R147 to R151, R153), and the line's phases and
rounds (R143, R146, R152). -/

namespace Sys2Proof.Machine

/-! ## Replies (R144, R147) -/

theorem saturate_eq (r : Role) (v : Int) : saturate r v = max (roleRange r).1 (min (roleRange r).2 v) :=
  clamp_eq (by cases r <;> decide) v

theorem interpret_identify (r : Role) (hold : Bool) (code high low : Byte) :
    interpret r .identify hold code high low =
      if code = 0x00 ∨ code = 0x01 then if high = roleKind r then .identified else .outcome .mismatch
      else .outcome (.failure (if code = 0x08 then .nodeFault else .badCode)) := rfl

theorem interpret_state (r : Role) (hold : Bool) (code high low : Byte) :
    interpret r .state hold code high low =
      if code = 0x00 then .follow else if code = 0x01 then if hold then .outcome .none else .follow
      else .outcome (.failure (if code = 0x08 then .nodeFault else .badCode)) := rfl

theorem interpret_read (r : Role) (hold : Bool) (code high low : Byte) :
    interpret r .read hold code high low =
      (let value : Answered :=
         .outcome (.good (max (roleRange r).1 (min (roleRange r).2 (high ++ low : BitVec 16).toInt)))
       if code = 0x00 then value else if code = 0x01 then if hold then .outcome .none else value
       else if code = 0x02 then .outcome (.good (roleRange r).2)
       else if code = 0x03 then .outcome (.good (roleRange r).1)
       else .outcome (.failure (if code = 0x08 then .nodeFault else .badCode))) := by
  unfold interpret
  rw [saturate_eq]
  rfl

/-! ## Channels (R147 to R150, Table 9-5) -/

section
variable {c : Channel} {k : Nat} {v : Int} {w : Cause}

theorem apply_good (h : c.state ≠ .unassigned) : c.apply k (.good v) = c.onGood k v := if_neg h

theorem apply_failure (h : c.state ≠ .unassigned) : c.apply k (.failure w) = c.onFailure w := if_neg h

theorem apply_unassigned (h : c.state = .unassigned) (o : PollOutcome) : c.apply k o = c := if_pos h

theorem apply_none : c.apply k .none = c := by
  unfold Channel.apply
  split <;> rfl

/-- The channel with a value just read. -/
def Channel.read (c : Channel) (v : Int) : Channel :=
  { c with
    raw := v
    failures := 0 }

theorem onGood_unknown (h : c.state = .unknown) : c.onGood k v = (c.read v).seed.recover := by
  obtain ⟨st, i, n, g, raw, f, y, cause⟩ := c
  cases h
  rfl

theorem onGood_ok (h : c.state = .ok) : c.onGood k v = (c.read v).filterStep k := by
  obtain ⟨st, i, n, g, raw, f, y, cause⟩ := c
  cases h
  rfl

theorem onGood_suspect (h : c.state = .suspect) : c.onGood k v = ((c.read v).filterStep k).recover := by
  obtain ⟨st, i, n, g, raw, f, y, cause⟩ := c
  cases h
  rfl

theorem onGood_lost (h : c.state = .lost) :
    c.onGood k v = if c.goodRun = 0 then { (c.read v).seed with goodRun := 1 }
      else ((c.read v).filterStep k).recover := by
  obtain ⟨st, i, n, g, raw, f, y, cause⟩ := c
  cases h
  rfl

theorem onFailure_counted (h : c.state = .unknown ∨ c.state = .suspect) :
    c.onFailure w = if 3 ≤ min 255 (c.failures + 1) then c.countFailure.lose w else c.countFailure := by
  obtain ⟨st, i, n, g, raw, f, y, cause⟩ := c
  rcases h with h | h <;> cases h <;> rfl

theorem apply_mismatch (h : c.state ≠ .unassigned) : c.apply k .mismatch = c.countFailure.lose .mismatch := by
  obtain ⟨st, i, n, g, raw, f, y, cause⟩ := c
  cases st <;> first | rfl | exact absurd rfl h

theorem usable_iff {st : ChannelState} : st.usable = true ↔ st = .ok ∨ st = .suspect := by
  cases st <;> simp [ChannelState.usable]

end

/-! ## Outcomes (R149, R151) -/

/-- An outcome publishes a value: it is good, and found the channel usable. -/
def PollOutcome.publishes (o : PollOutcome) (before : ChannelState) : Bool :=
  match o with
  | .good _ => before.usable
  | _ => false

theorem publishes_iff {o : PollOutcome} {st : ChannelState} :
    o.publishes st = true ↔ st.usable = true ∧ ∃ v, o = .good v := by
  cases o <;> simp [PollOutcome.publishes]

/-- Whether an outcome reaches the readers of its role. -/
theorem applyOutcome_eq (r : Role) (o : PollOutcome) (s : State) :
    let before := s.sensors.channels.get r
    let after := before.apply (s.setup.filterK r) o
    let noticed := lostNotice r before.state after.state (s.putChannel r after)
    (¬(before.state.usable = true ↔ after.state.usable = true) ∨ (before.state.usable = true ∧ ∃ v, o = .good v) →
      applyOutcome r o s = tellReaders r noticed) ∧
    ((before.state.usable = true ↔ after.state.usable = true) ∧ ¬(before.state.usable = true ∧ ∃ v, o = .good v) →
      applyOutcome r o s = noticed) := by
  intro before after noticed
  have hcond : (before.state.usable != after.state.usable || o.publishes before.state) = true ↔
      ¬(before.state.usable = true ↔ after.state.usable = true) ∨ (before.state.usable = true ∧ ∃ v, o = .good v) := by
    rw [Bool.or_eq_true, publishes_iff, bne_iff_ne, ne_eq, Bool.eq_iff_iff]
  exact ⟨fun h => if_pos (hcond.2 h), fun h => if_neg (hcond.not.2 (not_or.2 ⟨not_not.2 h.1, h.2⟩))⟩

/-- Each brush's demand follows the auxiliary pressure; nothing else of the state does. -/
theorem tellReaders_auxP (s : State) :
    (∀ u, (tellReaders .auxP s).brushOf u = { s.brushOf u with
      demand := min 2000 ((s.sensor .auxP * (s.brushOf u).c * s.setup.vm u).tdiv 600000) }) ∧
    tellReaders .auxP s = { s with brush := { s.brush with units := (tellReaders .auxP s).brush.units } } := by
  refine ⟨fun u => ?_, rfl⟩
  have hleast : ∀ x : Int, least 2000 x = min 2000 x := fun x => by rw [least, Int.min_def]
  cases u <;> simp only [← hleast] <;> rfl

theorem sensor_usable {s : State} {r : Role} (h : (s.sensors.channels.get r).state.usable = true) :
    s.sensor r = (s.sensors.channels.get r).filtered := if_pos h

theorem sensor_unusable {s : State} {r : Role} (h : ¬ (s.sensors.channels.get r).state.usable = true) :
    s.sensor r = s.substitute r := if_neg h

/-! ## SENSOR_READ (R153) -/

theorem takeSensorRead_unknown {n : Byte} (h : 7 < n.toNat) (s : State) : takeSensorRead n s = (s, [0x17]) := by
  have hn : roleOf? n.toNat = none := List.getElem?_eq_none h
  rw [takeSensorRead, hn]
  rfl

theorem takeSensorRead_role {n : Byte} {r : Role} (h : roleOf? n.toNat = some r) (s : State) :
    takeSensorRead n s = (s, [0x00, n, (s.sensors.channels.get r).state.code] ++
      bytes16 (s.sensors.channels.get r).raw ++ bytes16 (s.sensors.channels.get r).filtered ++
      [byte (s.sensors.channels.get r).failures, causeCode (s.sensors.channels.get r).cause]) := by
  rw [takeSensorRead, h]
  rfl

/-- Settles O51: replies by command and code, channels by state and outcome, and who is told. -/
theorem channelsFollowTheirOutcomes : Obligations.ChannelsFollowTheirOutcomes := by
  refine ⟨⟨fun r hold code high low => ?_, fun c k => ?_, fun s r o => ?_, fun s => ?_⟩, fun s => ⟨fun r => ?_,
    fun tag n hr => ⟨fun hm => ?_, fun hm hn => ?_, fun r hm hn => ?_⟩⟩⟩
  · exact ⟨interpret_identify r hold code high low, interpret_state r hold code high low, interpret_read r hold code high low⟩
  · intro n lost ok
    have assigned : ∀ {st : ChannelState}, c.state = st → st ≠ .unassigned → c.state ≠ .unassigned := fun h hn => h ▸ hn
    refine ⟨fun v => ?_, fun w => ?_, apply_mismatch, apply_none, apply_unassigned⟩
    · intro read
      have step : ∀ {st : ChannelState}, c.state = st → st ≠ .unassigned → c.apply k (.good v) = c.onGood k v :=
        fun h hn => apply_good (assigned h hn)
      refine ⟨fun h => ?_, fun h => ?_, fun h => ?_, fun h hg => ?_, fun h hg => ?_⟩
      · exact (step h (by decide)).trans (onGood_unknown h)
      · exact (step h (by decide)).trans (onGood_ok h)
      · exact (step h (by decide)).trans (onGood_suspect h)
      · exact (step h (by decide)).trans ((onGood_lost h).trans (if_pos hg))
      · exact (step h (by decide)).trans ((onGood_lost h).trans (if_neg hg))
    · refine ⟨fun h => ?_, fun h => ?_, fun h => ?_⟩
      · rw [apply_failure (assigned h (by decide)), Channel.onFailure]
        simp only [Channel.countFailure, h]
        rfl
      · have ha : c.state ≠ .unassigned := by rcases h with h | h <;> rw [h] <;> decide
        rw [apply_failure ha, onFailure_counted h]
        rfl
      · rw [apply_failure (assigned h (by decide)), Channel.onFailure]
        simp only [Channel.countFailure, h]
        rfl
  · intro before after put noticed usable
    have h := applyOutcome_eq r o s
    dsimp only at h
    rw [usable_iff, usable_iff] at h
    exact h
  · exact ⟨rfl, rfl, rfl, rfl, rfl, rfl, rfl, tellReaders_auxP s⟩
  · intro c
    refine ⟨fun h => sensor_usable (usable_iff.2 h), fun h => (sensor_unusable (usable_iff.not.2 h)).trans ?_⟩
    cases r <;> rfl
  · exact exec_busy rfl rfl (by decide) hr hm
  · exact finish_judged_answered (act := takeSensorRead n) hr hm (takeSensorRead_unknown hn _)
  · intro c state cause
    refine finish_judged_answered (act := takeSensorRead n) hr hm ((takeSensorRead_role hn _).trans ?_)
    have hstate : c.state.code = state := by cases h : c.state <;> simp only [state, h] <;> rfl
    have hcause : causeCode c.cause = cause := by
      cases h : c.cause with
      | none => simp only [cause, h]; rfl
      | some w => cases w <;> simp only [cause, h] <;> rfl
    rw [← hstate, ← hcause]
    rfl

/-! ## Transactions and rounds (R143, R146, R147) -/

theorem beginTransaction_eq (r : Role) (c : NodeCommand) (q : PollSettings) (s : State) :
    beginTransaction r c q s = { s with sensors := { s.sensors with
      line := .sending ⟨r, c, BitVec.ofNat 8 (s.setup.address r).toNat, q.holdWarming, false, false⟩
        [BitVec.ofNat 8 (s.setup.address r).toNat, (match c with
            | .identify => 0x10
            | .state => 0x20
            | .read => 0x30 : Byte), 0,
          crc8 [BitVec.ofNat 8 (s.setup.address r).toNat, (match c with
            | .identify => 0x10
            | .state => 0x20
            | .read => 0x30 : Byte), 0]] (s.clock + 160) } } := by
  cases c <;> rfl

theorem pollCommand_eq (c : Channel) (q : PollSettings) :
    pollCommand c q = if (c.state = .unknown ∨ c.state = .lost) ∧ c.identified = false then .identify
      else if q.queryFirst then .state else .read := by
  unfold pollCommand
  simp only [Bool.not_eq_true']

section
variable {s : State} {x : Round}

theorem nextTransaction_follows {r : Role} (h : x.follow = some r) :
    nextTransaction x s =
      beginTransaction r .read (x.settings.get r) (s.putRound (some { x with follow := none })) := by
  rw [nextTransaction, h]

theorem nextTransaction_polls {r : Role} {rest : List Role} (hf : x.follow = none) (h : x.due = r :: rest) :
    nextTransaction x s =
      beginTransaction r (pollCommand (s.sensors.channels.get r) (x.settings.get r)) (x.settings.get r)
        (s.putRound (some { x with due := rest })) := by
  rw [nextTransaction, hf, h]

theorem nextTransaction_ends (hf : x.follow = none) (h : x.due = []) : nextTransaction x s = advanceCounter s := by
  rw [nextTransaction, hf, h]

/-- The round that starts now. -/
def newRound (s : State) : Round := ⟨allRoles.filter (roleDue s), none, roundSettings s, false⟩

/-- The state in which the new round begins. -/
def roundBegun (s : State) : State :=
  { s with sensors := { s.sensors with roundTimer := s.startMs s.setup.roundPeriod, round := some (newRound s) } }

theorem startRound_begins (s : State) :
    startRound s =
      if (newRound s).due = [] then advanceCounter (roundBegun s)
      else if s.sensors.line = .idle then nextTransaction (newRound s) (roundBegun s)
      else roundBegun s := by
  by_cases hd : (newRound s).due = []
  · rw [if_pos hd]
    cases hl : s.sensors.line with
    | idle =>
      refine Eq.trans ?_ (nextTransaction_ends (x := newRound s) rfl hd)
      rw [startRound, hl]
      rfl
    | sending => rw [startRound, hl]; exact if_pos (List.isEmpty_iff.2 hd)
    | window => rw [startRound, hl]; exact if_pos (List.isEmpty_iff.2 hd)
    | turnaround => rw [startRound, hl]; exact if_pos (List.isEmpty_iff.2 hd)
  · rw [if_neg hd]
    cases hl : s.sensors.line with
    | idle => rw [startRound, hl]; rfl
    | sending => rw [startRound, hl]; exact if_neg (List.isEmpty_iff.not.2 hd)
    | window => rw [startRound, hl]; exact if_neg (List.isEmpty_iff.not.2 hd)
    | turnaround => rw [startRound, hl]; exact if_neg (List.isEmpty_iff.not.2 hd)

theorem roleDue_eq (s : State) :
    roleDue s = fun r => decide (s.sensors.counter % s.setup.divisor r = 0 ∧
      (s.sensors.channels.get r).state ≠ .unassigned) := by
  funext r
  rw [roleDue, Bool.eq_iff_iff, Bool.and_eq_true, beq_iff_eq, bne_iff_ne, decide_eq_true_iff]

theorem roundPeriodOver_eq (s : State) :
    roundPeriodOver s =
      if s.sensors.round = none then startRound { s with sensors := { s.sensors with roundTimer := none } }
      else { s with sensors := { s.sensors with roundTimer := none } } := by
  unfold roundPeriodOver
  simp only [Option.isNone_iff_eq_none]

theorem turnaroundOver_none (h : s.sensors.round = none) : turnaroundOver s = s.putLine .idle := by
  unfold turnaroundOver
  dsimp only
  rw [show (s.putLine .idle).sensors.round = none from h]

theorem turnaroundOver_some (h : s.sensors.round = some x) :
    turnaroundOver s =
      if (nextTransaction x (s.putLine .idle)).sensors.round = none ∧
          (nextTransaction x (s.putLine .idle)).sensors.roundTimer = none then
        startRound (nextTransaction x (s.putLine .idle))
      else nextTransaction x (s.putLine .idle) := by
  unfold turnaroundOver
  dsimp only
  rw [show (s.putLine .idle).sensors.round = some x from h]
  simp only [Option.isNone_iff_eq_none]

/-! ## The end of a transaction (R146, R147) -/

theorem followWithRead_follows {tx : Transaction} (h : s.sensors.round = some x) (ho : tx.orphan = false)
    (hc : x.closing = false) : followWithRead tx s = s.putRound (some { x with follow := some tx.role }) := by
  rw [followWithRead, h]
  exact if_neg (by rw [ho, hc]; exact Bool.false_ne_true)

theorem followWithRead_stays {tx : Transaction}
    (h : tx.orphan = true ∨ ∀ x, s.sensors.round = some x → x.closing = true) : followWithRead tx s = s := by
  unfold followWithRead
  split
  · next x hx =>
    refine if_pos ?_
    rcases h with h | h
    · rw [h]; rfl
    · rw [h x hx, Bool.or_true]
  · rfl

theorem closeRound_open (h : s.sensors.round = some x) (hc : x.closing = false) : closeRound s = s := by
  rw [closeRound, h]
  exact if_neg (by rw [hc]; exact Bool.false_ne_true)

theorem replyChecked_iff (tx : Transaction) (a code high low check : Byte) :
    replyChecked tx a code high low check = true ↔ check = crc8 [a, code, high, low] ∧ a = tx.address := by
  simp [replyChecked]

end

/-- Settles O49: the line's phases, the end of a transaction, the next of a round, and how rounds start. -/
theorem sensorLineRunsItsPhases : Obligations.SensorLineRunsItsPhases := by
  intro s sensors released ended finished sends
  have hclose : ∀ x, closeRound x = finished x := fun x => rfl
  have hbegin : ∀ r c q x, beginTransaction r c q x = sends r c q.holdWarming x := fun r c q x => by cases c <;> rfl
  refine ⟨fun tx frame due h => ?_, fun tx due h => ⟨?_, fun a code high low check => ?_⟩,
    fun h a code high low check => ?_, fun tx o => ?_, fun tx => ?_, fun tx x hd ho hx hc => ?_, fun tx h => ?_,
    fun x => ⟨fun r h => ?_, fun r rest hf h => ?_, nextTransaction_ends⟩, ⟨fun r => by cases r <;> exact ⟨rfl, rfl⟩, ?_⟩,
    fun due h => ?_, fun due h => ⟨fun hx => ?_, fun x hx => ?_⟩, ?_⟩
  · refine congrArg finish ?_
    rw [frameSent, h]
    rfl
  · refine congrArg finish ?_
    rw [windowClosed, h]
  · refine congrArg finish ?_
    rw [replyReceived, h]
    exact congrArg (fun m => endTransaction tx m s) (if_congr (replyChecked_iff tx a code high low check) rfl rfl)
  · refine congrArg finish ?_
    unfold replyReceived
    split
    · next tx due hl => exact absurd hl (h tx due)
    · rfl
  · exact hclose _
  · exact hclose _
  · have hf := followWithRead_follows (s := beginTurnaround s) (tx := tx) hx ho hc
    have he : endTransaction tx .follow s = closeRound (followWithRead tx (beginTurnaround s)) :=
      congrArg closeRound (if_neg (by rw [hd]; exact Bool.false_ne_true))
    rw [he, hf]
    exact closeRound_open rfl hc
  · refine Eq.trans (congrArg closeRound ?_) (hclose released)
    split
    · rfl
    · next hd => exact followWithRead_stays (s := beginTurnaround s) (h.resolve_left hd)
  · rw [nextTransaction_follows h, hbegin]
    rfl
  · intro c
    rw [nextTransaction_polls hf h, hbegin, pollCommand_eq]
    rfl
  · rw [startRound_begins]
    simp only [roundBegun, newRound, roleDue_eq]
    rfl
  · intro expired
    have hrun : exec .roundPeriodTimerExpiry s = finish (roundPeriodOver (s.atTime due)) :=
      congrArg (fun t => finish (onExpiry t roundPeriodOver s)) h
    rw [hrun, roundPeriodOver_eq]
    rfl
  · have hrun : exec .turnaroundExpiry s = finish (turnaroundOver (s.atTime due)) := by
      show finish _ = _
      rw [h]
    rw [hrun, turnaroundOver_none (s := s.atTime due) hx]
    rfl
  · intro n
    have hrun : exec .turnaroundExpiry s = finish (turnaroundOver (s.atTime due)) := by
      show finish _ = _
      rw [h]
    rw [hrun, turnaroundOver_some (s := s.atTime due) hx]
    rfl
  · intro orphaned marked
    refine congrArg startRound ?_
    cases hr : s.sensors.round with
    | none => rfl
    | some x =>
      refine congrArg advanceCounter ?_
      cases hl : s.sensors.line <;> simp only [marked, sensors, hl, Line.mark, State.putLine] <;> rfl

end Sys2Proof.Machine
end

section
/-! SETUP_WRITE with its effects, and SETUP_READ (R172, R66, R24, R90, R99, R106, R151, R152, R163). -/

namespace Sys2Proof.Machine

/-! ## The pairs of a write, applied in list order (R172) -/

theorem group_length (x : Setup) (g : Nat) : (x.group g).length = (setupRanges g).length := by
  unfold Setup.group setupRanges
  split <;> simp [allRoles, roleParamRanges]

theorem lt_group_length {g n : Nat} (h : setupRange g n ≠ none) (x : Setup) : n < (x.group g).length := by
  obtain ⟨r, hr⟩ := Option.ne_none_iff_exists'.1 h
  rw [group_length]
  exact (List.getElem?_eq_some_iff.1 (setupRange_eq_some hr).2).1

theorem put_getElem? (x : Setup) {g n : Nat} (h : setupRange g n ≠ none) (v : Int) (k i : Nat) :
    ((x.put g n v).group k)[i]? = if k = g ∧ n = i then some v else (x.group k)[i]? := by
  rw [Setup.put_group]
  by_cases hk : k = g
  · subst hk
    by_cases hi : n = i
    · subst hi
      simp [lt_group_length h x]
    · simp [hi]
  · simp [hk]

/-- A named parameter takes the limited value of its last pair; every other keeps its value. -/
theorem applyPairs_getElem? {g k i : Nat} : ∀ (ps : List (Byte × Int)) (x : Setup),
    (∀ p ∈ ps, setupRange g p.1.toNat ≠ none) →
    ((applyPairs g ps x).group k)[i]? =
      match (ps.filter fun p => decide (k = g ∧ p.1.toNat = i)).getLast? with
      | some p => some (limited g p.1 p.2)
      | none => (x.group k)[i]?
  | [], _, _ => rfl
  | p :: rest, x, h => by
    have ih := applyPairs_getElem? (g := g) (k := k) (i := i) rest (x.put g p.1.toNat (limited g p.1 p.2))
      fun q hq => h q (List.mem_cons_of_mem p hq)
    rw [put_getElem? x (h p (List.mem_cons_self ..))] at ih
    refine ih.trans ?_
    rw [List.filter_cons]
    by_cases hrest : (rest.filter fun p => decide (k = g ∧ p.1.toNat = i)) = []
    · rw [hrest]
      by_cases hp : k = g ∧ p.1.toNat = i
      · rw [if_pos hp, if_pos (decide_eq_true hp)]
        rfl
      · rw [if_neg hp, if_neg (by simpa using hp)]
    · have hlast : (if decide (k = g ∧ p.1.toNat = i) = true then
          p :: rest.filter fun p => decide (k = g ∧ p.1.toNat = i)
          else rest.filter fun p => decide (k = g ∧ p.1.toNat = i)).getLast? =
          (rest.filter fun p => decide (k = g ∧ p.1.toNat = i)).getLast? := by
        split
        · exact List.getLast?_cons_of_ne_nil hrest
        · rfl
      rw [hlast, List.getLast?_eq_some_getLast hrest]

/-- The lowering of some units' stop_rpm leaves every other place. -/
theorem lowered_others {k i : Nat} (us : List BrushUnit) : ∀ (x : Setup), (∀ u ∈ us, ¬(k = 1 ∧ i = stopNumber u)) →
    ((us.foldl (fun x u => x.put 1 (stopNumber u) (x.startRpm u - 1)) x).group k)[i]? = (x.group k)[i]? := by
  induction us with
  | nil => exact fun _ _ => rfl
  | cons u us ih =>
    intro x h
    have hu : setupRange 1 (stopNumber u) ≠ none := by cases u <;> decide
    refine (ih _ fun v hv => h v (List.mem_cons_of_mem u hv)).trans ((put_getElem? x hu _ k i).trans (if_neg ?_))
    exact fun ⟨hk, hi⟩ => h u (List.mem_cons_self ..) ⟨hk, hi.symm⟩

theorem limited_eq (g : Nat) (n : Byte) (v : Int) :
    limited g n v = match setupRange g n.toNat with
      | some (lo, hi) => max lo (min hi v)
      | none => v := by
  unfold limited
  cases h : setupRange g n.toNat with
  | none => rfl
  | some r => exact clamp_eq (setupRange_le h) v

/-- The numbers of the stop_rpm parameters that a BRUSH write lowers, in number order. -/
theorem loweredNumbers_eq {g : Nat} {ps : List (Byte × Int)} {x : Setup} {lowered : BrushUnit → Bool}
    (h : ∀ u, lowered u = decide (g = 1 ∧ (applyPairs g ps x).startRpm u ≤ (applyPairs g ps x).stopRpm u)) :
    loweredNumbers g ps x =
      ([(BrushUnit.l, (3 : Byte)), (.r, 4), (.m, 5)].filter fun e => lowered e.1).map Prod.snd := by
  have hlist : [(BrushUnit.l, (3 : Byte)), (.r, 4), (.m, 5)] =
      [BrushUnit.l, .r, .m].map fun u => (u, byte (stopNumber u)) := rfl
  rw [hlist, List.filter_map, List.map_map]
  unfold loweredNumbers stopsTooHigh
  split
  · next hg =>
    refine congrArg (List.map fun u => byte (stopNumber u)) (List.filter_congr fun u _ => ?_)
    show _ = lowered u
    rw [h, Bool.eq_iff_iff]
    simp [hg]
  · next hg =>
    have hnone : [BrushUnit.l, .r, .m].filter ((fun e : BrushUnit × Byte => lowered e.1) ∘
        fun u => (u, byte (stopNumber u))) = [] :=
      List.filter_eq_nil_iff.2 fun u _ => by
        show ¬ lowered u = true
        simp [h, hg]
    rw [hnone]
    rfl

section
variable {group : Nat} {ps : List (Byte × Int)} {s : State}

theorem takeSetupWrite_refused (h1 : s.mc.mode ≠ .standby) (h2 : s.mc.mode ≠ .park) :
    takeSetupWrite group ps s = (s, [0x11]) := if_pos ⟨h1, h2⟩

theorem takeSetupWrite_badTable (hm : s.mc.mode = .standby ∨ s.mc.mode = .park)
    (h : ∃ p ∈ ps, setupRange group p.1.toNat = none) : takeSetupWrite group ps s = (s, [0x18]) := by
  refine (if_neg fun hc => hm.elim hc.1 hc.2).trans (if_pos ?_)
  simpa using h

theorem takeSetupWrite_taken (hm : s.mc.mode = .standby ∨ s.mc.mode = .park)
    (h : ∀ p ∈ ps, setupRange group p.1.toNat ≠ none) :
    takeSetupWrite group ps s =
      (setupEffects group (ps.map fun p => p.1.toNat) s.setup { s with setup := writtenSetup group ps s.setup },
        clampedReply (clampedNumbers group ps s.setup)) := by
  refine (if_neg fun hc => hm.elim hc.1 hc.2).trans (if_neg ?_)
  simpa using h

end

/-! ## Effects at once -/

/-- What a changed address does to its channel, the round and the transaction in progress (R152). -/
theorem addressChanged_eq (r : Role) (x : State) :
    let c := x.sensors.channels.get r
    let mark (tx : Transaction) : Transaction := if tx.role = r then { tx with discard := true } else tx
    let fresh := { x with sensors := { x.sensors with
      line := match x.sensors.line with
        | .sending tx frame due => .sending (mark tx) frame due
        | .window tx due => .window (mark tx) due
        | l => l
      round := x.sensors.round.map fun z => { z with
        due := z.due.filter fun q => decide (q ≠ r), follow := if z.follow = some r then none else z.follow }
      channels := x.sensors.channels.set r { c with
        state := if x.setup.address r = 0 then .unassigned else .unknown
        identified := false, failures := 0, goodRun := 0, cause := none } } }
    let noticed := if c.state = .lost then notice (.sensorLost r) false fresh else fresh
    addressChanged r x = if c.state = .ok ∨ c.state = .suspect then tellReaders r noticed else noticed := by
  intro c mark fresh noticed
  have hq : (fun q : Role => q != r) = fun q => decide (q ≠ r) := by
    funext q
    rw [bne, decide_not, beq_eq_decide]
  have key : addressChanged r x = if c.state.usable then tellReaders r noticed else noticed := by
    unfold addressChanged
    rw [hq]
    cases hr : x.sensors.round <;> simp only [noticed, fresh, hr] <;> cases x.sensors.line <;>
      simp only [State.putLine, State.putRound, State.putChannel, Line.mark, hr, startState, Option.map] <;> rfl
  rw [key]
  exact if_congr usable_iff rfl rfl

theorem substituteChanged_eq (r : Role) (x : State) :
    substituteChanged r x = if x.usable r = true then x else tellReaders r x := rfl

theorem roleWritten_setup (before : Setup) (x : State) (r : Role) : (roleWritten before x r).setup = x.setup :=
  ((inner_sameShell x).blocks.roleWritten (SameShell.refl x)).setup

/-- Two folds agree when their steps agree on the states that the first one meets. -/
theorem foldl_congr_of {α β : Type} {f g : β → α → β} {P : β → Prop} (hf : ∀ x a, P x → P (f x a))
    (h : ∀ x a, P x → f x a = g x a) : ∀ (l : List α) (x : β), P x → l.foldl f x = l.foldl g x
  | [], _, _ => rfl
  | a :: l, x, hx => by
    rw [List.foldl_cons, List.foldl_cons, ← h x a hx]
    exact foldl_congr_of hf h l _ (hf x a hx)

theorem postArmsDemand_arms (s : State) :
    (postArmsDemand s).arms.spacingTimer = s.arms.spacingTimer ∧ (postArmsDemand s).arms.queue = s.arms.queue ∧
    (postArmsDemand s).arms.lastEnd = s.arms.lastEnd ∧ (postArmsDemand s).setup = s.setup := by
  rw [postArmsDemand_eq]
  dsimp only
  split
  · split <;> exact ⟨rfl, rfl, rfl, rfl⟩
  · split <;> exact ⟨rfl, rfl, rfl, rfl⟩

section
variable {s : State}

theorem spacingWritten_rests (h : s.arms.spacingTimer = none ∨ s.arms.queue = []) : spacingWritten s = s := by
  unfold spacingWritten
  split
  · next h1 h2 =>
    rcases h with h | h
    · rw [h] at h1; cases h1
    · rw [h] at h2; cases h2
  · rfl

theorem spacingWritten_runs {due : Nat} {e : QueueEntry} {rest : List QueueEntry}
    (ht : s.arms.spacingTimer = some due) (hq : s.arms.queue = e :: rest) :
    spacingWritten s = { s with arms := { s.arms with spacingTimer := some (spacingTime s e.kind) } } := by
  rw [spacingWritten, ht, hq]

theorem setupEffects_arms (numbers : List Nat) (before : Setup) :
    setupEffects 6 numbers before s =
      (if ∃ n ∈ numbers, 8 ≤ n then spacingWritten (if 7 ∈ numbers then postArmsDemand s else s)
       else if 7 ∈ numbers then postArmsDemand s else s) := by
  unfold setupEffects
  simp only [List.contains_iff_mem, List.any_eq_true, decide_eq_true_eq]

end

/-- What the parameters of a write act on at once, group by group. -/
theorem setupEffects_spec (s : State) (numbers : List Nat) (before : Setup) :
    setupEffects 0 numbers before s = (if 6 ∈ numbers then { s with pcu := { s.pcu with remainder := 0 } } else s) ∧
    (let restated := if 1 ∈ numbers then
        { s with spray := { s.spray with demand := (s.spray.command * s.setup.kw).tdiv 100 } } else s
     setupEffects 2 numbers before s = if 0 ∈ numbers then evaluateFlow restated else restated) ∧
    setupEffects 5 numbers before s =
      (if s.setup.oilHigh = before.oilHigh ∨ s.usable .oilT = true then s else oilTest s) := by
  refine ⟨?_, ?_, ?_⟩
  · unfold setupEffects
    simp only [List.contains_iff_mem]
    rfl
  · unfold setupEffects
    simp only [List.contains_iff_mem]
    rfl
  · show (if s.setup.oilHigh = before.oilHigh then s else substituteChanged .oilT s) = _
    by_cases h : s.setup.oilHigh = before.oilHigh
    · rw [if_pos h, if_pos (.inl h)]
    · rw [if_neg h, substituteChanged_eq]
      exact if_congr (by simp [h]) rfl rfl

/-! ## SETUP_READ -/

theorem readValues_eq (s : State) {g first count : Nat} (h : first + count ≤ (s.setup.group g).length) :
    readValues g first count s =
      (List.range count).map fun i => readValue g (first + i) ((s.setup.group g)[first + i]?.getD 0) s := by
  refine List.ext_getElem (by simp [readValues]; omega) fun i h1 h2 => ?_
  have hi : i < count := by simpa using h2
  have hlen : first + i < (s.setup.group g).length := by omega
  simp [readValues, hlen]

theorem readValue_shown (s : State) (group : Byte) (n : Nat) (v : Int) :
    readValue group.toNat n v s =
      if group = 4 ∧ n = 24 then s.setup.oilHigh else if group = 4 ∧ n = 36 then s.sensors.dustBase else v := by
  have hg : group.toNat = 4 ↔ group = 4 := (BitVec.toNat_inj (y := (4 : Byte)))
  unfold readValue
  simp only [hg]
  rfl

theorem takeSetupRead_bad {s : State} {group first count : Byte}
    (h : 6 < group.toNat ∨ count.toNat = 0 ∨ 26 < count.toNat ∨
      (s.setup.group group.toNat).length < first.toNat + count.toNat) :
    takeSetupRead group first count s = (s, [0x18]) := if_pos h

theorem takeSetupRead_shows {s : State} {group first count : Byte}
    (h : ¬ (6 < group.toNat ∨ count.toNat = 0 ∨ 26 < count.toNat ∨
      (s.setup.group group.toNat).length < first.toNat + count.toNat)) :
    takeSetupRead group first count s = (s, [0x00, group, first, count] ++
      (List.range count.toNat).flatMap fun i => bytes16 (readValue group.toNat (first.toNat + i)
        ((s.setup.group group.toNat)[first.toNat + i]?.getD 0) s)) := by
  refine (if_neg h).trans ?_
  rw [readValues_eq s (by omega), List.flatMap_map]
  rfl

/-- Settles O60: the write by its checks, its pairs and its lowered stops, its effects by group, and the read. -/
theorem setupIsWrittenInRangeAndActsAndIsRead : Obligations.SetupIsWrittenInRangeAndActsAndIsRead := by
  refine ⟨fun s tag group pairs h1 h18 => ?_, fun s numbers before => ?_, fun s tag group first count hr => ?_⟩
  · intro body g value limit listed start stop lowered stops clamped hr
    have fits : lengthFits 0x05 body.length = true := by
      have len : body.length = 3 * pairs.length + 1 := by
        simp [body, List.length_flatMap, Nat.mul_comm]
      rw [len]
      simp [lengthFits]
      omega
    have judged : exec (.setupWrite tag body) s =
        finish (takeRequest 0x05 tag body (guarded true (takeSetupWrite g (pairs.map pairOf))) s) :=
      congrArg (fun l : Option (List (Byte × Int)) => finish (takeRequest 0x05 tag body (fun x => match l with
        | some ps => guarded true (takeSetupWrite g ps) x
        | none => guarded false (answer .ok) x) s)) (listBody_flatMap h1 h18)
    have awake : s.mc.mode = .standby ∨ s.mc.mode = .park → s.mc.mode ≠ .settle := by
      rintro (h | h) <;> rw [h] <;> decide
    refine ⟨exec_busy rfl fits (by decide) hr, fun hs hb hp => ?_, fun hm hbad => ?_, fun hm hall => ?_⟩
    · rw [judged]
      exact finish_judged_answered hr hs (takeSetupWrite_refused hb hp)
    · obtain ⟨p, hmem, hp⟩ := hbad
      rw [judged]
      exact finish_judged_answered hr (awake hm) (takeSetupWrite_badTable hm ⟨pairOf p, List.mem_map_of_mem hmem, hp⟩)
    · have hps : ∀ p ∈ pairs.map pairOf, setupRange g p.1.toNat ≠ none := by
        intro q hq
        obtain ⟨p, hmem, rfl⟩ := List.mem_map.1 hq
        exact hall p hmem
      have hlimit : ∀ p, limited g (pairOf p).1 (pairOf p).2 = limit p := fun p => limited_eq g p.1 (value p)
      let y := applyPairs g (pairs.map pairOf) s.setup
      have hlisted : ∀ k i, (y.group k)[i]? = listed k i := fun k i => by
        refine (applyPairs_getElem? _ s.setup hps).trans ?_
        rw [List.filter_map, List.getLast?_map]
        show _ = match (pairs.filter fun p => decide (k = g ∧ p.1.toNat = i)).getLast? with
          | some p => some (limit p)
          | none => (s.setup.group k)[i]?
        have hf : pairs.filter ((fun p : Byte × Int => decide (k = g ∧ p.1.toNat = i)) ∘ pairOf) =
            pairs.filter fun p => decide (k = g ∧ p.1.toNat = i) := rfl
        rw [hf]
        cases (pairs.filter fun p => decide (k = g ∧ p.1.toNat = i)).getLast? with
        | none => rfl
        | some p => exact congrArg some (hlimit p)
      have hstart : ∀ u, start u = y.startRpm u := fun u => by
        show (listed 1 (unitNumber u)).getD 0 = _
        rw [← hlisted, startRpm_getElem]
        rfl
      have hstop : ∀ u, stop u = y.stopRpm u := fun u => by
        show (listed 1 (3 + unitNumber u)).getD 0 = _
        rw [← hlisted, show 3 + unitNumber u = stopNumber u from rfl, stopRpm_getElem]
        rfl
      have hlowered : ∀ u, lowered u = decide (g = 1 ∧ y.startRpm u ≤ y.stopRpm u) := fun u => by
        rw [← hstart, ← hstop]
      have hstops : loweredNumbers g (pairs.map pairOf) s.setup = stops := loweredNumbers_eq hlowered
      have hclamped : (clampedNumbers g (pairs.map pairOf) s.setup).eraseDups = clamped := by
        refine congrArg List.eraseDups (congrArg₂ (· ++ ·) ?_ ?_)
        · rw [hstops, List.filter_map, List.map_map]
          refine congrArg (List.map Prod.fst) (List.filter_congr fun p _ => ?_)
          show (limited g (pairOf p).1 (pairOf p).2 != value p || stops.contains p.1) = _
          rw [hlimit, Bool.eq_iff_iff]
          simp
        · rw [hstops]
          refine List.filter_congr fun n _ => ?_
          rw [Bool.eq_iff_iff]
          simp [pairOf]
      refine ⟨writtenSetup g (pairs.map pairOf) s.setup, fun k i hk => ?_, fun u hu => ?_, ?_⟩
      · rw [← hlisted]
        unfold writtenSetup
        split
        · next hg =>
          refine lowered_others _ _ fun u hu => hk u ?_
          rw [hlowered, decide_eq_true_iff]
          exact ⟨hg, (mem_stopsTooHigh _ u).1 hu⟩
        · rfl
      · rw [hlowered, decide_eq_true_iff] at hu
        obtain ⟨hg, hle⟩ := hu
        refine (stopRpm_getElem _ u).trans (congrArg some ?_)
        rw [writtenSetup, if_pos hg, lowerStops_stopRpm, hstart]
        exact if_pos hle
      · rw [judged, ← hclamped, ← clampedReply_eq]
        refine finish_judged hr (awake hm) ((takeSetupWrite_taken (s := s.holding 0x05 tag body) hm hps).trans ?_)
        rw [List.map_map]
        rfl
  · obtain ⟨hppm, hwater, hoil⟩ := setupEffects_spec s numbers before
    refine ⟨hppm, rfl, rfl, hwater, ?_, hoil, ?_⟩
    · intro moved written
      show allRoles.foldl (roleWritten before) s = allRoles.foldl written s
      refine foldl_congr_of (P := fun x => x.setup = s.setup)
        (fun x r hx => (roleWritten_setup before x r).trans hx) (fun x r hx => ?_) allRoles s rfl
      have hmoved : addressChanged r x = moved r x := addressChanged_eq r x
      let y := if s.setup.address r = before.address r then x else addressChanged r x
      have hy : y.setup = s.setup := by
        show (if s.setup.address r = before.address r then x else addressChanged r x).setup = _
        split
        · exact hx
        · have h := ((inner_sameShell x).blocks.addressChanged (r := r) (SameShell.refl x)).setup
          exact h.trans hx
      have hleft : roleWritten before x r =
          if s.setup.storedSubstitute r = before.storedSubstitute r then y else substituteChanged r y := by
        rw [← hy]
        show (if (if x.setup.address r = before.address r then x else addressChanged r x).setup.storedSubstitute r =
          before.storedSubstitute r then _ else _) = _
        rw [hx]
      have hright : written x r = if s.setup.storedSubstitute r = before.storedSubstitute r ∨ y.usable r = true then y
          else tellReaders r y := by
        show (if s.setup.storedSubstitute r = before.storedSubstitute r ∨ (if s.setup.address r = before.address r then x
          else moved r x).usable r = true then _ else _) = _
        rw [← hmoved]
      rw [hleft, hright, substituteChanged_eq]
      by_cases h : s.setup.storedSubstitute r = before.storedSubstitute r
      · rw [if_pos h, if_pos (.inl h)]
      · rw [if_neg h]
        exact if_congr (by simp [h]) rfl rfl
    · intro posted
      have hposted : posted.arms.spacingTimer = s.arms.spacingTimer ∧ posted.arms.queue = s.arms.queue ∧
          posted.arms.lastEnd = s.arms.lastEnd ∧ posted.setup = s.setup := by
        simp only [posted]
        split
        · exact postArmsDemand_arms s
        · exact ⟨rfl, rfl, rfl, rfl⟩
      obtain ⟨htimer, hqueue, hends, hsetup⟩ := hposted
      refine ⟨fun h => ?_, fun due e rest hn ht hq => ⟨spacingTime posted e.kind, ?_, ?_, ?_⟩⟩
      · rw [setupEffects_arms]
        split
        · next hn =>
          obtain ⟨n, hn, h8⟩ := hn
          refine spacingWritten_rests ((h.resolve_left fun hall => ?_).imp htimer.trans hqueue.trans)
          exact absurd (hall n hn) (by omega)
        · rfl
      · rw [setupEffects_arms, if_pos hn]
        exact spacingWritten_runs (htimer.trans ht) (hqueue.trans hq)
      · rw [← hends, ← hsetup]
        exact spacingTime_le_iff.1 le_rfl
      · obtain ⟨k, hk⟩ := spacingTime_attained posted e.kind
        cases hy : posted.arms.lastEnd.get k with
        | none => exact .inl (hk.trans (spacingTerm_none hy))
        | some y =>
          refine .inr ⟨k, y, hends ▸ hy, ?_⟩
          rw [hk, spacingTerm_some hy, hsetup]
  · intro body size bad shown
    have hbad : bad ↔ 6 < group.toNat ∨ count.toNat = 0 ∨ 26 < count.toNat ∨
        (s.setup.group group.toNat).length < first.toNat + count.toNat := by
      have h0 : count = 0 ↔ count.toNat = 0 := (BitVec.toNat_inj (y := (0 : Byte))).symm
      refine or_congr_right' fun hg => or_congr h0 (or_congr Iff.rfl ?_)
      have hsize : (s.setup.group group.toNat).length = size := by
        have hle : group.toNat ≤ 6 := by omega
        rw [group_length]
        simp only [size]
        interval_cases group.toNat <;> rfl
      rw [hsize]
    refine ⟨exec_busy rfl rfl (by decide) hr, fun hm hb => ?_, fun hm hb => ?_⟩
    · exact finish_judged_answered (act := takeSetupRead group first count) hr hm
        (takeSetupRead_bad (s := s.holding 0x06 tag body) (hbad.1 hb))
    · refine finish_judged_answered (act := takeSetupRead group first count) hr hm
        ((takeSetupRead_shows (s := s.holding 0x06 tag body) (hbad.not.1 hb)).trans ?_)
      simp only [readValue_shown]
      rfl

end Sys2Proof.Machine
end

section
/-! Mode Control's entries to PARK and to the travel modes (R5, R8, R9, R14, R29, R42, R43), and SET_MODE (R6 to R10). -/

namespace Sys2Proof.Machine

/-! ## The overspeed flag at an entry (R42) -/

theorem classFlag_overspeed (t : CondTable) (v : CondState) (flag : Bool) :
    classFlag (t.inForce .derate) ((t.set .overspeed v).inForce .derate) flag = flag ∧
    classFlag (t.inForce .stop) ((t.set .overspeed v).inForce .stop) flag = flag := by
  have h : ∀ k, k ≠ .overspeed → (t.set .overspeed v).get k = t.get k := fun k hk => CondTable.get_set_other _ _ hk
  have hd : (t.set .overspeed v).inForce .derate = t.inForce .derate := by
    rw [inForce_derate, inForce_derate, h _ (by nofun), h _ (by nofun)]
  have hs : (t.set .overspeed v).inForce .stop = t.inForce .stop := by
    rw [inForce_stop, inForce_stop, h _ (by nofun)]
  rw [hd, hs]
  exact ⟨classFlag_same _ _, classFlag_same _ _⟩

/-- The flag was yes with its record PRESENT: its clearing is told. -/
def OverspeedTold (s : State) : Prop := s.drive.overspeed = true ∧ s.cond.get .overspeed = .present

theorem clearOverspeed_quiet {s : State} (h : ¬ OverspeedTold s) :
    clearOverspeed s = { s with drive := { s.drive with overspeed := false } } := by
  by_cases ho : s.drive.overspeed = true
  · have hp : s.cond.get .overspeed ≠ .present := fun hp => h ⟨ho, hp⟩
    refine (if_pos ho).trans (notice_same _ _ _ ?_)
    simp [CondState.noticed, hp]
  · have hf : s.drive.overspeed = false := Bool.eq_false_iff.2 ho
    refine (if_neg ho).trans ?_
    rw [← hf]

theorem clearOverspeed_told {s : State} (h : OverspeedTold s) :
    clearOverspeed s = { s with
      drive := { s.drive with overspeed := false }
      cond := s.cond.set .overspeed .clear
      link := s.link.post (.condition .overspeed .present .clear (s.cond.set .overspeed .clear).presentCount
        (s.cond.set .overspeed .clear).latchedCount) } := by
  obtain ⟨ho, hp⟩ := h
  have hn : (s.cond.get .overspeed).noticed .overspeed false = .clear := by rw [hp]; rfl
  have hc : s.cond.get .overspeed ≠ .clear := by rw [hp]; nofun
  refine (if_pos ho).trans ?_
  show changeRecord .overspeed ((s.cond.get .overspeed).noticed .overspeed false)
    { s with drive := { s.drive with overspeed := false } } = _
  rw [hn, changeRecord_changed (s := { s with drive := { s.drive with overspeed := false } }) hc]
  dsimp only
  rw [(classFlag_overspeed s.cond .clear s.arb.derate).1, (classFlag_overspeed s.cond .clear s.arb.stop).2, hp]

/-- What the clearing writes: the flag, its record, and its report. -/
theorem clearOverspeed_parts (s : State) : ∃ (c : CondTable) (told : List Report),
    clearOverspeed s = { s with
      drive := { s.drive with overspeed := false }
      cond := c
      link := told.foldl LinkPort.post s.link } := by
  by_cases h : OverspeedTold s
  · exact ⟨_, [_], clearOverspeed_told h⟩
  · exact ⟨s.cond, [], clearOverspeed_quiet h⟩

/-! ## Nothing is wanted outside WORK and STOWING (R94, R107) -/

theorem flowTarget_dry {s : State} (h : s.spray.wanted = ⟨false, false, false, false⟩) : flowTarget s = 0 := by
  rw [flowTarget, h]
  rfl

theorem wantedSet_dry {s : State} (h1 : s.mc.mode ≠ .work) (h2 : s.mc.mode ≠ .stowing) :
    wantedSet s = ⟨false, false, false, false⟩ := by
  have hw : (s.mc.mode == .work) = false := beq_eq_false_iff_ne.2 h1
  have hs : (s.mc.mode == .stowing) = false := beq_eq_false_iff_ne.2 h2
  simp [wantedSet, hw, hs]

theorem evaluateFlow_wanted (s : State) : (evaluateFlow s).spray.wanted = s.spray.wanted :=
  (followTarget_copies s (flowTarget s) s.spray).2.1

theorem evaluateFlow_dry {s : State} (h : s.spray.wanted = ⟨false, false, false, false⟩) :
    (evaluateFlow s).spray.wanted = ⟨false, false, false, false⟩ ∧ (evaluateFlow s).spray.q = 0 := by
  have hw := (evaluateFlow_wanted s).trans h
  exact ⟨hw, (evaluateFlow_q s).trans (flowTarget_dry hw)⟩

theorem formWanted_dry {s : State} (h1 : s.mc.mode ≠ .work) (h2 : s.mc.mode ≠ .stowing) :
    (formWanted s).spray.wanted = ⟨false, false, false, false⟩ ∧ (formWanted s).spray.q = 0 :=
  evaluateFlow_dry ((valvesFollow_copies _).1.trans (wantedSet_dry h1 h2))

/-- The water reads neither the drive nor the conditions nor the link port. -/
theorem formWanted_spray_congr (s : State) (d : Drive) (c : CondTable) (l : LinkPort) :
    (formWanted { s with
      drive := d
      cond := c
      link := l }).spray = (formWanted s).spray := by
  have hw : wantedSet { s with
      drive := d
      cond := c
      link := l } = wantedSet s := rfl
  have hq : ∀ p, flowTarget { s with
      drive := d
      cond := c
      link := l
      spray := p } = flowTarget { s with spray := p } := fun _ => rfl
  have hf : ∀ p q r, followTarget { s with
      drive := d
      cond := c
      link := l
      spray := p } q r = followTarget { s with spray := p } q r := fun _ _ _ => rfl
  simp only [formWanted, evaluateFlow, hw, hq, hf]

/-- In a mode that sprays nothing and that no posture changes, nothing is wanted and the flow target is 0. -/
structure DryIn (m : Mode) (s : State) : Prop where
  mode : s.mc.mode = m
  wanted : s.spray.wanted = ⟨false, false, false, false⟩
  q : s.spray.q = 0

theorem plain_dryIn {m : Mode} (hm : ¬ m.moves) : Plain (DryIn m) := by
  have hform : ∀ s, s.mc.mode = m → DryIn m (formWanted s) := fun s h => by
    obtain ⟨h1, h2⟩ := formWanted_dry (s := s) (fun e => hm (by rw [← h, e]; trivial)) (fun e => hm (by rw [← h, e]; trivial))
    exact ⟨h, h1, h2⟩
  exact {
    water := {
      flow := fun s h => ⟨h.mode, (evaluateFlow_dry h.wanted).1, (evaluateFlow_dry h.wanted).2⟩
      form := fun s h => hform s h.mode
      notice := fun _ _ _ _ h => hform _ h.mode }
    brush := fun _ _ _ h => ⟨h.mode, h.wanted, h.q⟩
    record := fun s k v _ h => ⟨by simp [h.mode], by simp [h.wanted], by simp [h.q]⟩
    travel := fun s _ _ hv h => absurd (h.mode ▸ hv) hm
    arms := fun _ _ _ h => ⟨h.mode, h.wanted, h.q⟩
    post := fun _ _ h => ⟨h.mode, h.wanted, h.q⟩
    anyArms := fun _ _ h => ⟨h.mode, h.wanted, h.q⟩
    anyRecord := fun s k v h => ⟨by simp [h.mode], by simp [h.wanted], by simp [h.q]⟩ }

/-! ## Entry to PARK (R5, R9) -/

/-- The drive at the entry to PARK. -/
def parkedDrive (fromSettle : Bool) (s : State) : Drive :=
  let d := s.drive.atRest
  if fromSettle then { d with requested := 0, requestTimer := s.startMs s.setup.requestTimeout } else d

/-- The state at the entry to PARK, around the arms, the brushes, the water and the conditions. -/
def parkedState (fromSettle : Bool) (s : State) : State :=
  { s with
    mc := ⟨.park, .park, none, none⟩
    drive := { parkedDrive fromSettle s with overspeed := false } }

/-- The announcement of PARK before the arms have it. -/
def parkAnnounced (fromSettle : Bool) (s : State) : State :=
  formWanted (driveEnterPark fromSettle (modeReport (takeMode .park s)))

theorem parkAnnounced_parts (b : Bool) (s : State) :
    SameAround (parkedState b s) (parkAnnounced b s) ∧ (parkAnnounced b s).arms = s.arms ∧
    (parkAnnounced b s).brush = s.brush ∧ DryIn .park (parkAnnounced b s) ∧
    ∃ told : List Report, (parkAnnounced b s).link = (Report.mode .park .park :: told).foldl LinkPort.post s.link := by
  obtain ⟨c, told, h⟩ := clearOverspeed_parts
    { modeReport (takeMode .park s) with drive := parkedDrive b (modeReport (takeMode .park s)) }
  have hx : parkAnnounced b s = formWanted _ := congrArg formWanted h
  obtain ⟨hw, hq⟩ := formWanted_dry (s := driveEnterPark b (modeReport (takeMode .park s)))
    (by rw [show driveEnterPark b _ = _ from h]; nofun) (by rw [show driveEnterPark b _ = _ from h]; nofun)
  rw [hx]
  refine ⟨⟨rfl, rfl, rfl, rfl, ?_, rfl, rfl, rfl, rfl, rfl, rfl⟩, rfl, rfl, ⟨rfl, ?_, ?_⟩, told, rfl⟩
  · cases b <;> rfl
  · rw [← hx]; exact hw
  · rw [← hx]; exact hq

theorem exec_settleTimerExpiry {s : State} {due : Nat} (h : s.mc.settleTimer = some due) :
    exec .settleTimerExpiry s =
      .next (forUnits replan (forUnits reformGoal (parkAnnounced true (s.atTime due)))).sent := by
  show finish (onExpiry s.mc.settleTimer (enterPark true) s) = _
  rw [h]
  rfl

theorem exec_parkStopTimerExpiry {s : State} {due : Nat} (h : s.mc.parkStopTimer = some due) :
    exec .parkStopTimerExpiry s = .next (forUnits reformGoal (parkAnnounced false (s.atTime due))).sent := by
  show finish (onExpiry s.mc.parkStopTimer (enterPark false) s) = _
  rw [h]
  rfl

/-- What follows the announcement of PARK stays around it. -/
theorem parked_finishes {b : Bool} {s x y : State} {told : List Report}
    (hx : SameAround (parkedState b s) x ∧ x.arms = s.arms ∧ x.brush = s.brush ∧ DryIn .park x)
    (hl : x.link = (Report.mode .park .park :: told).foldl LinkPort.post s.link)
    (hy : ∀ {P : State → Prop}, Plain P → P x → P y) :
    ∃ more, SameAround (parkedState b s) y.sent ∧ y.sent.spray.wanted = ⟨false, false, false, false⟩ ∧
      y.sent.spray.q = 0 ∧ y.sent.link = s.link.reported (.mode .park .park :: more) := by
  have hm : ¬ (parkedState b s).mc.mode.moves := id
  obtain ⟨ha, more, hmore⟩ := hy (Posted.plain (b := parkedState b s) (l := s.link.post (.mode .park .park)) hm)
    ⟨hx.1, told, hl⟩
  obtain ⟨-, hw, hq⟩ := hy (plain_dryIn (m := .park) id) hx.2.2.2
  exact ⟨more, ⟨ha.pins, ha.setup, ha.mc, ha.pcu, ha.drive, ha.arb, ha.recipes, ha.sensors, ha.clock, ha.free, ha.pending⟩,
    hw, hq, congrArg LinkPort.transmit hmore⟩

/-- Settles O14: the announcement of PARK, and the goals formed behind it. -/
theorem settleAndParkStopExpiriesEnterPark : Obligations.SettleAndParkStopExpiriesEnterPark := by
  intro s due dry goals planned entered
  have hentered : ∀ b, entered (parkedState b (s.atTime due)) (parkAnnounced b (s.atTime due)) := fun b => by
    obtain ⟨h1, h2, h3, h4, h5⟩ := parkAnnounced_parts b (s.atTime due)
    exact ⟨h1, h2, h3, h4.wanted, h4.q, h5⟩
  refine ⟨fun h => ?_, fun h => ?_⟩
  · intro parked
    have hparked : parkedState true (s.atTime due) = parked := rfl
    have hplanned : forUnits replan (forUnits reformGoal (parkAnnounced true (s.atTime due))) =
        planned (goals (parkAnnounced true (s.atTime due))) := rfl
    have hent := hentered true
    have hrun := exec_settleTimerExpiry h
    obtain ⟨h1, h2, h3, h4, told, h5⟩ := parkAnnounced_parts true (s.atTime due)
    obtain ⟨more, e1, e2, e3, e4⟩ := parked_finishes ⟨h1, h2, h3, h4⟩ h5
      (y := forUnits replan (forUnits reformGoal (parkAnnounced true (s.atTime due))))
      fun p hp => p.replan (p.replan (p.replan (p.reformGoal (p.reformGoal (p.reformGoal hp)))))
    rw [hplanned] at hrun e1 e2 e3 e4
    rw [hparked] at e1 hent
    exact ⟨_, _, more, hent, rfl, hrun, e1, e2, e3, e4⟩
  · intro parked
    have hparked : parkedState false (s.atTime due) = parked := rfl
    have hgoals : forUnits reformGoal (parkAnnounced false (s.atTime due)) =
        goals (parkAnnounced false (s.atTime due)) := rfl
    have hent := hentered false
    have hrun := exec_parkStopTimerExpiry h
    obtain ⟨h1, h2, h3, h4, told, h5⟩ := parkAnnounced_parts false (s.atTime due)
    obtain ⟨more, e1, e2, e3, e4⟩ := parked_finishes ⟨h1, h2, h3, h4⟩ h5
      (y := forUnits reformGoal (parkAnnounced false (s.atTime due)))
      fun p hp => p.reformGoal (p.reformGoal (p.reformGoal hp))
    rw [hgoals] at hrun e1 e2 e3 e4
    rw [hparked] at e1 hent
    exact ⟨_, _, more, hent, rfl, hrun, e1, e2, e3, e4⟩

/-! ## Entry to a travel mode (R8, R9, R42, R43) -/

/-- The entry to PARKING tells the clearing of the overspeed flag. -/
def parkingTold (s : State) : Prop := s.mc.mode = .parking ∧ OverspeedTold s

theorem driveEnterTravel_quiet {s : State} (h : ¬ parkingTold s) :
    driveEnterTravel s = { s with drive := { s.drive with
      brk := true
      overspeed := if s.mc.mode = .parking then false else s.drive.overspeed } } := by
  by_cases hm : s.mc.mode = .parking
  · have ht : ¬ OverspeedTold { s with drive := { s.drive with brk := true } } := fun ht => h ⟨hm, ht⟩
    rw [driveEnterTravel, if_pos hm, clearOverspeed_quiet ht, if_pos hm]
  · rw [driveEnterTravel, if_neg hm, if_neg hm]

theorem driveEnterTravel_told {s : State} (h : parkingTold s) :
    driveEnterTravel s = { s with
      drive := { s.drive with
        brk := true
        overspeed := if s.mc.mode = .parking then false else s.drive.overspeed }
      cond := s.cond.set .overspeed .clear
      link := s.link.post (.condition .overspeed .present .clear (s.cond.set .overspeed .clear).presentCount
        (s.cond.set .overspeed .clear).latchedCount) } := by
  have ht : OverspeedTold { s with drive := { s.drive with brk := true } } := h.2
  rw [driveEnterTravel, if_pos h.1, clearOverspeed_told ht, if_pos h.1]

/-- What the entry to a travel mode writes, but for the water: the mode, the drive, and what the cleared flag tells. -/
theorem driveEnterTravel_parts (s : State) : ∃ (c : CondTable) (l : LinkPort),
    driveEnterTravel s = { s with
      drive := { s.drive with
        brk := true
        overspeed := if s.mc.mode = .parking then false else s.drive.overspeed }
      cond := c
      link := l } := by
  by_cases h : parkingTold s
  · exact ⟨_, _, driveEnterTravel_told h⟩
  · exact ⟨s.cond, s.link, driveEnterTravel_quiet h⟩

/-! ## The checks and the table of SET_MODE (R7, Table 1-10) -/

theorem stopRecorded_iff (t : CondTable) :
    t.stopRecorded = true ↔ t.get .oilOver = .present ∨ t.get .oilOver = .latched := by
  have hkinds : ∀ k : CondKind, k.reaction = .stop ↔ k = .oilOver := fun k => by
    cases k <;> simp [CondKind.reaction]
  have h : t.stopRecorded = true ↔ t.get .oilOver ≠ .clear := by
    unfold CondTable.stopRecorded
    simp only [List.any_eq_true, Bool.and_eq_true, beq_iff_eq, bne_iff_ne, hkinds]
    exact ⟨fun ⟨k, _, hk, hc⟩ => hk ▸ hc, fun hc => ⟨.oilOver, mem_allKinds _, rfl, hc⟩⟩
  rw [h]
  cases t.get .oilOver <;> simp

theorem allStowed_iff (s : State) :
    s.allStowed = true ↔ (∀ u : BrushUnit, (s.armOf u).height = .up ∧ (s.armOf u).spin = .off) ∧
      (s.armOf .l).reach = .isIn ∧ (s.armOf .r).reach = .isIn := by
  have hu : ∀ u, (s.arms.units.get u).stowed u = true ↔
      (u = .m ∨ (s.armOf u).reach = .isIn) ∧ (s.armOf u).height = .up ∧ (s.armOf u).spin = .off := fun u => by
    simp [ArmUnit.stowed, State.armOf, and_assoc]
  have h : s.allStowed = true ↔ (s.arms.units.get .l).stowed .l = true ∧ (s.arms.units.get .r).stowed .r = true ∧
      (s.arms.units.get .m).stowed .m = true := by
    simp [State.allStowed, PerUnit.get, and_assoc]
  rw [h, hu, hu, hu]
  constructor
  · rintro ⟨⟨hl, l1, l2⟩, ⟨hr, r1, r2⟩, -, m1, m2⟩
    exact ⟨fun u => by cases u <;> exact ⟨‹_›, ‹_›⟩, hl.resolve_left nofun, hr.resolve_left nofun⟩
  · rintro ⟨hp, hl, hr⟩
    exact ⟨⟨.inr hl, hp .l⟩, ⟨.inr hr, hp .r⟩, .inl rfl, hp .m⟩

/-- Table 1-10 as one chain of conditions. -/
def setModeTable (m : Nat) (s : State) : State × List Byte :=
  if m = 0 then if s.mc.mode = .park then answer .ok (enterStandby s) else answer .refusedMode s
  else if m = 2 then
    if s.mc.mode = .park ∨ s.mc.mode = .parking then answer .ok s else answer .ok (enterTravel .parking s)
  else if m = 3 then
    if s.mc.mode = .park then
      if s.cond.stopRecorded then answer .refusedCond s
      else if s.allStowed then answer .ok (enterTravel .transport s) else answer .notStowed s
    else if s.mc.mode = .parking then answer .busy s
    else if s.mc.mode = .work then
      answer .ok (if s.allStowed then enterTravel .transport s else enterTravel .stowing s)
    else answer .ok s
  else if m = 4 then
    if s.mc.mode = .park then
      if s.cond.stopRecorded then answer .refusedCond s else answer .ok (enterTravel .work s)
    else if s.mc.mode = .parking then answer .busy s
    else if s.mc.mode = .work then answer .ok s
    else answer .ok (enterTravel .work s)
  else answer .refusedMode s

theorem leavePark_transport (s : State) :
    leavePark .transport s = if s.cond.stopRecorded then answer .refusedCond s
      else if s.allStowed then answer .ok (enterTravel .transport s) else answer .notStowed s := by
  unfold leavePark
  cases s.allStowed <;> simp

theorem leavePark_work (s : State) :
    leavePark .work s = if s.cond.stopRecorded then answer .refusedCond s else answer .ok (enterTravel .work s) := by
  simp [leavePark]

theorem takeSetMode_table {s : State} (h1 : s.mc.mode ≠ .settle) (h2 : s.mc.mode ≠ .standby) (m : Nat) :
    takeSetMode m s = setModeTable m s := by
  have hwork : enterTravel (if s.allStowed = true then .transport else .stowing) s =
      if s.allStowed = true then enterTravel .transport s else enterTravel .stowing s :=
    apply_ite (fun m => enterTravel m s) _ _ _
  unfold takeSetMode setModeTable
  cases hm : s.mc.mode with
  | settle => exact absurd hm h1
  | standby => exact absurd hm h2
  | park => match m with
    | 0 | 1 | 2 => rfl
    | 3 => exact leavePark_transport s
    | 4 => exact leavePark_work s
    | _ + 5 => rfl
  | work => match m with
    | 0 | 1 | 2 | 4 | _ + 5 => rfl
    | 3 => exact congrArg (answer .ok) hwork
  | transport => match m with
    | 0 | 1 | 2 | 3 | 4 | _ + 5 => rfl
  | stowing => match m with
    | 0 | 1 | 2 | 3 | 4 | _ + 5 => rfl
  | parking => match m with
    | 0 | 1 | 2 | 3 | 4 | _ + 5 => rfl

/-- The state at the end of a request's command, by its action and its reply. -/
def replySent (p : State × List Byte) : State := (State.replied p.2 p.1).sent

/-- Settles O15: SET_MODE by its table, its two checks, and the entry to a travel mode. -/
theorem setModeFollowsItsTable : Obligations.SetModeFollowsItsTable := by
  refine ⟨fun s tag m hr h1 h2 => ?_, fun s => ⟨stopRecorded_iff s.cond, allStowed_iff s⟩, fun s m hm => ?_⟩
  · intro h answered result
    have hact : notInStandby (takeSetMode m.toNat) h = setModeTable m.toNat h :=
      (notInStandby_taken (s := h) h2).trans (takeSetMode_table (s := h) h1 h2 m.toNat)
    have hrun : exec (.setMode tag [m]) s =
        .next (replySent (setModeTable m.toNat h)) :=
      finish_judged (act := notInStandby (takeSetMode m.toNat)) hr h1 hact
    rw [hrun]
    refine congrArg Host.Outcome.next ?_
    have hanswer : ∀ r x, replySent (answer r x) = answered r x := fun _ _ => rfl
    have hmode : h.mc.mode = s.mc.mode := rfl
    have hcond : h.cond = s.cond := rfl
    have hstowed : h.allStowed = s.allStowed := rfl
    simp only [setModeTable, apply_ite replySent, hanswer, hmode, hcond, hstowed, result]
  · intro t told
    have hmode : (modeReport (takeMode m s)).mc.mode = m := rfl
    obtain ⟨c, l, hparts⟩ := driveEnterTravel_parts (modeReport (takeMode m s))
    have ht : t = formWanted _ := congrArg formWanted hparts
    have htold : told ↔ parkingTold (modeReport (takeMode m s)) := Iff.rfl
    refine ⟨by rw [ht]; rfl, by rw [ht]; rfl, fun hn => ?_, fun hy => ?_, by rw [ht]; rfl, fun hw hs => ?_, ?_,
      by rw [ht]; rfl, by rw [ht]; rfl, by rw [ht]; rfl, by rw [ht]; rfl, by rw [ht]; rfl, by rw [ht]; rfl,
      by rw [ht]; rfl, by rw [ht]; rfl, rfl⟩
    · have hq : t = formWanted _ := congrArg formWanted (driveEnterTravel_quiet (htold.not.1 hn))
      rw [hq]
      exact ⟨rfl, rfl⟩
    · have hq : t = formWanted _ := congrArg formWanted (driveEnterTravel_told (htold.1 hy))
      rw [hq]
      exact ⟨rfl, rfl⟩
    · rw [ht]
      exact formWanted_dry hw hs
    · have hmc : t.mc = (takeMode m s).mc := by rw [ht]; rfl
      rw [hmc, ht]
      exact formWanted_spray_congr { s with mc := (takeMode m s).mc } _ c l

end Sys2Proof.Machine
end

section
/-! Entry to STANDBY, block by block (R10, R14, R17, R42, R46, R67, R91, R107, R123, R146). -/

namespace Sys2Proof.Machine

/-! ## The brushes at rest (R67) -/

/-- A brush's record with its outputs at rest. -/
def BrushRec.rested (b : BrushRec) : BrushRec :=
  { b with
    t := 0
    c := 0
    out := 0
    output := 0
    demand := 0
    rampTimer := none
    stallTimer := none
    lagTimer := none }

/-- A brush's record with its three flags no. -/
def BrushRec.unflagged (b : BrushRec) : BrushRec :=
  { b with
    starved := false
    stalled := false
    lagging := false }

section
variable {u v : BrushUnit} (s : State)

theorem brushRest_brushOf : (brushRest u s).brushOf u = (s.brushOf u).rested :=
  (outputNotice_brushOf _ _ _ _ _).trans (State.brushOf_putBrush _ _ _)

theorem brushRest_brushOf_other (h : v ≠ u) : (brushRest u s).brushOf v = s.brushOf v :=
  (outputNotice_brushOf _ _ _ _ _).trans (State.brushOf_putBrush_other _ _ h)

theorem brushRest_cond : (brushRest u s).cond = s.cond := outputNotice_cond _ _ _ _

/-- The three flags that turn off, one after the other. -/
theorem starvedOff_brushOf :
    (if (s.brushOf u).starved then setStarved u false s else s).brushOf v =
      if v = u then { s.brushOf u with starved := false } else s.brushOf v := by
  by_cases hv : v = u
  · subst hv
    rw [if_pos rfl]
    split
    · simp
    · next h => rw [← Bool.eq_false_iff.2 h]
  · rw [if_neg hv]
    split
    · exact setStarved_brushOf_other _ _ _ hv
    · rfl

theorem stalledOff_brushOf :
    (if (s.brushOf u).stalled then setStalled u false s else s).brushOf v =
      if v = u then { s.brushOf u with stalled := false } else s.brushOf v := by
  by_cases hv : v = u
  · subst hv
    rw [if_pos rfl]
    split
    · simp [setStalled]
    · next h => rw [← Bool.eq_false_iff.2 h]
  · rw [if_neg hv]
    split
    · simp [setStalled, State.brushOf_putBrush_other _ _ hv]
    · rfl

theorem laggingOff_brushOf :
    (if (s.brushOf u).lagging then setLagging u false s else s).brushOf v =
      if v = u then { s.brushOf u with lagging := false } else s.brushOf v := by
  by_cases hv : v = u
  · subst hv
    rw [if_pos rfl]
    split
    · simp [setLagging]
    · next h => rw [← Bool.eq_false_iff.2 h]
  · rw [if_neg hv]
    split
    · simp [setLagging, State.brushOf_putBrush_other _ _ hv]
    · rfl

theorem brushFlagsOff_brushOf :
    (brushFlagsOff u s).brushOf v = if v = u then (s.brushOf u).unflagged else s.brushOf v := by
  unfold brushFlagsOff
  rw [laggingOff_brushOf, stalledOff_brushOf, stalledOff_brushOf, starvedOff_brushOf, starvedOff_brushOf]
  by_cases hv : v = u <;> simp [hv, BrushRec.unflagged]

end

/-! ## What the flags tell the Monitor (R67) -/

/-- The record of a kind after one unit's flags have turned off. -/
def restCond (u : BrushUnit) (b : BrushRec) (k : CondKind) (v : CondState) : CondState :=
  if (k = .brushStarved u ∧ b.starved = true) ∨ (k = .brushStall u ∧ b.stalled = true) ∨
    (k = .brushLag u ∧ b.lagging = true) then v.noticed k false else v

/-- A notice told only when a flag stands. -/
theorem noticeIf_get {c : Prop} [Decidable c] {x y : State} {j : CondKind}
    (h : c → y.cond = x.cond.set j ((x.cond.get j).noticed j false)) (k : CondKind) :
    (if c then y else x).cond.get k = if k = j ∧ c then (x.cond.get k).noticed k false else x.cond.get k := by
  by_cases hc : c
  · rw [if_pos hc, h hc, CondTable.get_set]
    by_cases hk : k = j
    · subst hk
      simp [hc]
    · simp [hk]
  · simp [hc]

theorem brushFlagsOff_get (u : BrushUnit) (s : State) (k : CondKind) :
    (brushFlagsOff u s).cond.get k = restCond u (s.brushOf u) k (s.cond.get k) := by
  unfold brushFlagsOff
  rw [noticeIf_get (j := .brushLag u) (fun _ => by simp [setLagging]),
    noticeIf_get (j := .brushStall u) (fun _ => by simp [setStalled]),
    noticeIf_get (j := .brushStarved u) (fun h => by
      rw [setStarved_changed _ _ _ (by rw [h]; exact Bool.false_ne_true)]
      simp), stalledOff_brushOf, starvedOff_brushOf]
  unfold restCond
  simp only [if_true]
  by_cases h1 : k = .brushStarved u
  · subst h1
    simp
  · by_cases h2 : k = .brushStall u
    · subst h2
      simp
    · by_cases h3 : k = .brushLag u
      · subst h3
        simp
      · simp [h1, h2, h3]

theorem brushStandbyUnit_get (u : BrushUnit) (s : State) (k : CondKind) :
    (brushFlagsOff u (brushRest u s)).cond.get k = restCond u (s.brushOf u) k (s.cond.get k) := by
  rw [brushFlagsOff_get, brushRest_brushOf, brushRest_cond]
  rfl

theorem brushStandbyUnit_brushOf (u v : BrushUnit) (s : State) :
    (brushFlagsOff u (brushRest u s)).brushOf v =
      if v = u then (s.brushOf u).rested.unflagged else s.brushOf v := by
  rw [brushFlagsOff_brushOf]
  split
  · rw [brushRest_brushOf]
  · next h => exact brushRest_brushOf_other s h

theorem brushStandby_brushOf (u : BrushUnit) (s : State) :
    (brushStandby s).brushOf u = (s.brushOf u).rested.unflagged := by
  simp only [brushStandby, forUnits, brushStandbyUnit_brushOf]
  cases u <;> rfl

theorem brushStandby_get (s : State) (k : CondKind) :
    (brushStandby s).cond.get k =
      restCond .m (s.brushOf .m) k (restCond .r (s.brushOf .r) k (restCond .l (s.brushOf .l) k (s.cond.get k))) := by
  simp only [brushStandby, forUnits, brushStandbyUnit_get, brushStandbyUnit_brushOf]
  rfl

/-- The records that the brushes' rest leaves, kind by kind. -/
theorem brushStandby_record (s : State) (k : CondKind) :
    (brushStandby s).cond.get k = match k with
      | .brushStarved u => if (s.brushOf u).starved = true ∧ s.cond.get k = .present then .clear else s.cond.get k
      | .brushLag u => if (s.brushOf u).lagging = true ∧ s.cond.get k = .present then .clear else s.cond.get k
      | .brushStall u => if (s.brushOf u).stalled = true ∧ s.cond.get k = .present then .latched else s.cond.get k
      | k => s.cond.get k := by
  have hn : ∀ (c : Bool) (j : CondKind) (v : CondState), (if c = true then v.noticed j false else v) =
      if c = true ∧ v = .present then (if j.latching then .latched else .clear) else v := fun c j v => by
    cases c <;> simp [CondState.noticed]
  rw [brushStandby_get]
  cases k with
  | brushStarved u => cases u <;> simp only [restCond, reduceCtorEq, false_and, true_and, or_false, if_false,
      CondKind.brushStarved.injEq, hn] <;> rfl
  | brushLag u => cases u <;> simp only [restCond, reduceCtorEq, false_and, true_and, or_false, false_or, if_false,
      CondKind.brushLag.injEq, hn] <;> rfl
  | brushStall u => cases u <;> simp only [restCond, reduceCtorEq, false_and, true_and, or_false, false_or, if_false,
      CondKind.brushStall.injEq, hn] <;> rfl
  | _ => simp [restCond]

/-! ## The arms at rest (R91) -/

/-- A unit's record with its timers stopped. -/
def ArmUnit.stopped (a : ArmUnit) : ArmUnit :=
  { a with
    spinDownTimer := none
    releaseTimer := none }

/-- The last end times when the action in progress is abandoned now. -/
def abandonedEnds (s : State) : PerKind (Option Nat) :=
  match s.arms.action with
  | some c => s.arms.lastEnd.set c.kind (some s.clock)
  | none => s.arms.lastEnd

theorem abandonedEnds_get (s : State) (k : CylKind) :
    (abandonedEnds s).get k = match s.arms.action with
      | some c => if c.kind = k then some s.clock else s.arms.lastEnd.get k
      | none => s.arms.lastEnd.get k := by
  unfold abandonedEnds
  split
  · rw [PerKind.get_set]
    exact if_congr eq_comm rfl rfl
  · rfl

theorem postArmsDemand_rests {s : State} (hq : s.arms.queue = []) (ha : s.arms.action = none) :
    ∃ r, postArmsDemand s = { s with arms := { s.arms with
      demand := 0
      demandRead := r } } := by
  have hd : (if s.arms.queue = [] ∧ s.arms.action = none then 0 else s.setup.armReserve) = 0 := if_pos ⟨hq, ha⟩
  have e := postArmsDemand_eq s
  dsimp only at e
  rw [hd] at e
  by_cases h : 0 = s.arms.demand
  · exact ⟨s.arms.demandRead, e.trans ((if_pos h).trans (by rw [h]))⟩
  · exact ⟨false, e.trans (if_neg h)⟩

theorem armsAbandon_parts (s : State) :
    ∃ r, armsAbandon s = { s with arms := { s.arms with
      units := s.arms.units.map ArmUnit.stopped
      queue := []
      action := none
      lastEnd := abandonedEnds s
      spacingTimer := none
      demand := 0
      demandRead := r } } := by
  have he : endAction s = { s with arms := { s.arms with
      action := none
      lastEnd := abandonedEnds s } } := by
    unfold endAction abandonedEnds
    cases h : s.arms.action with
    | none =>
      show s = { s with arms := { s.arms with action := none } }
      rw [← h]
    | some c => rfl
  unfold armsAbandon
  rw [he]
  obtain ⟨r, hr⟩ := postArmsDemand_rests (s := { stopArmTimers { s with arms := { s.arms with
    action := none
    lastEnd := abandonedEnds s } } with arms := { (stopArmTimers { s with arms := { s.arms with
      action := none
      lastEnd := abandonedEnds s } }).arms with queue := [] } }) rfl rfl
  exact ⟨r, hr⟩

/-- A unit's record with its goal formed where the planner rests. -/
def ArmUnit.formed (u : BrushUnit) (w : Bool) (a : ArmUnit) : ArmUnit :=
  { a with
    baseWorking := w
    goal := goalOf u w a.holds }

theorem reformGoal_putsGoal {s : State} {u : BrushUnit} (hp : s.mc.mode.plans = false) :
    reformGoal u s = s.putArm u ((s.armOf u).formed u (baseWorking s u)) := reformGoal_rests hp

/-- Where the planner rests, an announcement forms the three goals and nothing else. -/
theorem armsAnnounced_rests {s : State} (hp : s.mc.mode.plans = false) :
    armsAnnounced s = { s with arms := { s.arms with units := (armsAnnounced s).arms.units } } ∧
    ∀ u, (armsAnnounced s).armOf u = (s.armOf u).formed u (baseWorking s u) := by
  have e : armsAnnounced s = ((s.putArm .l ((s.armOf .l).formed .l (baseWorking s .l))).putArm .r
      ((s.armOf .r).formed .r (baseWorking s .r))).putArm .m ((s.armOf .m).formed .m (baseWorking s .m)) := by
    unfold armsAnnounced forUnits
    rw [reformGoal_putsGoal hp, reformGoal_putsGoal (u := .r), reformGoal_putsGoal (u := .m)]
    · rfl
    · exact hp
    · exact hp
  rw [e]
  exact ⟨rfl, fun u => by cases u <;> rfl⟩

/-- A unit's activity at the entry to STANDBY. -/
def ArmUnit.idled (a : ArmUnit) : ArmUnit := if a.activity = .fault then a else { a with activity := .idle }

theorem armsStandby_parts {s : State} (hm : s.mc.mode = .standby) :
    armsStandby s = { s with arms := (armsStandby s).arms } ∧
    (∀ u, (armsStandby s).armOf u = ((s.armOf u).stopped.idled).formed u false) ∧
    (armsStandby s).arms.queue = [] ∧ (armsStandby s).arms.action = none ∧
    (armsStandby s).arms.spacingTimer = none ∧ (armsStandby s).arms.demand = 0 ∧
    (armsStandby s).arms.lastEnd = abandonedEnds s := by
  obtain ⟨r, hr⟩ := armsAbandon_parts s
  let x : State := { s with arms := { s.arms with
    units := (s.arms.units.map ArmUnit.stopped).map ArmUnit.idled
    queue := []
    action := none
    lastEnd := abandonedEnds s
    spacingTimer := none
    demand := 0
    demandRead := r } }
  have hx : armsStandby s = armsAnnounced x := by
    unfold armsStandby
    rw [hr]
    rfl
  have hp : x.mc.mode.plans = false := (plans_false _).2 (.inl hm)
  have hw : ∀ u, baseWorking x u = false := fun u => by
    have : (x.mc.mode == .work) = false := beq_eq_false_iff_ne.2 (by rw [show x.mc.mode = .standby from hm]; nofun)
    rw [baseWorking, this]
    rfl
  obtain ⟨h1, h2⟩ := armsAnnounced_rests hp
  rw [hx]
  refine ⟨by rw [h1], fun u => ?_, by rw [h1], by rw [h1], by rw [h1], by rw [h1], by rw [h1]⟩
  rw [h2, hw]
  cases u <;> rfl

/-! ## The shares published at rest (R123) -/

/-- A brush's record at rest: nothing commanded, nothing driven. -/
structure BrushRec.AtRest (b : BrushRec) : Prop where
  c : b.c = 0
  out : b.out = 0
  output : b.output = 0
  stallTimer : b.stallTimer = none
  starved : b.starved = false

theorem updateOutput_rests {u : BrushUnit} {s : State} (h : (s.brushOf u).AtRest) : updateOutput u s = s := by
  have hs : scaledCommand u s = 0 := by rw [scaledCommand, h.c, Int.zero_mul]; rfl
  have ho : outOf u s = 0 := by rw [outOf, hs]; rfl
  have hv : starvedOf u s = (s.brushOf u).starved := by rw [starvedOf, hs, h.c, h.starved]; rfl
  have hr : outputRecord u s = s.brushOf u := by
    unfold outputRecord
    rw [hv, ho]
    have e1 : min 1000 (((0 : Int) * 1000).tdiv (s.setup.rpmFull u)) = (s.brushOf u).output := by
      rw [h.output, Int.zero_mul, Int.zero_tdiv]
      rfl
    have e2 : (if 0 < s.setup.startRpm u then none else (s.brushOf u).stallTimer) = (s.brushOf u).stallTimer := by
      rw [h.stallTimer, ite_self]
    rw [e1, e2]
    conv_lhs => rw [← h.out]
  rw [updateOutput_eq, hr, ho, hv, setStarved_same _ _ _ rfl, State.putBrush_brushOf_self, h.out]
  rfl

theorem publishShares_rests {s : State} (hb : ∀ u, (s.brushOf u).AtRest) (hq : s.arms.queue = [])
    (ht : s.arms.spacingTimer = none) (hs : s.spray.seq = .dry) : publishShares s = s := by
  have h1 : runStartTest s = s := by
    refine (startTest_empty hq).trans ?_
    rw [← ht]
  have h2 : waterShare s = s := by
    rw [waterShare, hs]
    rfl
  unfold publishShares
  rw [h1, updateOutput_rests (hb _), updateOutput_rests (hb _), updateOutput_rests (hb _), h2]

/-! ## The sensor rounds (R146) -/

theorem busy_iff (l : Line) :
    l.busy = true ↔ (∃ tx frame due, l = .sending tx frame due) ∨ ∃ tx due, l = .window tx due := by
  cases l <;> simp [Line.busy]

theorem sensorsStandby_idle {s : State} (h : s.sensors.round = none) :
    sensorsStandby s = { s with sensors := { s.sensors with roundTimer := none } } := by
  unfold sensorsStandby
  dsimp only
  rw [h]

theorem sensorsStandby_closes {s : State} {x : Round} (h : s.sensors.round = some x) (hb : s.sensors.line.busy = true) :
    sensorsStandby s = { s with sensors := { s.sensors with
      roundTimer := none
      round := some { x with
        due := []
        follow := none
        closing := true } } } := by
  unfold sensorsStandby
  dsimp only
  rw [h]
  exact if_pos hb

theorem sensorsStandby_ends {s : State} (h : s.sensors.round ≠ none) (hb : ¬ s.sensors.line.busy = true) :
    sensorsStandby s = { s with sensors := { s.sensors with
      roundTimer := none
      round := none
      counter := (s.sensors.counter + 1) % 65536 } } := by
  obtain ⟨x, hx⟩ := Option.ne_none_iff_exists'.1 h
  unfold sensorsStandby
  dsimp only
  rw [hx]
  exact if_neg hb

theorem sensorsStandby_eq (s : State) : sensorsStandby s = { s with sensors := (sensorsStandby s).sensors } := by
  cases h : s.sensors.round with
  | none => rw [sensorsStandby_idle h]
  | some x =>
    by_cases hb : s.sensors.line.busy = true
    · rw [sensorsStandby_closes h hb]
    · rw [sensorsStandby_ends (by rw [h]; nofun) hb]

/-! ## The whole entry (R10, R14) -/

/-- The entry to STANDBY as far as Mode Control, the gates and the drive. -/
def standbyAnnounced (s : State) : State := driveEnterStandby (pulseStandby (modeReport (takeMode .standby s)))

/-- The drive in STANDBY. -/
def standbyDrive (d : Drive) : Drive :=
  { d.atRest with
    requested := 0
    requestTimer := none
    periodTimer := none
    overspeed := false }

theorem standbyAnnounced_parts (s : State) : ∃ (c : CondTable) (told : List Report),
    standbyAnnounced s = { s with
      mc := ⟨.standby, .standby, none, none⟩
      pcu := { s.pcu with
        wheelGateTimer := none
        brushGateTimer := none }
      drive := standbyDrive s.drive
      cond := c
      link := (Report.mode .standby .standby :: told).foldl LinkPort.post s.link } ∧
    ∀ k, c.get k = if k = .overspeed ∧ s.drive.overspeed = true ∧ s.cond.get k = .present then .clear
      else s.cond.get k := by
  let x : State := { pulseStandby (modeReport (takeMode .standby s)) with drive := { s.drive.atRest with
    requested := 0
    requestTimer := none
    periodTimer := none } }
  have hx : standbyAnnounced s = clearOverspeed x := rfl
  by_cases h : OverspeedTold x
  · refine ⟨s.cond.set .overspeed .clear, [_], hx.trans (clearOverspeed_told h), fun k => ?_⟩
    rw [CondTable.get_set]
    by_cases hk : k = .overspeed
    · subst hk
      rw [if_pos rfl, if_pos ⟨rfl, h⟩]
    · rw [if_neg hk, if_neg fun hc => hk hc.1]
  · refine ⟨s.cond, [], hx.trans (clearOverspeed_quiet h), fun k => (if_neg ?_).symm⟩
    rintro ⟨rfl, hc⟩
    exact h hc

/-- Two records of the water with the same enable and the same flags of the tank. -/
def SameTank (p r : Spray) : Prop := r.enable = p.enable ∧ r.low = p.low ∧ r.empty = p.empty

theorem setCommand_sameTank (s : State) (c : Int) (p : Spray) : SameTank p (setCommand s c p) := by
  unfold setCommand enterLag enterLead
  dsimp only
  repeat' split
  all_goals exact ⟨rfl, rfl, rfl⟩

theorem followTarget_sameTank (s : State) (q : Int) (p : Spray) : SameTank p (followTarget s q p) := by
  unfold followTarget
  dsimp only
  split
  · exact ⟨rfl, rfl, rfl⟩
  · split
    · exact setCommand_sameTank s 0 { p with q := q }
    · split
      · exact setCommand_sameTank s _ { p with q := q }
      · split
        · exact ⟨rfl, rfl, rfl⟩
        · split <;> exact ⟨rfl, rfl, rfl⟩

theorem valvesFollow_sameTank (p : Spray) : SameTank p (valvesFollow p) := by
  unfold valvesFollow
  split
  · split <;> exact ⟨rfl, rfl, rfl⟩
  · split <;> exact ⟨rfl, rfl, rfl⟩
  · exact ⟨rfl, rfl, rfl⟩
  · exact ⟨rfl, rfl, rfl⟩

theorem SameTank.trans {p q r : Spray} (h : SameTank p q) (k : SameTank q r) : SameTank p r :=
  ⟨k.1.trans h.1, k.2.1.trans h.2.1, k.2.2.trans h.2.2⟩

theorem evaluateFlow_sameTank (s : State) : SameTank s.spray (evaluateFlow s).spray := followTarget_sameTank s _ _

theorem formWanted_sameTank (s : State) : SameTank s.spray (formWanted s).spray :=
  SameTank.trans (valvesFollow_sameTank { s.spray with wanted := wantedSet s })
    (evaluateFlow_sameTank { s with spray := valvesFollow { s.spray with wanted := wantedSet s } })

theorem brushNotice_sameTank (s : State) (u : BrushUnit) (a b : Bool) : SameTank s.spray (brushNotice u a b s).spray :=
  formWanted_sameTank { s with spray := { s.spray with
    brushOn := if b then PerUnit.const false else s.spray.brushOn.set u a } }

/-- The enable and the tank's flags stay through the notices of the brushes. -/
theorem noticed_sameTank (p : Spray) : Noticed fun x => SameTank p x.spray where
  water := {
    flow := fun s h => h.trans (evaluateFlow_sameTank s)
    form := fun s h => h.trans (formWanted_sameTank s)
    notice := fun s u a b h => h.trans (brushNotice_sameTank s u a b) }
  brush := fun _ _ _ h => h
  record := fun _ _ _ _ h => by
    rw [changeRecord_spray]
    exact h
  travel := fun _ _ _ _ h => by
    rw [driveEnterTravel_spray]
    exact h

end Sys2Proof.Machine
end

section
/-! The statement of the entry to STANDBY. -/

namespace Sys2Proof.Machine

/-- The Arbiter in STANDBY. -/
def Arbiter.rested (a : Arbiter) : Arbiter :=
  { a with
    periodTimer := none
    holdTimer := none
    budget := 0
    consumers := a.consumers.map fun c => { c with
      grant := 0
      share := 1000 } }

theorem Arbiter.rested_get (a : Arbiter) (c : Consumer) :
    a.rested.consumers.get c = { a.consumers.get c with
      grant := 0
      share := 1000 } := by
  cases c <;> rfl

/-- The brushes behind the announcement of STANDBY. -/
def standbyBrushed (s : State) : State := brushStandby (standbyAnnounced s)

theorem standbyAnnounced_standby (s : State) : (standbyAnnounced s).mc = ⟨.standby, .standby, none, none⟩ := by
  obtain ⟨c, told, e, -⟩ := standbyAnnounced_parts s
  rw [e]

theorem standbyBrushed_posted (s : State) :
    Posted (standbyAnnounced s) (standbyAnnounced s).link (standbyBrushed s) := by
  have hm : ¬ (standbyAnnounced s).mc.mode.moves := by
    rw [standbyAnnounced_standby]
    exact id
  have hp : Plain (Posted (standbyAnnounced s) (standbyAnnounced s).link) := Posted.plain hm
  exact brushStandby_keeps hp.toNoticed
    (fun _ _ ⟨h, m⟩ => ⟨⟨h.pins, h.setup, h.mc, h.pcu, h.drive, h.arb, h.recipes, h.sensors, h.clock, h.free, h.pending⟩, m⟩)
    Posted.record (Posted.refl _)

theorem standbyBrushed_sameTank (s : State) : SameTank s.spray (standbyBrushed s).spray := by
  have ha : (standbyAnnounced s).spray = s.spray := by
    obtain ⟨c, told, e, -⟩ := standbyAnnounced_parts s
    rw [e]
  have n : Noticed fun x => SameTank s.spray x.spray := noticed_sameTank s.spray
  refine brushStandby_keeps n (fun _ _ h => h) (fun _ _ _ h => ?_) ?_
  · rw [changeRecord_spray]
    exact h
  · rw [ha]
    exact ⟨rfl, rfl, rfl⟩

/-- The arms behind the brushes. -/
def standbyArms (s : State) : State := armsStandby (standbyBrushed s)

theorem arbiterStandby_rests {x : State} (hm : x.mc.mode = .standby) (hb : ∀ u, (x.brushOf u).AtRest) :
    arbiterStandby (sprayStandby (armsStandby x)) = { x with
      arms := (armsStandby x).arms
      spray := x.spray.atRest
      arb := x.arb.rested } := by
  obtain ⟨ha, -, hq, -, ht, -, -⟩ := armsStandby_parts hm
  generalize (armsStandby x).arms = a at ha hq ht
  rw [ha]
  exact publishShares_rests (s := { x with
    arms := a
    spray := x.spray.atRest
    arb := x.arb.rested }) hb hq ht rfl

theorem sensorsStandby_sensors (x : State) :
    (x.sensors.round = none → (sensorsStandby x).sensors = { x.sensors with roundTimer := none }) ∧
    (∀ r, x.sensors.round = some r → x.sensors.line.busy = true → (sensorsStandby x).sensors = { x.sensors with
      roundTimer := none
      round := some { r with
        due := []
        follow := none
        closing := true } }) ∧
    (x.sensors.round ≠ none → ¬ x.sensors.line.busy = true → (sensorsStandby x).sensors = { x.sensors with
      roundTimer := none
      round := none
      counter := (x.sensors.counter + 1) % 65536 }) :=
  ⟨fun h => congrArg State.sensors (sensorsStandby_idle h),
    fun _ h hb => congrArg State.sensors (sensorsStandby_closes h hb),
    fun h hb => congrArg State.sensors (sensorsStandby_ends h hb)⟩

/-- The whole entry: the water and the Arbiter at rest, and the sensors' round behind them. -/
theorem enterStandby_blocks (s : State) :
    enterStandby s = sensorsStandby { standbyBrushed s with
      arms := (standbyArms s).arms
      spray := (standbyBrushed s).spray.atRest
      arb := (standbyBrushed s).arb.rested } := by
  have hm : (standbyBrushed s).mc.mode = .standby := by
    rw [(standbyBrushed_posted s).1.mc, standbyAnnounced_standby]
  have hb : ∀ u, ((standbyBrushed s).brushOf u).AtRest := fun u => by
    rw [standbyBrushed, brushStandby_brushOf]
    exact ⟨rfl, rfl, rfl, rfl, rfl⟩
  rw [standbyArms, ← arbiterStandby_rests hm hb]
  rfl

theorem standbyBrushed_sensors (s : State) : (standbyBrushed s).sensors = s.sensors := by
  obtain ⟨c, told, e, -⟩ := standbyAnnounced_parts s
  rw [(standbyBrushed_posted s).1.sensors, e]

/-- The condition table behind the entry. -/
theorem standbyBrushed_record (s : State) (k : CondKind) :
    (standbyBrushed s).cond.get k = match k with
      | .brushStarved u => if (s.brushOf u).starved = true ∧ s.cond.get k = .present then .clear else s.cond.get k
      | .brushLag u => if (s.brushOf u).lagging = true ∧ s.cond.get k = .present then .clear else s.cond.get k
      | .brushStall u => if (s.brushOf u).stalled = true ∧ s.cond.get k = .present then .latched else s.cond.get k
      | .overspeed => if s.drive.overspeed = true ∧ s.cond.get k = .present then .clear else s.cond.get k
      | k => s.cond.get k := by
  obtain ⟨c, told, e, hc⟩ := standbyAnnounced_parts s
  have hb : ∀ u, (standbyAnnounced s).brushOf u = s.brushOf u := fun u => by
    rw [e]
    rfl
  have hk : ∀ j, (standbyAnnounced s).cond.get j =
      if j = .overspeed ∧ s.drive.overspeed = true ∧ s.cond.get j = .present then .clear else s.cond.get j := fun j => by
    rw [e]
    exact hc j
  rw [standbyBrushed, brushStandby_record]
  cases k <;> simp only [hb, hk, reduceCtorEq, false_and, true_and, if_false]

/-- The arms behind the entry. -/
theorem standbyArms_parts (s : State) :
    (∀ u, (standbyArms s).armOf u = ((s.armOf u).stopped.idled).formed u false) ∧
    (standbyArms s).arms.queue = [] ∧ (standbyArms s).arms.action = none ∧
    (standbyArms s).arms.spacingTimer = none ∧ (standbyArms s).arms.demand = 0 ∧
    (standbyArms s).arms.lastEnd = abandonedEnds s := by
  obtain ⟨c, told, e, -⟩ := standbyAnnounced_parts s
  have hm : (standbyBrushed s).mc.mode = .standby := by
    rw [(standbyBrushed_posted s).1.mc, standbyAnnounced_standby]
  have ha : (standbyBrushed s).arms = s.arms := (brushStandby_same (standbyAnnounced s)).1.trans (by rw [e])
  have ht : (standbyBrushed s).clock = s.clock := by rw [(standbyBrushed_posted s).1.clock, e]
  have hu : ∀ u, (standbyBrushed s).armOf u = s.armOf u := fun u => congrArg (fun a : Arms => a.units.get u) ha
  have hl : abandonedEnds (standbyBrushed s) = abandonedEnds s := by
    unfold abandonedEnds
    rw [ha, ht]
  obtain ⟨-, h1, h2, h3, h4, h5, h6⟩ := armsStandby_parts hm
  rw [standbyArms]
  exact ⟨fun u => (h1 u).trans (by rw [hu]), h2, h3, h4, h5, h6.trans hl⟩

theorem rested_unflagged {b r : BrushRec} (h : b = r.rested.unflagged) :
    b.t = 0 ∧ b.c = 0 ∧ b.out = 0 ∧ b.output = 0 ∧ b.demand = 0 ∧ b.rampTimer = none ∧ b.stallTimer = none ∧
    b.lagTimer = none ∧ b.starved = false ∧ b.stalled = false ∧ b.lagging = false ∧ b.index = r.index ∧
    b.spin = r.spin := by
  subst h
  exact ⟨rfl, rfl, rfl, rfl, rfl, rfl, rfl, rfl, rfl, rfl, rfl, rfl, rfl⟩

theorem idled_formed {a b : ArmUnit} {u : BrushUnit} (h : b = (a.stopped.idled).formed u false) :
    b.reach = a.reach ∧ b.height = a.height ∧ b.spin = a.spin ∧ b.holds = a.holds ∧
    b.activity = (if a.activity = .fault then .fault else .idle) ∧ b.baseWorking = false ∧
    b.spinDownTimer = none ∧ b.releaseTimer = none := by
  subst h
  unfold ArmUnit.idled
  by_cases h : a.activity = .fault
  · rw [if_pos (show a.stopped.activity = .fault from h), if_pos h]
    exact ⟨rfl, rfl, rfl, rfl, h, rfl, rfl, rfl⟩
  · rw [if_neg (show ¬ a.stopped.activity = .fault from h), if_neg h]
    exact ⟨rfl, rfl, rfl, rfl, rfl, rfl, rfl, rfl⟩

/-- Settles O16: every block's own entry, in the order of the model, and the round that ends or waits. -/
theorem enteringStandbyBringsEveryBlockToRest : Obligations.EnteringStandbyBringsEveryBlockToRest := by
  intro s t busy
  have hbusy : s.sensors.line.busy = true ↔ busy := busy_iff _
  have hblocks : t = _ := enterStandby_blocks s
  clear_value t busy
  have hmode := standbyAnnounced_standby s
  obtain ⟨c, told, e, -⟩ := standbyAnnounced_parts s
  obtain ⟨around, more, hlink⟩ := standbyBrushed_posted s
  obtain ⟨harm, hqueue, haction, hspacing, hdemand, hends⟩ := standbyArms_parts s
  obtain ⟨henable, hlow, hempty⟩ := standbyBrushed_sameTank s
  have hsensors := standbyBrushed_sensors s
  have hrecord := standbyBrushed_record s
  have hbrush : ∀ u, (standbyBrushed s).brushOf u = (s.brushOf u).rested.unflagged := fun u => by
    rw [standbyBrushed, brushStandby_brushOf, e]
    rfl
  generalize standbyBrushed s = b at *
  generalize standbyArms s = a at *
  obtain ⟨hidle, hcloses, hstops⟩ := sensorsStandby_sensors { b with
    arms := a.arms
    spray := b.spray.atRest
    arb := b.arb.rested }
  rw [sensorsStandby_eq] at hblocks
  generalize (sensorsStandby { b with
    arms := a.arms
    spray := b.spray.atRest
    arb := b.arb.rested }).sensors = x at *
  dsimp only at hidle hcloses hstops
  rw [hsensors] at hidle hcloses hstops
  have hsupply : b.arb.supply = s.arb.supply := by rw [around.arb, e]
  have hstale : b.arb.stale = s.arb.stale := by rw [around.arb, e]
  have hshares : ∀ c, b.arb.rested.consumers.get c = { s.arb.consumers.get c with
      grant := 0
      share := 1000 } := fun c => by
    rw [Arbiter.rested_get, around.arb, e]
  have hend : ∀ k, a.arms.lastEnd.get k = match s.arms.action with
      | some c => if c.kind = k then some s.clock else s.arms.lastEnd.get k
      | none => s.arms.lastEnd.get k := fun k => by
    rw [hends]
    exact abandonedEnds_get s k
  subst hblocks
  refine ⟨⟨told ++ more, ?_⟩, hrecord, around.mc.trans hmode, ?_, ?_, fun u => ?_, fun u => ?_, hqueue, haction,
    hspacing, hdemand, hend, rfl, rfl, rfl, rfl, rfl, rfl, rfl, rfl, rfl, rfl, henable, hlow, hempty, rfl, rfl,
    rfl, hsupply, hstale, hshares, hidle, fun r h hb => hcloses r h (hbusy.2 hb), fun h hb => hstops h fun k => hb (hbusy.1 k),
    ?_, ?_, ?_, ?_⟩
  · refine hlink.trans ?_
    rw [e, ← List.cons_append, List.foldl_append]
  · refine around.pcu.trans ?_
    rw [e]
  · refine around.drive.trans ?_
    rw [e]
    rfl
  · exact rested_unflagged (hbrush u)
  · exact idled_formed (harm u)
  · exact around.recipes.trans (by rw [e])
  · exact around.setup.trans (by rw [e])
  · exact around.pins.trans (by rw [e])
  · exact around.clock.trans (by rw [e])

end Sys2Proof.Machine
end

section
/-! Waking, block by block (R4, R17, R46, R67, R92, R107, R123, R146, R164). -/

namespace Sys2Proof.Machine

/-! ## The round that begins (R146) -/

/-- Two states that agree in what the Sensor Link Master reads. -/
structure SameRounds (x y : State) : Prop where
  sensors : x.sensors = y.sensors
  setup : x.setup = y.setup
  clock : x.clock = y.clock

section
variable {x y : State} (h : SameRounds x y)
include h

theorem SameRounds.nextTransaction (r : Round) : (nextTransaction r x).sensors = (nextTransaction r y).sensors := by
  unfold Machine.nextTransaction
  cases r.follow with
  | some _ => simp only [beginTransaction, State.putLine, State.putRound, State.after, h.sensors, h.setup, h.clock]
  | none =>
    cases r.due with
    | nil => simp only [advanceCounter, h.sensors]
    | cons _ _ => simp only [beginTransaction, State.putLine, State.putRound, State.after, h.sensors, h.setup, h.clock]

theorem SameRounds.newRound : newRound x = newRound y := by
  have hd : roleDue x = roleDue y := by
    funext r
    rw [roleDue, roleDue, h.sensors, h.setup]
  simp only [Machine.newRound, hd, roundSettings, h.setup]

theorem SameRounds.roundBegun : SameRounds (roundBegun x) (roundBegun y) where
  sensors := by
    unfold Machine.roundBegun
    simp only [h.newRound, h.sensors, h.setup, State.startMs, State.after, h.clock]
  setup := h.setup
  clock := h.clock

theorem SameRounds.startRound : (startRound x).sensors = (startRound y).sensors := by
  rw [startRound_begins, startRound_begins, h.newRound, h.sensors]
  split
  · simp only [advanceCounter, h.roundBegun.sensors]
  · split
    · exact h.roundBegun.nextTransaction _
    · exact h.roundBegun.sensors

theorem SameRounds.sensorsWake : (sensorsWake x).sensors = (sensorsWake y).sensors := by
  unfold Machine.sensorsWake
  rw [h.sensors]
  split
  · exact h.startRound
  · refine SameRounds.startRound ⟨?_, h.setup, h.clock⟩
    simp only [advanceCounter, State.putLine, h.sensors]

end

theorem nextTransaction_keeps (r : Round) (s : State) : (nextTransaction r s).sensors.channels = s.sensors.channels ∧
    (nextTransaction r s).sensors.dustBase = s.sensors.dustBase ∧
    (nextTransaction r s).sensors.roundTimer = s.sensors.roundTimer := by
  unfold nextTransaction
  split
  · exact ⟨rfl, rfl, rfl⟩
  · split <;> exact ⟨rfl, rfl, rfl⟩

theorem startRound_keeps (s : State) : (startRound s).sensors.channels = s.sensors.channels ∧
    (startRound s).sensors.dustBase = s.sensors.dustBase ∧
    (startRound s).sensors.roundTimer = s.startMs s.setup.roundPeriod := by
  rw [startRound_begins]
  split
  · exact ⟨rfl, rfl, rfl⟩
  · split
    · exact nextTransaction_keeps _ _
    · exact ⟨rfl, rfl, rfl⟩

theorem sensorsWake_keeps (s : State) : (sensorsWake s).sensors.channels = s.sensors.channels ∧
    (sensorsWake s).sensors.dustBase = s.sensors.dustBase ∧
    (sensorsWake s).sensors.roundTimer = s.startMs s.setup.roundPeriod := by
  unfold sensorsWake
  split
  · exact startRound_keeps s
  · exact startRound_keeps _

/-- The value for use depends on the channels, the announced dust_base and the setup. -/
theorem sensor_congr {x y : State} (hc : x.sensors.channels = y.sensors.channels)
    (hd : x.sensors.dustBase = y.sensors.dustBase) (hs : x.setup = y.setup) (r : Role) : x.sensor r = y.sensor r := by
  have hsub : x.substitute r = y.substitute r := by cases r <;> simp only [State.substitute, hs, hd]
  rw [State.sensor, State.sensor, State.usable, State.usable, hc, hsub]

/-! ## Mode Control, the gates, the drive and the segments (R5, R17, R46, R67) -/

/-- The drive at waking. -/
def wokenDrive (s : State) : Drive :=
  { s.drive.atRest with
    requested := 0
    requestTimer := none
    held := none
    overspeed := false
    periodTimer := s.startMs 10 }

/-- Waking as far as the brushes. -/
def wakeAnnounced (s : State) : State := brushWake (driveWake (pulseWake (enterSettle s)))

theorem wakeAnnounced_parts (s : State) : ∃ (c : CondTable) (told : List Report),
    wakeAnnounced s = { s with
      mc := ⟨.settle, .park, s.startMs (if s.pins.settleStrap then 1000 else 100), none⟩
      pcu := s.pcu.restarted s
      drive := wokenDrive s
      brush := (brushWake s).brush
      cond := c
      link := (Report.mode .settle .park :: told).foldl LinkPort.post s.link } ∧
    ∀ k, k ≠ .overspeed → c.get k = s.cond.get k := by
  let x : State := { pulseWake (enterSettle s) with drive := { s.drive.atRest with
    requested := 0
    requestTimer := none
    held := none
    periodTimer := s.startMs 10 } }
  have hx : driveWake (pulseWake (enterSettle s)) = clearOverspeed x := rfl
  have hw : wakeAnnounced s = brushWake (clearOverspeed x) := congrArg brushWake hx
  by_cases h : OverspeedTold x
  · refine ⟨s.cond.set .overspeed .clear, [_], hw.trans (congrArg brushWake (clearOverspeed_told h)), fun k hk => ?_⟩
    rw [CondTable.get_set, if_neg hk]
  · exact ⟨s.cond, [], hw.trans (congrArg brushWake (clearOverspeed_quiet h)), fun _ _ => rfl⟩

theorem brushWake_segments (s : State) (u : BrushUnit) :
    (brushWake s).brushOf u = { s.brushOf u with index := 0 } := by cases u <;> rfl

/-! ## The arms (R91) -/

/-- A property that the arms' waking keeps: it says of the arms at most what they hold. -/
structure Waking (P : State → Prop) : Prop extends Planned P where
  held : ∀ s a, (∀ u, (a.units.get u).holds = (s.arms.units.get u).holds) → P s → P { s with arms := a }
  switched : ∀ s u p, P s → P (notice (.switch u) p s)

section
variable {P : State → Prop} (w : Waking P) {s : State}
include w

theorem Waking.armWakeUnit {u : BrushUnit} (hs : P s) : P (armWakeUnit u s) := by
  have h1 := w.readSwitches (u := u) (w.setSpin (u := u) (sp := .off) hs)
  unfold Machine.armWakeUnit
  dsimp only
  generalize Machine.readSwitches u (Machine.setSpin u .off s) = x at h1
  split
  · exact w.enterFault (w.switched x u true h1)
  · exact w.setActivity (w.switched x u false h1)

theorem Waking.reformGoal {u : BrushUnit} (hs : P s) : P (reformGoal u s) := by
  have hput : ∀ a : ArmUnit, a.holds = (s.armOf u).holds → P (s.putArm u a) := fun a ha => by
    refine w.held s _ (fun v => ?_) hs
    rw [PerUnit.get_set]
    split
    · next hv => rw [hv]; exact ha
    · rfl
  unfold Machine.reformGoal
  dsimp only
  split
  · exact hput _ rfl
  · exact w.replan (hput _ rfl)

theorem Waking.armsWake (hs : P s) : P (armsWake s) := by
  have hstop : P (stopArmTimers s) := w.held s _ (fun u => by cases u <;> rfl) hs
  unfold Machine.armsWake Machine.armsAnnounced
  exact forUnits_keeps (f := Machine.reformGoal) (fun _ _ hx => w.reformGoal hx)
    (forUnits_keeps (f := Machine.armWakeUnit) (fun _ _ hx => w.armWakeUnit hx) hstop)

end

/-- What the arms' waking leaves of the arms, the water, the brushes and the conditions. -/
structure KeptAtWaking (b x : State) : Prop where
  holds : ∀ u, (x.armOf u).holds = (b.armOf u).holds
  tank : SameTank b.spray x.spray
  segments : ∀ u, (x.brushOf u).index = (b.brushOf u).index ∧ (x.brushOf u).reselect = (b.brushOf u).reselect

theorem KeptAtWaking.same {b s x : State} (h : KeptAtWaking b s) (ha : x.arms = s.arms) (hw : x.spray = s.spray)
    (hb : x.brush = s.brush) : KeptAtWaking b x where
  holds := fun u => by
    rw [State.armOf, ha]
    exact h.holds u
  tank := by
    rw [hw]
    exact h.tank
  segments := fun u => by
    rw [State.brushOf, hb]
    exact h.segments u

theorem waking_kept (b : State) : Waking (KeptAtWaking b) where
  water := {
    flow := fun s h => ⟨h.holds, h.tank.trans (evaluateFlow_sameTank s), h.segments⟩
    form := fun s h => ⟨h.holds, h.tank.trans (formWanted_sameTank s), h.segments⟩
    notice := fun s u a c h => ⟨h.holds, h.tank.trans (brushNotice_sameTank s u a c), h.segments⟩ }
  brush := fun s y hy h => ⟨h.holds, h.tank, fun u => by
    obtain ⟨-, hi, hr, -⟩ := hy.1 u
    exact ⟨hi.trans (h.segments u).1, hr.trans (h.segments u).2⟩⟩
  record := fun s k v _ h => h.same (by simp) (by simp) (by simp)
  travel := fun s m _ _ h => by
    obtain ⟨c, l, e⟩ := driveEnterTravel_parts (modeReport (takeMode m s))
    rw [e]
    exact h.same rfl rfl rfl
  arms := fun s a ha h => ⟨fun u => (ha.1 u).2.1.trans (h.holds u), h.tank, h.segments⟩
  post := fun _ _ h => ⟨h.holds, h.tank, h.segments⟩
  held := fun s a ha h => ⟨fun u => (ha u).trans (h.holds u), h.tank, h.segments⟩
  switched := fun s u p h => h.same (by simp) (by simp) (by simp)

theorem waking_sameRecord {k : CondKind} (hk : ¬ plannedKind k) (ho : k ≠ .overspeed) (hu : ∀ u, k ≠ .switch u)
    (v : CondState) : Waking fun x => x.cond.get k = v where
  toPlanned := planned_sameRecord hk ho v
  held := fun _ _ _ h => h
  switched := fun s u p h => by
    rw [notice, changeRecord_cond, CondTable.get_set, if_neg (hu u)]
    exact h

end Sys2Proof.Machine
end

section
/-! The tests that end a waking (R104, R157, R158, R164), and what the whole waking leaves. -/

namespace Sys2Proof.Machine

/-! ## What the tests leave alone -/

/-- The state changed in the water, the conditions and the arbiter's flags alone, with reports posted. -/
def Aside (b x : State) : Prop := ∃ (p : Spray) (d st : Bool) (c : CondTable) (more : List Report), x = { b with
  spray := p
  arb := { b.arb with
    derate := d
    stop := st }
  cond := c
  link := more.foldl LinkPort.post b.link }

theorem Aside.refl (b : State) : Aside b b := ⟨b.spray, b.arb.derate, b.arb.stop, b.cond, [], rfl⟩

theorem Aside.trans {a b c : State} (h : Aside a b) (k : Aside b c) : Aside a c := by
  obtain ⟨p, d, st, t, more, rfl⟩ := h
  obtain ⟨p', d', st', t', more', rfl⟩ := k
  exact ⟨p', d', st', t', more ++ more', by rw [List.foldl_append]⟩

theorem Aside.water (b : State) (p : Spray) : Aside b { b with spray := p } :=
  ⟨p, b.arb.derate, b.arb.stop, b.cond, [], rfl⟩

theorem aside_notice (k : CondKind) (p : Bool) (s : State) : Aside s (notice k p s) := by
  unfold notice
  by_cases h : s.cond.get k = (s.cond.get k).noticed k p
  · rw [changeRecord_same h]
    exact Aside.refl s
  · rw [changeRecord_changed h]
    exact ⟨s.spray, _, _, _, [_], rfl⟩

theorem notice_get (k j : CondKind) (p : Bool) (s : State) :
    (notice k p s).cond.get j = if j = k then (s.cond.get k).noticed k p else s.cond.get j := by
  rw [notice, changeRecord_cond, CondTable.get_set]

/-! ## The Monitor's tests in a mode that no condition changes -/

/-- A test with a limit and a hysteresis: the kind becomes present, is no longer present, or stays. -/
def testKind (k : CondKind) (c1 c2 : Prop) [Decidable c1] [Decidable c2] (s : State) : State :=
  if c1 then notice k true s else if c2 then notice k false s else s

/-- What one test leaves. -/
structure OneTested (k : CondKind) (r : CondState) (s x : State) : Prop where
  aside : Aside s x
  spray : x.spray = s.spray
  get : ∀ j, x.cond.get j = if j = k then r else s.cond.get j

theorem oneTested_notice (k : CondKind) (p : Bool) (s : State) :
    OneTested k ((s.cond.get k).noticed k p) s (notice k p s) :=
  ⟨aside_notice _ _ _, notice_spray _ _ _, fun j => notice_get k j p s⟩

theorem oneTested_testKind {k : CondKind} {c d : Prop} [Decidable c] [Decidable d] {s : State} {w : CondState}
    (hw : CondState.present.noticed k false = w) :
    OneTested k (if c then .present else if s.cond.get k = .present ∧ d then w else s.cond.get k) s
      (testKind k c (s.cond.get k = .present ∧ d) s) := by
  unfold testKind
  by_cases hc : c
  · rw [if_pos hc, if_pos hc]
    exact oneTested_notice k true s
  · rw [if_neg hc, if_neg hc]
    by_cases hd : s.cond.get k = .present ∧ d
    · rw [if_pos hd, if_pos hd, ← hw, ← hd.1]
      exact oneTested_notice k false s
    · rw [if_neg hd, if_neg hd]
      refine ⟨Aside.refl s, rfl, fun j => ?_⟩
      split
      · next h => rw [h]
      · rfl

theorem oneTested_oilHigh (t : Int) (s : State) : OneTested .oilHigh
    (if s.cond.oilHigh = .clear ∧ s.setup.oilHigh ≤ t then .present
      else if s.cond.oilHigh = .present ∧ t < s.setup.oilHigh - s.setup.oilHyst then .clear else s.cond.oilHigh)
    s (oilHighTest t s) := oneTested_testKind (k := .oilHigh) rfl

theorem oneTested_oilOver {t : Int} {s : State} (hm : s.mc.mode = .settle) : OneTested .oilOver
    (if s.cond.oilOver ≠ .present ∧ s.setup.oilOver ≤ t then .present
      else if s.cond.oilOver = .present ∧ t < s.setup.oilOver - s.setup.oilHyst then .latched else s.cond.oilOver)
    s (oilOverTest t s) := by
  have hf : forcedParking (notice .oilOver true s) = notice .oilOver true s :=
    forcedParking_stays (by rw [notice_mc, hm]; decide)
  rw [oilOverTest, hf]
  exact oneTested_testKind (k := .oilOver) rfl

theorem oneTested_loopOver (s : State) : OneTested .loopOver
    (if s.cond.loopOver = .clear ∧
        (s.setup.loopOver ≤ s.sensor .drivePA ∨ s.setup.loopOver ≤ s.sensor .drivePB) then .present
      else if s.cond.loopOver = .present ∧ s.sensor .drivePA < s.setup.loopOver - s.setup.loopHyst ∧
        s.sensor .drivePB < s.setup.loopOver - s.setup.loopHyst then .clear
      else s.cond.loopOver) s (loopTest s) := oneTested_testKind (k := .loopOver) rfl

/-- What the Monitor's three tests leave. -/
structure MonitorTested (s x : State) : Prop where
  aside : Aside s x
  spray : x.spray = s.spray
  oilHigh : x.cond.oilHigh =
    if s.cond.oilHigh = .clear ∧ s.setup.oilHigh ≤ s.sensor .oilT then .present
    else if s.cond.oilHigh = .present ∧ s.sensor .oilT < s.setup.oilHigh - s.setup.oilHyst then .clear
    else s.cond.oilHigh
  oilOver : x.cond.oilOver =
    if s.cond.oilOver ≠ .present ∧ s.setup.oilOver ≤ s.sensor .oilT then .present
    else if s.cond.oilOver = .present ∧ s.sensor .oilT < s.setup.oilOver - s.setup.oilHyst then .latched
    else s.cond.oilOver
  loopOver : x.cond.loopOver =
    if s.cond.loopOver = .clear ∧
      (s.setup.loopOver ≤ s.sensor .drivePA ∨ s.setup.loopOver ≤ s.sensor .drivePB) then .present
    else if s.cond.loopOver = .present ∧ s.sensor .drivePA < s.setup.loopOver - s.setup.loopHyst ∧
      s.sensor .drivePB < s.setup.loopOver - s.setup.loopHyst then .clear
    else s.cond.loopOver
  others : ∀ k, k ≠ .oilHigh → k ≠ .oilOver → k ≠ .loopOver → x.cond.get k = s.cond.get k

theorem Aside.mc {b x : State} (h : Aside b x) : x.mc = b.mc := by
  obtain ⟨p, d, st, c, more, rfl⟩ := h
  rfl

theorem Aside.setup {b x : State} (h : Aside b x) : x.setup = b.setup := by
  obtain ⟨p, d, st, c, more, rfl⟩ := h
  rfl

theorem Aside.sensor {b x : State} (h : Aside b x) (r : Role) : x.sensor r = b.sensor r := by
  obtain ⟨p, d, st, c, more, rfl⟩ := h
  exact sensor_congr rfl rfl rfl r

theorem monitorTests_settle {s : State} (hm : s.mc.mode = .settle) : MonitorTested s (loopTest (oilTest s)) := by
  have ho : oilTest s = oilOverTest (s.sensor .oilT) (oilHighTest (s.sensor .oilT) s) := rfl
  rw [ho]
  have h1 := oneTested_oilHigh (s.sensor .oilT) s
  generalize oilHighTest (s.sensor .oilT) s = x at h1
  have h2 := oneTested_oilOver (t := s.sensor .oilT) (s := x) (by rw [h1.aside.mc, hm])
  generalize oilOverTest (s.sensor .oilT) x = y at h2
  have h3 := oneTested_loopOver y
  generalize loopTest y = z at h3
  have a2 := h1.aside.trans h2.aside
  have keptOver : x.cond.oilOver = s.cond.oilOver := h1.get .oilOver
  have keptLoop : y.cond.loopOver = s.cond.loopOver := (h2.get .loopOver).trans (h1.get .loopOver)
  rw [keptOver, h1.aside.setup] at h2
  rw [keptLoop, a2.setup, a2.sensor, a2.sensor] at h3
  exact {
    aside := a2.trans h3.aside
    spray := h3.spray.trans (h2.spray.trans h1.spray)
    oilHigh := (h3.get .oilHigh).trans ((h2.get .oilHigh).trans (h1.get .oilHigh))
    oilOver := (h3.get .oilOver).trans (h2.get .oilOver)
    loopOver := h3.get .loopOver
    others := fun k k1 k2 k3 => by rw [h3.get, if_neg k3, h2.get, if_neg k2, h1.get, if_neg k1] }

/-! ## The tank's flags (R104) -/

/-- A flag's new record. -/
def toldRecord (k : CondKind) (kept : Prop) [Decidable kept] (flag : Bool) (v : CondState) : CondState :=
  if kept then v else if flag then .present else if v = .present then (if k.latching then .latched else .clear) else v

theorem toldRecord_noticed (k : CondKind) {kept : Prop} [Decidable kept] (h : ¬ kept) (flag : Bool) (v : CondState) :
    toldRecord k kept flag v = v.noticed k flag := by
  rw [toldRecord, if_neg h]
  rfl

theorem setLow_parts (flag : Bool) (s : State) :
    Aside s (setLow flag s) ∧ (setLow flag s).spray.low = flag ∧ (setLow flag s).spray.empty = s.spray.empty ∧
    ∀ k, (setLow flag s).cond.get k =
      if k = .tankLow then toldRecord .tankLow (flag = s.spray.low) flag s.cond.tankLow else s.cond.get k := by
  by_cases h : flag = s.spray.low
  · rw [setLow, if_pos h]
    refine ⟨Aside.refl s, h.symm, rfl, fun k => ?_⟩
    split
    · next hk =>
      rw [hk, toldRecord, if_pos h]
      rfl
    · rfl
  · rw [setLow, if_neg h]
    let x : State := { s with spray := { s.spray with low := flag } }
    have hx : Aside s x := Aside.water s _
    have hw : (notice .tankLow flag x).spray = x.spray := notice_spray _ _ _
    obtain ⟨-, hlow, hempty⟩ := evaluateFlow_sameTank (notice .tankLow flag x)
    refine ⟨(hx.trans (aside_notice _ _ _)).trans (Aside.water _ _), ?_, ?_, fun k => ?_⟩
    · rw [hlow, hw]
    · rw [hempty, hw]
    · rw [toldRecord_noticed _ h]
      exact notice_get .tankLow k flag x

theorem setEmpty_parts (flag : Bool) (s : State) :
    Aside s (setEmpty flag s) ∧ (setEmpty flag s).spray.empty = flag ∧ (setEmpty flag s).spray.low = s.spray.low ∧
    ∀ k, (setEmpty flag s).cond.get k =
      if k = .tankEmpty then toldRecord .tankEmpty (flag = s.spray.empty) flag s.cond.tankEmpty else s.cond.get k := by
  by_cases h : flag = s.spray.empty
  · rw [setEmpty, if_pos h]
    refine ⟨Aside.refl s, h.symm, rfl, fun k => ?_⟩
    split
    · next hk =>
      rw [hk, toldRecord, if_pos h]
      rfl
    · rfl
  · rw [setEmpty, if_neg h]
    let x : State := { s with spray := { s.spray with empty := flag } }
    have hx : Aside s x := Aside.water s _
    have hw : (notice .tankEmpty flag x).spray = x.spray := notice_spray _ _ _
    obtain ⟨-, hlow, hempty⟩ := formWanted_sameTank (notice .tankEmpty flag x)
    refine ⟨(hx.trans (aside_notice _ _ _)).trans (Aside.water _ _), ?_, ?_, fun k => ?_⟩
    · rw [hempty, hw]
    · rw [hlow, hw]
    · rw [toldRecord_noticed _ h]
      exact notice_get .tankEmpty k flag x

/-- What the tank test leaves. -/
structure TankTested (s x : State) : Prop where
  aside : Aside s x
  low : x.spray.low = tankFlag s.spray.low (s.sensor .tank) s.setup.tankLow s.setup.tankHyst
  empty : x.spray.empty = tankFlag s.spray.empty (s.sensor .tank) s.setup.tankEmpty s.setup.tankHyst
  tankLow : x.cond.tankLow = toldRecord .tankLow (x.spray.low = s.spray.low) x.spray.low s.cond.tankLow
  tankEmpty : x.cond.tankEmpty = toldRecord .tankEmpty (x.spray.empty = s.spray.empty) x.spray.empty s.cond.tankEmpty
  others : ∀ k, k ≠ .tankLow → k ≠ .tankEmpty → x.cond.get k = s.cond.get k

theorem tankTest_tested (s : State) : TankTested s (tankTest s) := by
  unfold tankTest
  dsimp only
  generalize htl : tankFlag s.spray.low (s.sensor .tank) s.setup.tankLow s.setup.tankHyst = low
  generalize hte : tankFlag s.spray.empty (s.sensor .tank) s.setup.tankEmpty s.setup.tankHyst = empty
  obtain ⟨a1, l1, e1, g1⟩ := setLow_parts low s
  generalize setLow low s = x at a1 l1 e1 g1
  obtain ⟨a2, e2, l2, g2⟩ := setEmpty_parts empty x
  generalize setEmpty empty x = y at a2 e2 l2 g2
  have hempty : x.cond.tankEmpty = s.cond.tankEmpty := g1 .tankEmpty
  have hlow := l2.trans l1
  rw [e1, hempty] at g2
  exact {
    aside := a1.trans a2
    low := hlow.trans htl.symm
    empty := e2.trans hte.symm
    tankLow := by
      rw [hlow]
      exact (g2 .tankLow).trans (g1 .tankLow)
    tankEmpty := by
      rw [e2]
      exact g2 .tankEmpty
    others := fun k k1 k2 => by rw [g2, if_neg k2, g1, if_neg k1] }

/-! ## The Arbiter (R123) -/

theorem arbiterWake_parts (s : State) : ∃ (d st : Bool) (c : CondTable) (more : List Report),
    arbiterWake s = { s with
      arb := { s.arb with
        periodTimer := s.startMs 10
        stale := true
        derate := d
        stop := st }
      cond := c
      link := more.foldl LinkPort.post s.link } ∧ ∀ k, k ≠ .supplyStale → c.get k = s.cond.get k := by
  by_cases h : s.arb.stale = true
  · refine ⟨s.arb.derate, s.arb.stop, s.cond, [], (if_pos h).trans ?_, fun _ _ => rfl⟩
    conv_rhs => rw [← h]
    rfl
  · let x : State := { s with arb := { s.arb with
      periodTimer := s.startMs 10
      stale := true } }
    have e : arbiterWake s = notice .supplyStale true x := if_neg h
    obtain ⟨p, d, st, c, more, hn⟩ := aside_notice .supplyStale true x
    have hp : (notice .supplyStale true x).spray = s.spray := notice_spray _ _ _
    rw [hn] at hp
    have hp : p = s.spray := hp
    subst hp
    refine ⟨d, st, c, more, e.trans hn, fun k hk => ?_⟩
    have hg := notice_get .supplyStale k true x
    rw [hn, if_neg hk] at hg
    exact hg

end Sys2Proof.Machine
end

section
/-! What the whole waking leaves, and the statements of the received frames. -/

namespace Sys2Proof.Machine

/-- Waking behind the arms. -/
def wakeBehind (b : State) : State := tankTest (formWanted (loopTest (oilTest (sensorsWake (arbiterWake b)))))

/-- What waking behind the arms leaves. -/
structure WokenBehind (b t : State) : Prop where
  pins : t.pins = b.pins
  setup : t.setup = b.setup
  mc : t.mc = b.mc
  pcu : t.pcu = b.pcu
  drive : t.drive = b.drive
  brush : t.brush = b.brush
  arms : t.arms = b.arms
  recipes : t.recipes = b.recipes
  clock : t.clock = b.clock
  free : t.free = b.free
  pending : t.pending = b.pending
  sensors : t.sensors = (sensorsWake b).sensors
  arb : t.arb = { b.arb with
    periodTimer := b.startMs 10
    stale := true
    derate := t.arb.derate
    stop := t.arb.stop }
  link : ∃ more : List Report, t.link = more.foldl LinkPort.post b.link
  oilHigh : t.cond.oilHigh =
    if b.cond.oilHigh = .clear ∧ b.setup.oilHigh ≤ b.sensor .oilT then .present
    else if b.cond.oilHigh = .present ∧ b.sensor .oilT < b.setup.oilHigh - b.setup.oilHyst then .clear
    else b.cond.oilHigh
  oilOver : t.cond.oilOver =
    if b.cond.oilOver ≠ .present ∧ b.setup.oilOver ≤ b.sensor .oilT then .present
    else if b.cond.oilOver = .present ∧ b.sensor .oilT < b.setup.oilOver - b.setup.oilHyst then .latched
    else b.cond.oilOver
  loopOver : t.cond.loopOver =
    if b.cond.loopOver = .clear ∧
      (b.setup.loopOver ≤ b.sensor .drivePA ∨ b.setup.loopOver ≤ b.sensor .drivePB) then .present
    else if b.cond.loopOver = .present ∧ b.sensor .drivePA < b.setup.loopOver - b.setup.loopHyst ∧
      b.sensor .drivePB < b.setup.loopOver - b.setup.loopHyst then .clear
    else b.cond.loopOver
  low : t.spray.low = tankFlag b.spray.low (b.sensor .tank) b.setup.tankLow b.setup.tankHyst
  empty : t.spray.empty = tankFlag b.spray.empty (b.sensor .tank) b.setup.tankEmpty b.setup.tankHyst
  tankLow : t.cond.tankLow = toldRecord .tankLow (t.spray.low = b.spray.low) t.spray.low b.cond.tankLow
  tankEmpty : t.cond.tankEmpty = toldRecord .tankEmpty (t.spray.empty = b.spray.empty) t.spray.empty b.cond.tankEmpty
  others : ∀ k, k ∉ [CondKind.oilHigh, .oilOver, .loopOver, .tankLow, .tankEmpty, .supplyStale] →
    t.cond.get k = b.cond.get k

theorem wakeBehind_woken {b : State} (hm : b.mc.mode = .settle) : WokenBehind b (wakeBehind b) := by
  obtain ⟨d, st, c, told, harb, hc⟩ := arbiterWake_parts b
  have hs : (sensorsWake (arbiterWake b)).sensors = (sensorsWake b).sensors := by
    rw [harb]
    exact SameRounds.sensorsWake ⟨rfl, rfl, rfl⟩
  have hy : sensorsWake (arbiterWake b) = { arbiterWake b with sensors := (sensorsWake b).sensors } := by
    rw [← hs]
    exact sensorsWake_eq _
  obtain ⟨hchannels, hdust, -⟩ := sensorsWake_keeps b
  unfold wakeBehind
  rw [hy, harb]
  generalize hx : ({ b with
    arb := { b.arb with
      periodTimer := b.startMs 10
      stale := true
      derate := d
      stop := st }
    sensors := (sensorsWake b).sensors
    cond := c
    link := told.foldl LinkPort.post b.link } : State) = x
  have hset : x.setup = b.setup := by rw [← hx]
  have hsensor : ∀ r, x.sensor r = b.sensor r := fun r =>
    sensor_congr (by rw [← hx]; exact hchannels) (by rw [← hx]; exact hdust) hset r
  have hget : ∀ k, k ≠ .supplyStale → x.cond.get k = b.cond.get k := fun k hk => by
    rw [← hx]
    exact hc k hk
  have hspray : x.spray = b.spray := by rw [← hx]
  have monitor := monitorTests_settle (s := x) (by rw [← hx]; exact hm)
  show WokenBehind b (tankTest (formWanted (loopTest (oilTest x))))
  generalize loopTest (oilTest x) = y at monitor
  obtain ⟨-, hlow, hempty⟩ := formWanted_sameTank y
  have hformed : Aside y (formWanted y) := Aside.water y _
  have hcond : (formWanted y).cond = y.cond := rfl
  generalize formWanted y = z at hlow hempty hformed hcond
  have tank := tankTest_tested z
  generalize tankTest z = t at tank
  have hyz := monitor.aside.trans hformed
  have hall := hyz.trans tank.aside
  have kept : ∀ k, k ∉ [CondKind.oilHigh, .oilOver, .loopOver, .tankLow, .tankEmpty, .supplyStale] →
      t.cond.get k = b.cond.get k := fun k hk => by
    simp only [List.mem_cons, List.not_mem_nil, or_false, not_or] at hk
    obtain ⟨k1, k2, k3, k4, k5, k6⟩ := hk
    rw [tank.others k k4 k5, hcond, monitor.others k k1 k2 k3, hget k k6]
  have tankLow : z.cond.tankLow = b.cond.tankLow := by
    rw [hcond]
    exact (monitor.others .tankLow nofun nofun nofun).trans (hget .tankLow nofun)
  have tankEmpty : z.cond.tankEmpty = b.cond.tankEmpty := by
    rw [hcond]
    exact (monitor.others .tankEmpty nofun nofun nofun).trans (hget .tankEmpty nofun)
  have high : x.cond.oilHigh = b.cond.oilHigh := hget .oilHigh nofun
  have above : x.cond.oilOver = b.cond.oilOver := hget .oilOver nofun
  have loop : x.cond.loopOver = b.cond.loopOver := hget .loopOver nofun
  have hlow' : z.spray.low = b.spray.low := by rw [hlow, monitor.spray, hspray]
  have hempty' : z.spray.empty = b.spray.empty := by rw [hempty, monitor.spray, hspray]
  have hm1 := monitor.oilHigh
  have hm2 := monitor.oilOver
  have hm3 := monitor.loopOver
  rw [high, hset, hsensor] at hm1
  rw [above, hset, hsensor] at hm2
  rw [loop, hset, hsensor, hsensor] at hm3
  have ht1 := tank.low
  have ht2 := tank.empty
  have ht3 := tank.tankLow
  have ht4 := tank.tankEmpty
  rw [hlow', hyz.setup, hset, hyz.sensor, hsensor] at ht1
  rw [hempty', hyz.setup, hset, hyz.sensor, hsensor] at ht2
  rw [hlow', tankLow] at ht3
  rw [hempty', tankEmpty] at ht4
  have after1 : t.cond.oilHigh = y.cond.oilHigh := (tank.others .oilHigh nofun nofun).trans (congrArg CondTable.oilHigh hcond)
  have after2 : t.cond.oilOver = y.cond.oilOver := (tank.others .oilOver nofun nofun).trans (congrArg CondTable.oilOver hcond)
  have after3 : t.cond.loopOver = y.cond.loopOver := (tank.others .loopOver nofun nofun).trans (congrArg CondTable.loopOver hcond)
  obtain ⟨p, d', st', c', more, e⟩ := hall
  exact {
    pins := by rw [e, ← hx]
    setup := by rw [e, ← hx]
    mc := by rw [e, ← hx]
    pcu := by rw [e, ← hx]
    drive := by rw [e, ← hx]
    brush := by rw [e, ← hx]
    arms := by rw [e, ← hx]
    recipes := by rw [e, ← hx]
    clock := by rw [e, ← hx]
    free := by rw [e, ← hx]
    pending := by rw [e, ← hx]
    sensors := by rw [e, ← hx]
    arb := by rw [e, ← hx]
    link := ⟨told ++ more, by rw [e, ← hx, List.foldl_append]⟩
    oilHigh := after1.trans hm1
    oilOver := after2.trans hm2
    loopOver := after3.trans hm3
    low := ht1
    empty := ht2
    tankLow := ht3
    tankEmpty := ht4
    others := kept }

/-! ## The whole waking -/

/-- Waking as far as the arms. -/
def wakeArms (s : State) : State := armsWake (wakeAnnounced s)

/-- What the arms' waking keeps of the state. -/
structure WokenArms (s b : State) : Prop where
  mc : b.mc = ⟨.settle, .park, s.startMs (if s.pins.settleStrap then 1000 else 100), none⟩
  pcu : b.pcu = s.pcu.restarted s
  drive : b.drive = wokenDrive s
  arb : b.arb = { s.arb with
    derate := b.arb.derate
    stop := b.arb.stop }
  pins : b.pins = s.pins
  setup : b.setup = s.setup
  recipes : b.recipes = s.recipes
  sensors : b.sensors = s.sensors
  clock : b.clock = s.clock
  free : b.free = s.free
  pending : b.pending = s.pending
  holds : ∀ u, (b.armOf u).holds = (s.armOf u).holds
  segments : ∀ u, (b.brushOf u).index = 0 ∧ (b.brushOf u).reselect = (s.brushOf u).reselect
  low : b.spray.low = s.spray.low
  empty : b.spray.empty = s.spray.empty
  records : ∀ k, ¬ plannedKind k → k ≠ .overspeed → (∀ u, k ≠ .switch u) → b.cond.get k = s.cond.get k
  link : ∃ more : List Report, b.link = (Report.mode .settle .park :: more).foldl LinkPort.post s.link

theorem wakeArms_woken (s : State) : WokenArms s (wakeArms s) := by
  obtain ⟨c, told, e, hc⟩ := wakeAnnounced_parts s
  have hm : ¬ (wakeAnnounced s).mc.mode.moves := by
    rw [e]
    exact id
  have plain : Plain (Posted (wakeAnnounced s) (wakeAnnounced s).link) := Posted.plain hm
  have posted : Posted (wakeAnnounced s) (wakeAnnounced s).link (wakeArms s) := plain.armsWake (Posted.refl _)
  have kept : KeptAtWaking (wakeAnnounced s) (wakeArms s) := (waking_kept (wakeAnnounced s)).armsWake
    ⟨fun _ => rfl, ⟨rfl, rfl, rfl⟩, fun _ => ⟨rfl, rfl⟩⟩
  have records : ∀ k, ¬ plannedKind k → k ≠ .overspeed → (∀ u, k ≠ .switch u) →
      (wakeArms s).cond.get k = s.cond.get k := fun k h1 h2 h3 => by
    refine ((waking_sameRecord h1 h2 h3 ((wakeAnnounced s).cond.get k)).armsWake rfl).trans ?_
    rw [e]
    exact hc k h2
  obtain ⟨around, more, hlink⟩ := posted
  obtain ⟨holds, ⟨-, hlow, hempty⟩, segments⟩ := kept
  generalize wakeArms s = b at *
  rw [e] at around hlink holds hlow hempty segments
  exact {
    mc := around.mc
    pcu := around.pcu
    drive := around.drive
    arb := around.arb
    pins := around.pins
    setup := around.setup
    recipes := around.recipes
    sensors := around.sensors
    clock := around.clock
    free := around.free
    pending := around.pending
    holds := holds
    segments := fun u => by
      have fresh : ((brushWake s).brushOf u).index = 0 ∧ ((brushWake s).brushOf u).reselect = (s.brushOf u).reselect := by
        rw [brushWake_segments]
        exact ⟨rfl, rfl⟩
      obtain ⟨hi, hr⟩ := segments u
      exact ⟨hi.trans fresh.1, hr.trans fresh.2⟩
    low := hlow
    empty := hempty
    records := records
    link := ⟨told ++ more, by rw [hlink, ← List.cons_append, List.foldl_append]⟩ }

theorem wake_eq (s : State) : wake s = wakeBehind (wakeArms s) := rfl

theorem startMs_some (s : State) (n : Int) : s.startMs n = some (s.clock + n.toNat * 1000) := rfl

/-- What waking leaves (R4). -/
theorem wake_woken (s : State) : Woken s (wake s) ∧ (wake s).pins = s.pins ∧
    ∃ more : List Report, (wake s).link = (Report.mode .settle .park :: more).foldl LinkPort.post s.link := by
  have arms := wakeArms_woken s
  have behind := wakeBehind_woken (b := wakeArms s) (by rw [arms.mc])
  rw [wake_eq]
  generalize wakeArms s = b at *
  generalize wakeBehind b = t at *
  have hsensors : (sensorsWake b).sensors = (sensorsWake s).sensors :=
    SameRounds.sensorsWake ⟨arms.sensors, arms.setup, arms.clock⟩
  have hsensor : ∀ r, b.sensor r = s.sensor r := fun r =>
    sensor_congr (by rw [arms.sensors]) (by rw [arms.sensors]) arms.setup r
  obtain ⟨hchannels, -, hround⟩ := sensorsWake_keeps s
  have high : b.cond.oilHigh = s.cond.oilHigh := arms.records .oilHigh id nofun nofun
  have above : b.cond.oilOver = s.cond.oilOver := arms.records .oilOver id nofun nofun
  have loop : b.cond.loopOver = s.cond.loopOver := arms.records .loopOver id nofun nofun
  have tankLow : b.cond.tankLow = s.cond.tankLow := arms.records .tankLow id nofun nofun
  have tankEmpty : b.cond.tankEmpty = s.cond.tankEmpty := arms.records .tankEmpty id nofun nofun
  refine ⟨?_, behind.pins.trans arms.pins, ?_⟩
  · exact {
      mc := behind.mc.trans (arms.mc.trans (by cases s.pins.settleStrap <;> rfl))
      pcu := behind.pcu.trans arms.pcu
      drive := behind.drive.trans arms.drive
      segments := fun u => by
        rw [State.brushOf, behind.brush]
        exact arms.segments u
      arb := by
        have h := behind.arb
        rw [arms.arb] at h
        exact h.trans (by rw [startMs_some, arms.clock]; rfl)
      roundTimer := by
        rw [behind.sensors, hsensors, hround, startMs_some]
      channels := by rw [behind.sensors, hsensors, hchannels]
      round := by rw [behind.sensors, hsensors]
      holds := fun u => by
        rw [State.armOf, behind.arms]
        exact arms.holds u
      oilHigh := by rw [behind.oilHigh, high, arms.setup, hsensor]
      oilOver := by rw [behind.oilOver, above, arms.setup, hsensor]
      loopOver := by rw [behind.loopOver, loop, arms.setup, hsensor, hsensor]
      low := by
        rw [behind.low, arms.low, arms.setup, hsensor]
        rfl
      empty := by
        rw [behind.empty, arms.empty, arms.setup, hsensor]
        rfl
      tankLow := by
        rw [behind.tankLow, arms.low, tankLow]
        rfl
      tankEmpty := by
        rw [behind.tankEmpty, arms.empty, tankEmpty]
        rfl
      setup := behind.setup.trans arms.setup
      recipes := behind.recipes.trans arms.recipes
      clock := behind.clock.trans arms.clock
      free := behind.free.trans arms.free
      pending := behind.pending.trans arms.pending }
  · obtain ⟨more, h⟩ := arms.link
    obtain ⟨after, h'⟩ := behind.link
    exact ⟨more ++ after, by rw [h', h, ← List.foldl_append, List.cons_append]⟩

end Sys2Proof.Machine
end

section
/-! Received frames, and what they wake (R4, R166, R167). -/

namespace Sys2Proof.Machine

/-- A waking with other levels at the pins and another link port. -/
theorem wake_woken_with (s : State) {p : Pins} (hp : p.settleStrap = s.pins.settleStrap) (l : LinkPort) :
    let w := wake { s with
      pins := p
      link := l }
    Woken s w ∧ w.pins = p ∧ ∃ more : List Report, w.link = (Report.mode .settle .park :: more).foldl LinkPort.post l := by
  intro w
  obtain ⟨h, hpins, hlink⟩ := wake_woken { s with
    pins := p
    link := l }
  have hw : w = wake { s with
    pins := p
    link := l } := rfl
  rw [← hw] at h hpins hlink
  clear_value w
  refine ⟨?_, hpins, hlink⟩
  exact {
    mc := by
      rw [← hp]
      exact h.mc
    pcu := h.pcu
    drive := h.drive
    segments := h.segments
    arb := h.arb
    roundTimer := h.roundTimer
    channels := h.channels
    round := h.round.trans (SameRounds.sensorsWake ⟨rfl, rfl, rfl⟩)
    holds := h.holds
    oilHigh := h.oilHigh
    oilOver := h.oilOver
    loopOver := h.loopOver
    low := h.low
    empty := h.empty
    tankLow := h.tankLow
    tankEmpty := h.tankEmpty
    setup := h.setup
    recipes := h.recipes
    clock := h.clock
    free := h.free
    pending := h.pending }

theorem Woken.sent {s w : State} (h : Woken s w) : Woken s w.sent :=
  { h with }

/-! ## Placing -/

theorem LinkPort.place_eq (l : LinkPort) (k t : Byte) (b : List Byte) :
    l.place k t b = if l.rx.length < 2 then { l with rx := l.rx ++ [⟨k, t, b, none⟩], receiver := .waitSync }
      else { l with errors := Nat.min 65535 (l.errors + 1), receiver := .waitSync } := by
  split
  · next h => exact LinkPort.place_free h k t b
  · next h => exact LinkPort.place_full h k t b

theorem requestArrived_asleep {s : State} (hm : s.mc.mode = .standby) (k t : Byte) (b : List Byte) :
    requestArrived k t b s = wake { s with link := s.link.place k t b } := if_pos hm

/-! ## A request whose turn has not come -/

section
variable {s : State} {k t : Byte} {b : List Byte} {act : State → State × List Byte}

/-- The request arrives, and another waits untaken or both places are occupied. -/
theorem takeRequest_waits (hn : s.link.untaken ≠ some ⟨k, t, b, none⟩)
    (h : s.link.untaken ≠ none ∨ 2 ≤ s.link.rx.length) : takeRequest k t b act s = requestArrived k t b s := by
  have hc : ¬ (s.link.untaken.isNone ∧ s.link.rx.length < 2) := by
    rintro ⟨h1, h2⟩
    exact h.elim (fun h => h (Option.isNone_iff_eq_none.1 h1)) fun h => absurd h2 (by omega)
  rw [takeRequest, if_neg (mt LinkPort.inTurn_iff.1 hn)]
  exact if_neg hc

/-- The request arrives with a free place and no other untaken. -/
theorem takeRequest_arrives (hn : s.link.untaken ≠ some ⟨k, t, b, none⟩) (h1 : s.link.untaken = none)
    (h2 : s.link.rx.length < 2) : takeRequest k t b act s = judge act (requestArrived k t b s) := by
  rw [takeRequest, if_neg (mt LinkPort.inTurn_iff.1 hn)]
  exact if_pos ⟨by rw [h1]; rfl, h2⟩

end

/-- What a request's command does, for the requests of Table 11-4 and for an unknown KIND. -/
theorem exec_taken {c : Instr} {k t : Byte} {b : List Byte}
    (h : request? c = some (k, t, b) ∨ (c = .unknownKind k t b ∧ (k.toNat = 0 ∨ 0x18 < k.toNat))) :
    ∃ act, (request? c = none → act = answer .unknownKind) ∧ (request? c ≠ none → Judges k b act) ∧
      ∀ s, exec c s = finish (takeRequest k t b act s) := by
  rcases h with h | ⟨rfl, hk⟩
  · obtain ⟨act, checks, hexec⟩ := exec_request h
    refine ⟨act, fun hn => ?_, fun _ => checks, hexec⟩
    rw [h] at hn
    cases hn
  · exact ⟨answer .unknownKind, fun _ => rfl, fun hn => absurd rfl hn, exec_unknownKind hk t b⟩

/-- Settles O18: each event of the line by its frame, and each request by its place. -/
theorem receivedFrameTakesAPlaceOrIsDiscarded : Obligations.ReceivedFrameTakesAPlaceOrIsDiscarded := by
  refine ⟨fun s kind tag body crc => ?_, fun s b => ?_, fun c s kind tag body hc hn hm => ?_, fun c s kind tag body hc hn hm => ?_⟩
  · intro raised arrived good
    have harrived : s.link.place kind tag body = arrived := LinkPort.place_eq _ _ _ _
    have hgood : (56 < body.length ∨ crc ≠ crc16 (checkedBytes kind tag body)) ↔ ¬ good := by
      show _ ↔ ¬ (body.length ≤ 56 ∧ crc = crc16 (checkedBytes kind tag body))
      rw [not_and_or, not_le]
    have hexec : exec (.frameReceived kind tag body crc) s = finish (frameArrived kind tag body crc s) := rfl
    have hplaced : good → exec (.frameReceived kind tag body crc) s = finish (requestArrived kind tag body s) := fun hg =>
      hexec.trans (congrArg finish (if_neg fun h => hgood.1 h hg))
    refine ⟨fun hg => hexec.trans (congrArg finish (if_pos (hgood.2 hg))), fun hg hm => ?_, fun hg hm => ?_⟩
    · rw [hplaced hg, requestArrived_awake hm, harrived]
      rfl
    · obtain ⟨woken, hpins, more, hlink⟩ := wake_woken_with s (p := s.pins) rfl arrived
      rw [hplaced hg, requestArrived_asleep hm, harrived]
      generalize wake { s with link := arrived } = w at *
      exact ⟨w.sent, more, rfl, woken.sent, hpins, congrArg LinkPort.transmit hlink⟩
  · intro raised
    refine ⟨rfl, fun h => congrArg finish (if_pos h), fun h => congrArg finish (if_neg (not_lt.2 h))⟩
  · obtain ⟨act, -, -, hexec⟩ := exec_taken hc
    refine ⟨fun hu hl => ?_, fun hl => ?_⟩
    · rw [hexec, takeRequest_waits hn (.inl hu), requestArrived_awake hm, LinkPort.place_free hl]
      rfl
    · rw [hexec, takeRequest_waits hn (.inr hl), requestArrived_awake hm, LinkPort.place_full (not_lt.2 hl)]
      rfl
  · intro placed
    have hplaced : s.link.place kind tag body = placed := LinkPort.place_eq _ _ _ _
    obtain ⟨act, hunknown, hjudges, hexec⟩ := exec_taken hc
    obtain ⟨woken, hpins, more, hlink⟩ := wake_woken_with s (p := s.pins) rfl placed
    have harrived : requestArrived kind tag body s = wake { s with link := placed } := by
      rw [requestArrived_asleep hm, hplaced]
    generalize wake { s with link := placed } = w at *
    have hsettle : w.mc.mode = .settle := by rw [woken.mc]
    have judged : s.link.untaken = none → s.link.rx.length < 2 → ∀ {x : State} {reply : List Byte},
        act w = (x, reply) → exec c s = .next (x.replied reply).sent := fun hu hl x reply hact => by
      rw [hexec, takeRequest_arrives hn hu hl, harrived, judge, hact]
      rfl
    refine ⟨w, more, woken, hpins, hlink, fun h => ?_, fun hu hl => ⟨fun hr => ?_, fun hr hf => ?_, fun hr hf hk => ?_,
      fun hr hf hk => ?_⟩⟩
    · rw [hexec, takeRequest_waits hn h, harrived]
      rfl
    · exact judged hu hl (by rw [hunknown hr]; rfl)
    · exact judged hu hl ((hjudges hr).length hf w)
    · exact judged hu hl ((hjudges hr).settle hf hk w hsettle)
    · exact judged hu hl ((hjudges hr).status hf hk w)

end Sys2Proof.Machine
end

section
/-! The arms at waking, and the WAKE line (R4, R88, R91). -/

namespace Sys2Proof.Machine

/-! ## What one unit's waking changes -/

/-- A unit in FAULT where nothing waits and nothing moves. -/
theorem withoutUnit_rests {u : BrushUnit} {s : State} (hq : s.arms.queue = []) (ha : s.arms.action = none) :
    withoutUnit u s = s := by
  have ho : ownsAction s u = false := by simp [ownsAction, ha]
  rw [withoutUnit, ho]
  show { s with arms := { s.arms with queue := s.arms.queue.filter _ } } = s
  rw [hq, List.filter_nil, ← hq]

theorem faultTold_arms {u : BrushUnit} {s : State} (hq : s.arms.queue = []) (ha : s.arms.action = none) :
    (faultTold u s).arms = (s.putArm u (fallen (s.armOf u))).arms := by
  have key : ((setSpin u .off (s.putArm u { s.armOf u with spinDownTimer := none })).putArm u
      (fallen (s.armOf u))).arms = (s.putArm u (fallen (s.armOf u))).arms := by
    rw [State.putArm, (setSpin_same u .off _).1]
    cases u <;> rfl
  unfold faultTold
  rw [withoutUnit_rests hq ha]
  dsimp only
  split
  · exact key
  · exact key

theorem enterFault_arms {u : BrushUnit} {s : State} (hq : s.arms.queue = []) (ha : s.arms.action = none) :
    ∃ r, (enterFault u s).arms = { (s.putArm u (fallen (s.armOf u))).arms with
      demand := 0
      demandRead := r } := by
  have hn : (ownsAction s u || hasEntry s u) = false := by simp [ownsAction, hasEntry, hq, ha]
  have ht : (faultTold u s).arms = _ := faultTold_arms hq ha
  obtain ⟨r, hr⟩ := postArmsDemand_rests (s := faultTold u s) (by rw [ht]; exact hq) (by rw [ht]; exact ha)
  refine ⟨r, ?_⟩
  rw [enterFault_eq, hn, ← ht]
  exact congrArg State.arms hr

/-- A unit's record with its posture read. -/
def ArmUnit.read (u : BrushUnit) (w : Switches) (a : ArmUnit) : ArmUnit :=
  { a with
    spin := .off
    reach := w.reach u
    height := w.height }

theorem readUnit_arms (u : BrushUnit) (s : State) :
    (readSwitches u (setSpin u .off s)).arms = (s.putArm u ((s.armOf u).read u (s.pins.switches.get u))).arms := by
  have hp : (setSpin u .off s).pins = s.pins :=
    ((inner_sameShell s).loose.plain.setSpin (SameShell.refl s)).pins
  unfold readSwitches
  dsimp only
  rw [hp, (setHeight_same _ _ _).1]
  generalize s.pins.switches.get u = w
  have h1 : (setSpin u .off s).arms = _ := (setSpin_same u .off s).1
  have h2 : (setReach u (w.reach u) (setSpin u .off s)).arms = _ := (setReach_same u (w.reach u) (setSpin u .off s)).1
  simp only [State.putArm, State.armOf] at h1 h2 ⊢
  simp only [h2, h1, PerUnit.get_set, if_true, ite_self]
  cases u <;> rfl

/-- What the waking leaves of a unit. -/
structure ArmAwake (u : BrushUnit) (w : Switches) (x : State) : Prop where
  spin : (x.armOf u).spin = .off
  reach : (x.armOf u).reach = w.reach u
  height : (x.armOf u).height = w.height
  spinDown : (x.armOf u).spinDownTimer = none
  release : (x.armOf u).releaseTimer = none
  faulty : pairsClear w = false → (x.armOf u).activity = .fault ∧ x.cond.get (.switch u) = .present
  fit : pairsClear w = true → (x.armOf u).activity =
    if x.cond.get (.armTimeout u) = .clear ∧ x.cond.get (.switch u) = .clear then .idle else .fault

/-- What the waking of one unit leaves of the rest. -/
structure ArmsBeside (u : BrushUnit) (s x : State) : Prop where
  queue : x.arms.queue = s.arms.queue
  action : x.arms.action = s.arms.action
  lastEnd : x.arms.lastEnd = s.arms.lastEnd
  spacing : x.arms.spacingTimer = s.arms.spacingTimer
  mask : x.arms.unitsMask = s.arms.unitsMask
  demand : s.arms.demand = 0 → x.arms.demand = 0
  others : ∀ v, v ≠ u → x.armOf v = s.armOf v
  switches : ∀ v, v ≠ u → x.cond.get (.switch v) = s.cond.get (.switch v)
  timeouts : ∀ v, x.cond.get (.armTimeout v) = s.cond.get (.armTimeout v)
  pins : x.pins = s.pins

theorem armWakeUnit_pins (u : BrushUnit) (s : State) : (armWakeUnit u s).pins = s.pins :=
  ((inner_sameShell s).loose.plain.armWakeUnit (SameShell.refl s)).pins

/-- The records of a unit's switches and of the timeouts, but for one switch kind. -/
structure RecordsBeside (u : BrushUnit) (s x : State) : Prop where
  switches : ∀ v, v ≠ u → x.cond.get (.switch v) = s.cond.get (.switch v)
  timeouts : ∀ v, x.cond.get (.armTimeout v) = s.cond.get (.armTimeout v)

theorem RecordsBeside.trans {u : BrushUnit} {a b c : State} (h : RecordsBeside u a b) (k : RecordsBeside u b c) :
    RecordsBeside u a c :=
  ⟨fun v hv => (k.switches v hv).trans (h.switches v hv), fun v => (k.timeouts v).trans (h.timeouts v)⟩

theorem recordsBeside_notice (u : BrushUnit) (p : Bool) (s : State) : RecordsBeside u s (notice (.switch u) p s) where
  switches := fun v hv => by rw [notice_get, if_neg fun h => hv (CondKind.switch.inj h)]
  timeouts := fun v => by rw [notice_get, if_neg nofun]

theorem recordsBeside_read (u : BrushUnit) (s : State) : RecordsBeside u s (readSwitches u (setSpin u .off s)) where
  switches := fun v _ => (planned_sameRecord (k := .switch v) id nofun _).readSwitches
    ((planned_sameRecord (k := .switch v) id nofun _).setSpin rfl)
  timeouts := fun v => (planned_sameRecord (k := .armTimeout v) id nofun _).readSwitches
    ((planned_sameRecord (k := .armTimeout v) id nofun _).setSpin rfl)

theorem recordsBeside_enterFault (u : BrushUnit) (s : State) : RecordsBeside u s (enterFault u s) where
  switches := fun v _ => (planned_sameRecord (k := .switch v) id nofun _).enterFault rfl
  timeouts := fun v => (planned_sameRecord (k := .armTimeout v) id nofun _).enterFault rfl

/-- A unit's record written, with the ARMS demand as it was or 0. -/
theorem armsBeside_of {u : BrushUnit} {s x : State} {a : ArmUnit} {d : Int} {r : Bool}
    (h : x.arms = { (s.putArm u a).arms with
      demand := d
      demandRead := r }) (hd : s.arms.demand = 0 → d = 0) (hc : RecordsBeside u s x) (hp : x.pins = s.pins) :
    x.armOf u = a ∧ ArmsBeside u s x := by
  refine ⟨by rw [State.armOf, h]; exact State.armOf_putArm s u a, ?_⟩
  exact {
    queue := by rw [h]; rfl
    action := by rw [h]; rfl
    lastEnd := by rw [h]; rfl
    spacing := by rw [h]; rfl
    mask := by rw [h]; rfl
    demand := fun hs => by rw [h]; exact hd hs
    others := fun v hv => by rw [State.armOf, h]; exact State.armOf_putArm_other s a hv
    switches := hc.switches
    timeouts := hc.timeouts
    pins := hp }

/-- The waking of a unit where nothing waits and nothing moves. -/
theorem armWakeUnit_awake {u : BrushUnit} {s : State} (hq : s.arms.queue = []) (ha : s.arms.action = none)
    (h1 : (s.armOf u).spinDownTimer = none) (h2 : (s.armOf u).releaseTimer = none) :
    ArmAwake u (s.pins.switches.get u) (armWakeUnit u s) ∧ ArmsBeside u s (armWakeUnit u s) := by
  have hpins := armWakeUnit_pins u s
  have harms := readUnit_arms u s
  have hrecords := recordsBeside_read u s
  have hsw : (readSwitches u (setSpin u .off s)).pins = s.pins :=
    (readSwitches_pins u _).trans ((inner_sameShell s).loose.plain.setSpin (SameShell.refl s)).pins
  have hdef : armWakeUnit u s = if !pairsClear ((readSwitches u (setSpin u .off s)).pins.switches.get u)
      then switchFault u (readSwitches u (setSpin u .off s))
      else setActivity u (if (notice (.switch u) false (readSwitches u (setSpin u .off s))).cond.armTimeout.get u = .clear ∧
          (notice (.switch u) false (readSwitches u (setSpin u .off s))).cond.switch.get u = .clear then .idle else .fault)
        (notice (.switch u) false (readSwitches u (setSpin u .off s))) := rfl
  rw [hsw] at hdef
  generalize readSwitches u (setSpin u .off s) = x at hdef harms hrecords
  generalize armWakeUnit u s = t at hdef hpins
  generalize s.pins.switches.get u = w at *
  have hread : x.armOf u = (s.armOf u).read u w := by
    rw [State.armOf, harms]
    exact State.armOf_putArm s u _
  by_cases hw : pairsClear w = true
  · rw [hw] at hdef
    have hrecords' := hrecords.trans (recordsBeside_notice u false x)
    have hna : (notice (.switch u) false x).arms = x.arms := notice_arms _ _ _
    generalize notice (.switch u) false x = n at *
    have hdef : t = setActivity u (if n.cond.get (.armTimeout u) = .clear ∧ n.cond.get (.switch u) = .clear then .idle
      else .fault) n := hdef
    have hcond : t.cond = n.cond := by rw [hdef]; rfl
    rw [← hcond] at hdef
    generalize hact : (if t.cond.get (.armTimeout u) = .clear ∧ t.cond.get (.switch u) = .clear then Activity.idle
      else .fault) = act at hdef
    have hna : n.arms = (s.putArm u ((s.armOf u).read u w)).arms := hna.trans harms
    have hnu : n.armOf u = (s.armOf u).read u w := by
      rw [State.armOf, hna]
      exact State.armOf_putArm s u _
    have ht : t.arms = { (s.putArm u { (s.armOf u).read u w with activity := act }).arms with
        demand := s.arms.demand
        demandRead := s.arms.demandRead } := by
      rw [hdef, setActivity, hnu, State.putArm, hna]
      cases u <;> rfl
    obtain ⟨hu, beside⟩ := armsBeside_of ht id ⟨fun v hv => by rw [hcond]; exact hrecords'.switches v hv,
      fun v => by rw [hcond]; exact hrecords'.timeouts v⟩ hpins
    refine ⟨?_, beside⟩
    exact {
      spin := by rw [hu]; rfl
      reach := by rw [hu]; rfl
      height := by rw [hu]; rfl
      spinDown := by rw [hu]; exact h1
      release := by rw [hu]; exact h2
      faulty := fun h => by rw [hw] at h; cases h
      fit := fun _ => by rw [hu, hact] }
  · rw [Bool.not_eq_true] at hw
    rw [hw] at hdef
    have hdef : t = enterFault u (notice (.switch u) true x) := hdef
    have hrecords' := hrecords.trans (recordsBeside_notice u true x)
    have hna : (notice (.switch u) true x).arms = x.arms := notice_arms _ _ _
    have hpresent : (notice (.switch u) true x).cond.get (.switch u) = .present := by
      rw [notice_get, if_pos rfl]
      rfl
    generalize notice (.switch u) true x = n at *
    have hna : n.arms = (s.putArm u ((s.armOf u).read u w)).arms := hna.trans harms
    have hnu : n.armOf u = (s.armOf u).read u w := by
      rw [State.armOf, hna]
      exact State.armOf_putArm s u _
    obtain ⟨r, hr⟩ := enterFault_arms (u := u) (s := n) (by rw [hna]; exact hq) (by rw [hna]; exact ha)
    have ht : t.arms = { (s.putArm u (fallen ((s.armOf u).read u w))).arms with
        demand := 0
        demandRead := r } := by
      rw [hdef, hr, hnu, State.putArm, hna]
      cases u <;> rfl
    have hfault : RecordsBeside u n t := by
      rw [hdef]
      exact recordsBeside_enterFault u n
    have hstill : t.cond.get (.switch u) = .present := by
      rw [hdef]
      exact (planned_sameRecord (k := .switch u) id nofun .present).enterFault hpresent
    obtain ⟨hu, beside⟩ := armsBeside_of ht (fun _ => rfl) (hrecords'.trans hfault) hpins
    refine ⟨?_, beside⟩
    exact {
      spin := by rw [hu]; rfl
      reach := by rw [hu]; rfl
      height := by rw [hu]; rfl
      spinDown := by rw [hu]; rfl
      release := by rw [hu]; exact h2
      faulty := fun _ => ⟨by rw [hu]; rfl, hstill⟩
      fit := fun h => by rw [hw] at h; cases h }

/-! ## The three units -/

theorem ArmAwake.beside {u v : BrushUnit} {w : Switches} {s x : State} (h : ArmAwake u w s) (b : ArmsBeside v s x)
    (hv : u ≠ v) : ArmAwake u w x := by
  have hu := b.others u hv
  exact {
    spin := by rw [hu]; exact h.spin
    reach := by rw [hu]; exact h.reach
    height := by rw [hu]; exact h.height
    spinDown := by rw [hu]; exact h.spinDown
    release := by rw [hu]; exact h.release
    faulty := fun hw => by rw [hu, b.switches u hv]; exact h.faulty hw
    fit := fun hw => by rw [hu, b.switches u hv, b.timeouts]; exact h.fit hw }

/-- What the waking leaves of the manifold. -/
structure ManifoldAwake (s x : State) : Prop where
  queue : x.arms.queue = []
  action : x.arms.action = none
  lastEnd : x.arms.lastEnd = s.arms.lastEnd
  spacing : x.arms.spacingTimer = none
  mask : x.arms.unitsMask = s.arms.unitsMask
  demand : s.arms.demand = 0 → x.arms.demand = 0

theorem ManifoldAwake.beside {u : BrushUnit} {s y x : State} (h : ManifoldAwake s y) (b : ArmsBeside u y x) :
    ManifoldAwake s x where
  queue := b.queue.trans h.queue
  action := b.action.trans h.action
  lastEnd := b.lastEnd.trans h.lastEnd
  spacing := b.spacing.trans h.spacing
  mask := b.mask.trans h.mask
  demand := fun hs => b.demand (h.demand hs)

/-- The waking of the three units, one after the other. -/
theorem unitsWake_awake {s : State} (hq : s.arms.queue = []) (ha : s.arms.action = none) :
    (∀ u, ArmAwake u (s.pins.switches.get u) (forUnits armWakeUnit (stopArmTimers s))) ∧
    ManifoldAwake s (forUnits armWakeUnit (stopArmTimers s)) := by
  have hz : ManifoldAwake s (stopArmTimers s) := ⟨hq, ha, rfl, rfl, rfl, id⟩
  have timers : ∀ u, ((stopArmTimers s).armOf u).spinDownTimer = none ∧ ((stopArmTimers s).armOf u).releaseTimer = none :=
    fun u => by cases u <;> exact ⟨rfl, rfl⟩
  have hpins : (stopArmTimers s).pins = s.pins := rfl
  generalize stopArmTimers s = z at *
  obtain ⟨awakeL, besideL⟩ := armWakeUnit_awake (u := .l) hz.queue hz.action (timers .l).1 (timers .l).2
  have hl := hz.beside besideL
  generalize hlx : armWakeUnit .l z = x at awakeL besideL hl
  obtain ⟨awakeR, besideR⟩ := armWakeUnit_awake (u := .r) hl.queue hl.action
    (by rw [besideL.others .r (by decide)]; exact (timers .r).1) (by rw [besideL.others .r (by decide)]; exact (timers .r).2)
  have hr := hl.beside besideR
  generalize hrx : armWakeUnit .r x = y at awakeR besideR hr
  obtain ⟨awakeM, besideM⟩ := armWakeUnit_awake (u := .m) hr.queue hr.action
    (by rw [besideR.others .m (by decide), besideL.others .m (by decide)]; exact (timers .m).1)
    (by rw [besideR.others .m (by decide), besideL.others .m (by decide)]; exact (timers .m).2)
  have hm := hr.beside besideM
  have hend : forUnits armWakeUnit z = armWakeUnit .m y := by rw [forUnits, hlx, hrx]
  rw [hend]
  rw [hpins] at awakeL
  rw [besideL.pins, hpins] at awakeR
  rw [besideR.pins, besideL.pins, hpins] at awakeM
  refine ⟨fun u => ?_, hm⟩
  cases u with
  | l => exact (awakeL.beside besideR (by decide)).beside besideM (by decide)
  | r => exact awakeR.beside besideM (by decide)
  | m => exact awakeM

end Sys2Proof.Machine
end

section
/-! The statement of the WAKE line. -/

namespace Sys2Proof.Machine

theorem ArmAwake.formed {u : BrushUnit} {w : Switches} {b : Bool} {y x : State} (h : ArmAwake u w y)
    (hu : x.armOf u = (y.armOf u).formed u b) (hc : x.cond = y.cond) : ArmAwake u w x where
  spin := by rw [hu]; exact h.spin
  reach := by rw [hu]; exact h.reach
  height := by rw [hu]; exact h.height
  spinDown := by rw [hu]; exact h.spinDown
  release := by rw [hu]; exact h.release
  faulty := fun hw => by rw [hu, hc]; exact h.faulty hw
  fit := fun hw => by rw [hu, hc]; exact h.fit hw

/-- The arms' waking in SETTLE. -/
theorem armsWake_awake {s : State} (hm : s.mc.mode = .settle) (hq : s.arms.queue = []) (ha : s.arms.action = none) :
    (∀ u, ArmAwake u (s.pins.switches.get u) (armsWake s)) ∧ ManifoldAwake s (armsWake s) := by
  obtain ⟨awake, manifold⟩ := unitsWake_awake hq ha
  have plain : Plain (Posted s s.link) := Posted.plain (by rw [hm]; exact id)
  have posted : Posted s s.link (forUnits armWakeUnit (stopArmTimers s)) :=
    forUnits_keeps (f := armWakeUnit) (fun _ _ hx => plain.armWakeUnit hx) (plain.anyArms s _ (Posted.refl s))
  have hdef : armsWake s = armsAnnounced (forUnits armWakeUnit (stopArmTimers s)) := rfl
  rw [hdef]
  generalize forUnits armWakeUnit (stopArmTimers s) = y at *
  have hp : y.mc.mode.plans = false := by
    rw [posted.1.mc, hm]
    rfl
  obtain ⟨e, formed⟩ := armsAnnounced_rests hp
  generalize armsAnnounced y = x at *
  have hc : x.cond = y.cond := by rw [e]
  refine ⟨fun u => (awake u).formed (formed u) hc, ?_⟩
  rw [e]
  exact ⟨manifold.queue, manifold.action, manifold.lastEnd, manifold.spacing, manifold.mask, manifold.demand⟩

theorem wakeArms_awake {s : State} (hq : s.arms.queue = []) (ha : s.arms.action = none) :
    (∀ u, ArmAwake u (s.pins.switches.get u) (wakeArms s)) ∧ ManifoldAwake s (wakeArms s) := by
  obtain ⟨c, told, e, -⟩ := wakeAnnounced_parts s
  have harms : (wakeAnnounced s).arms = s.arms := by rw [e]
  have hpins : (wakeAnnounced s).pins = s.pins := by rw [e]
  have hm : (wakeAnnounced s).mc.mode = .settle := by rw [e]
  unfold wakeArms
  generalize wakeAnnounced s = x at harms hpins hm
  obtain ⟨awake, manifold⟩ := armsWake_awake hm (by rw [harms]; exact hq) (by rw [harms]; exact ha)
  rw [hpins] at awake
  refine ⟨awake, ?_⟩
  exact {
    queue := manifold.queue
    action := manifold.action
    lastEnd := manifold.lastEnd.trans (congrArg Arms.lastEnd harms)
    spacing := manifold.spacing
    mask := manifold.mask.trans (congrArg Arms.unitsMask harms)
    demand := fun h => manifold.demand ((congrArg Arms.demand harms).trans h) }

/-- The arms after the whole waking. -/
theorem wake_awake {s : State} (hq : s.arms.queue = []) (ha : s.arms.action = none) :
    (∀ u, ArmAwake u (s.pins.switches.get u) (wake s)) ∧ ManifoldAwake s (wake s) := by
  obtain ⟨awake, manifold⟩ := wakeArms_awake hq ha
  have behind := wakeBehind_woken (b := wakeArms s) (by rw [(wakeArms_woken s).mc])
  rw [wake_eq]
  generalize wakeArms s = b at *
  generalize wakeBehind b = t at *
  have hu : ∀ u, t.armOf u = b.armOf u := fun u => congrArg (fun a : Arms => a.units.get u) behind.arms
  have hswitch : ∀ u, t.cond.get (.switch u) = b.cond.get (.switch u) := fun u => behind.others _ (by simp)
  have htimeout : ∀ u, t.cond.get (.armTimeout u) = b.cond.get (.armTimeout u) := fun u => behind.others _ (by simp)
  refine ⟨fun u => ?_, ?_⟩
  · exact {
      spin := by rw [hu]; exact (awake u).spin
      reach := by rw [hu]; exact (awake u).reach
      height := by rw [hu]; exact (awake u).height
      spinDown := by rw [hu]; exact (awake u).spinDown
      release := by rw [hu]; exact (awake u).release
      faulty := fun hw => by rw [hu, hswitch]; exact (awake u).faulty hw
      fit := fun hw => by rw [hu, hswitch, htimeout]; exact (awake u).fit hw }
  · exact {
      queue := by rw [behind.arms]; exact manifold.queue
      action := by rw [behind.arms]; exact manifold.action
      lastEnd := by rw [behind.arms]; exact manifold.lastEnd
      spacing := by rw [behind.arms]; exact manifold.spacing
      mask := by rw [behind.arms]; exact manifold.mask
      demand := fun h => by rw [behind.arms]; exact manifold.demand h }

/-! ## The line and the switches -/

theorem wakeLineActive_active {s : State} (h : s.pins.wake = true) : wakeLineActive s = s := by
  rw [wakeLineActive, h]
  rfl

theorem wakeLineActive_elsewhere {s : State} (hm : s.mc.mode ≠ .standby) :
    wakeLineActive s = { s with pins := { s.pins with wake := true } } := by
  by_cases h : s.pins.wake = true
  · rw [wakeLineActive_active h, pins_wake h]
  · rw [wakeLineActive, Bool.eq_false_iff.2 h]
    exact if_neg hm

/-- A pair of switches shows the one that is active alone. -/
theorem pairShown {α : Type} {x y z : α} (hxy : x ≠ y) (hxz : x ≠ z) (hyz : y ≠ z) (p q : Bool) :
    ((if p && !q then x else if q && !p then y else z) = x ↔ p = true ∧ q = false) ∧
    ((if p && !q then x else if q && !p then y else z) = y ↔ p = false ∧ q = true) ∧
    ((if p && !q then x else if q && !p then y else z) = z ↔ p = q) := by
  cases p <;> cases q <;> simp [hxy, hxz, hyz, hxy.symm, hxz.symm, hyz.symm]

theorem reach_arm (w : Switches) {u : BrushUnit} (hu : u ≠ .m) :
    w.reach u = if w.isIn && !w.out then .isIn else if w.out && !w.isIn then .out else .unknown := by
  cases u with
  | m => exact absurd rfl hu
  | l => rfl
  | r => rfl

/-- Settles O13: the waking by its blocks, the line by its level and the mode, and the arms by their switches. -/
theorem wakeLineWakesThePartInStandby : Obligations.WakeLineWakesThePartInStandby := by
  refine ⟨fun s hm hw => ?_, fun s => ⟨rfl, fun h => ?_, fun h => ?_⟩, fun w => ?_, fun s t u hm hw hq ha ht => ?_⟩
  · obtain ⟨woken, hpins, more, hlink⟩ := wake_woken_with s (p := { s.pins with wake := true }) rfl s.link
    rw [exec_wakeActive_of_standby hw hm]
    generalize wake { s with pins := { s.pins with wake := true } } = x at *
    exact ⟨x.sent, more, rfl, woken.sent, hpins, congrArg LinkPort.transmit hlink⟩
  · exact congrArg finish (wakeLineActive_active h)
  · exact congrArg finish (wakeLineActive_elsewhere h)
  · refine ⟨fun u hu => ?_, rfl, pairShown (x := Height.up) (y := .down) (z := .unknown) nofun nofun nofun w.up w.down⟩
    rw [reach_arm w hu]
    exact pairShown (x := Reach.isIn) (y := .out) (z := .unknown) nofun nofun nofun w.isIn w.out
  · intro w
    rw [exec_wakeActive_of_standby hw hm] at ht
    have ht : (wake { s with pins := { s.pins with wake := true } }).sent = t := Host.Outcome.next.inj ht
    obtain ⟨awake, manifold⟩ := wake_awake (s := { s with pins := { s.pins with wake := true } }) hq ha
    generalize wake { s with pins := { s.pins with wake := true } } = x at *
    subst ht
    have unit := awake u
    refine ⟨unit.spin, unit.reach, unit.height, unit.spinDown, unit.release, manifold.spacing, manifold.queue,
      manifold.action, manifold.lastEnd, manifold.mask, manifold.demand, fun h => ?_, fun h => ?_⟩
    · exact unit.faulty (Bool.eq_false_iff.2 fun hp => (pairsClear_iff w).1 hp h)
    · exact unit.fit ((pairsClear_iff w).2 h)

end Sys2Proof.Machine
end

section
/-! An accepted RESTART as far as the arms (R13, R60, R67, R73, R92). -/

namespace Sys2Proof.Machine

/-! ## Postures beside brushes at rest -/

/-- A brush's record with nothing commanded, wanted or ramped. -/
structure BrushRec.Parked (b : BrushRec) : Prop where
  t : b.t = 0
  c : b.c = 0
  rampTimer : b.rampTimer = none

theorem cutCommand_parked {u : BrushUnit} {s : State} (h : (s.brushOf u).Parked) : cutCommand u s = s := by
  have hr : setRampTimer u none s = s := by
    rw [setRampTimer, ← h.rampTimer]
    exact State.putBrush_brushOf_self s u
  rw [cutCommand, hr]
  exact if_pos h.c.symm

theorem spinNotice_parked {u : BrushUnit} {s : State} (h : (s.brushOf u).Parked) :
    spinNotice u .off s = s.putBrush u { s.brushOf u with spin := .off } := by
  have hb : (s.putBrush u { s.brushOf u with spin := .off }).brushOf u = { s.brushOf u with spin := .off } :=
    State.brushOf_putBrush _ _ _
  have ht : (s.putBrush u { s.brushOf u with spin := .off }).putBrush u
      { (s.putBrush u { s.brushOf u with spin := .off }).brushOf u with t := 0 } =
      s.putBrush u { s.brushOf u with spin := .off } := by
    rw [hb, State.putBrush_putBrush]
    conv_lhs => rw [← h.t]
  have hdef : spinNotice u .off s = cutCommand u ((s.putBrush u { s.brushOf u with spin := .off }).putBrush u
      { (s.putBrush u { s.brushOf u with spin := .off }).brushOf u with t := 0 }) := rfl
  rw [hdef, ht]
  refine cutCommand_parked ?_
  rw [hb]
  exact ⟨h.t, h.c, h.rampTimer⟩

theorem heightNotice_parked {u : BrushUnit} {d : Bool} {s : State} (h : (s.brushOf u).Parked) :
    heightNotice u d s = s.putBrush u { s.brushOf u with heightDown := d } := by
  cases d with
  | true => rfl
  | false =>
    refine cutCommand_parked ?_
    rw [State.brushOf_putBrush]
    exact ⟨h.t, h.c, h.rampTimer⟩

/-- The brush's copy of its arm's spin is the arm's. -/
def SpinCopied (u : BrushUnit) (s : State) : Prop := (s.brushOf u).spin = (s.armOf u).spin

/-- The brush's copy of its arm's height is the arm's. -/
def HeightCopied (u : BrushUnit) (s : State) : Prop := (s.brushOf u).heightDown = true ↔ (s.armOf u).height = .down

/-- The brushes' copies have followed the arms, and the brushes have not changed otherwise. -/
structure Followed (s x : State) : Prop where
  records : ∀ v, ∃ sp d, x.brushOf v = { s.brushOf v with
    spin := sp
    heightDown := d }
  rates : x.brush.step = s.brush.step ∧ x.brush.upRate = s.brush.upRate ∧ x.brush.downRate = s.brush.downRate
  spin : ∀ v, SpinCopied v s → SpinCopied v x
  height : ∀ v, HeightCopied v s → HeightCopied v x

/-- The arms have changed, the brushes' copies have followed, and reports are posted; nothing else has changed. -/
structure Turned (s x : State) : Prop extends Followed s x where
  eq : ∃ (a : Arms) (b : Brushes) (more : List Report), x = { s with
    arms := a
    brush := b
    link := more.foldl LinkPort.post s.link }

theorem Followed.refl (s : State) : Followed s s where
  records := fun v => ⟨(s.brushOf v).spin, (s.brushOf v).heightDown, rfl⟩
  rates := ⟨rfl, rfl, rfl⟩
  spin := fun _ h => h
  height := fun _ h => h

theorem Followed.trans {s y x : State} (h : Followed s y) (k : Followed y x) : Followed s x where
  records := fun v => by
    obtain ⟨sp, d, e⟩ := h.records v
    obtain ⟨sp', d', e'⟩ := k.records v
    exact ⟨sp', d', e'.trans (by rw [e])⟩
  rates := ⟨k.rates.1.trans h.rates.1, k.rates.2.1.trans h.rates.2.1, k.rates.2.2.trans h.rates.2.2⟩
  spin := fun v hv => k.spin v (h.spin v hv)
  height := fun v hv => k.height v (h.height v hv)

/-- Where neither the arms nor the brushes change, nothing is to follow. -/
theorem followed_same {s x : State} (ha : x.arms = s.arms) (hb : x.brush = s.brush) : Followed s x := by
  have hu : ∀ v, x.armOf v = s.armOf v := fun v => congrArg (fun a : Arms => a.units.get v) ha
  have hr : ∀ v, x.brushOf v = s.brushOf v := fun v => congrArg (fun b : Brushes => b.units.get v) hb
  exact {
    records := fun v => ⟨(s.brushOf v).spin, (s.brushOf v).heightDown, hr v⟩
    rates := by rw [hb]; exact ⟨rfl, rfl, rfl⟩
    spin := fun v h => by rw [SpinCopied, hu, hr]; exact h
    height := fun v h => by rw [HeightCopied, hu, hr]; exact h }

theorem Turned.refl (s : State) : Turned s s := { Followed.refl s with eq := ⟨s.arms, s.brush, [], rfl⟩ }

theorem Turned.trans {s y x : State} (h : Turned s y) (k : Turned y x) : Turned s x where
  toFollowed := h.toFollowed.trans k.toFollowed
  eq := by
    obtain ⟨a, b, more, rfl⟩ := h.eq
    obtain ⟨a', b', more', e⟩ := k.eq
    exact ⟨a', b', more ++ more', e.trans (by rw [List.foldl_append])⟩

theorem Followed.parked {s x : State} {u : BrushUnit} (h : Followed s x) (hp : (s.brushOf u).Parked) : (x.brushOf u).Parked := by
  obtain ⟨sp, d, e⟩ := h.records u
  rw [e]
  exact ⟨hp.t, hp.c, hp.rampTimer⟩

theorem Turned.mc {s x : State} (h : Turned s x) : x.mc = s.mc := by
  obtain ⟨a, b, more, rfl⟩ := h.eq
  rfl

/-- Parts of the arms that no brush copies. -/
theorem turned_arms (s : State) (a : Arms) (h : ∀ v, (a.units.get v).spin = (s.armOf v).spin ∧
    ((a.units.get v).height = .down ↔ (s.armOf v).height = .down)) : Turned s { s with arms := a } where
  eq := ⟨a, s.brush, [], rfl⟩
  records := (Turned.refl s).records
  rates := ⟨rfl, rfl, rfl⟩
  spin := fun v hv => hv.trans (h v).1.symm
  height := fun v hv => hv.trans (h v).2.symm

theorem turned_putArm (s : State) (u : BrushUnit) (a : ArmUnit) (h1 : a.spin = (s.armOf u).spin)
    (h2 : a.height = .down ↔ (s.armOf u).height = .down) : Turned s (s.putArm u a) := by
  refine turned_arms s _ fun v => ?_
  rw [PerUnit.get_set]
  split
  · next hv => rw [hv]; exact ⟨h1, h2⟩
  · exact ⟨rfl, Iff.rfl⟩

theorem turned_post (s : State) (r : Report) : Turned s (s.post r) :=
  { Turned.refl s with eq := ⟨s.arms, s.brush, [r], rfl⟩ }

/-- A unit's arm and its brush's copies, written together. -/
theorem turned_both (s : State) (u : BrushUnit) (a : ArmUnit) (sp : Spin) (d : Bool)
    (h1 : SpinCopied u s → sp = a.spin) (h2 : HeightCopied u s → (d = true ↔ a.height = .down)) :
    Turned s ((s.putArm u a).putBrush u { s.brushOf u with
      spin := sp
      heightDown := d }) := by
  have hb : ∀ v, ((s.putArm u a).putBrush u { s.brushOf u with
      spin := sp
      heightDown := d }).brushOf v = if v = u then { s.brushOf u with
      spin := sp
      heightDown := d } else s.brushOf v := fun v => PerUnit.get_set _ _ _ _
  have ha : ∀ v, ((s.putArm u a).putBrush u { s.brushOf u with
      spin := sp
      heightDown := d }).armOf v = if v = u then a else s.armOf v := fun v => PerUnit.get_set _ _ _ _
  refine ⟨⟨fun v => ?_, ⟨rfl, rfl, rfl⟩, fun v hv => ?_, fun v hv => ?_⟩, ⟨_, _, [], rfl⟩⟩
  · rw [hb]
    split
    · next h => rw [h]; exact ⟨sp, d, rfl⟩
    · exact ⟨_, _, rfl⟩
  · rw [SpinCopied, hb, ha]
    split
    · next h => exact h1 (h ▸ hv)
    · exact hv
  · rw [HeightCopied, hb, ha]
    split
    · next h => exact h2 (h ▸ hv)
    · exact hv

theorem postureNotice_settle {x : State} (hm : x.mc.mode = .settle) : postureNotice x = x :=
  postureNotice_stays (.inl (by rw [hm]; decide)) (.inl (by rw [hm]; decide))

theorem turned_setReach {u : BrushUnit} {s : State} (hm : s.mc.mode = .settle) (r : Reach) : Turned s (setReach u r s) := by
  by_cases h : r = (s.armOf u).reach
  · rw [setReach, if_pos h]
    exact Turned.refl s
  · rw [setReach_changed h, postureNotice_settle (x := s.putArm u _) hm]
    exact turned_putArm s u _ rfl Iff.rfl

section
variable {u : BrushUnit} {s : State} (hm : s.mc.mode = .settle) (hp : (s.brushOf u).Parked)
include hm hp

theorem turned_setSpin : Turned s (setSpin u .off s) := by
  by_cases h : Spin.off = (s.armOf u).spin
  · rw [setSpin, if_pos h]
    exact Turned.refl s
  · have e : setSpin u .off s = (s.putArm u { s.armOf u with spin := .off }).putBrush u
        { s.brushOf u with spin := .off } := by
      rw [setSpin_changed h, spinNotice_parked (s := s.putArm u _) hp]
      exact postureNotice_settle hm
    rw [e]
    exact turned_both s u _ .off (s.brushOf u).heightDown (fun _ => rfl) id

/-- A height read on an arm whose spin is OFF. -/
theorem turned_setHeight (x : Height) (hs : (s.armOf u).spin = .off) : Turned s (setHeight u x s) := by
  by_cases h : x = (s.armOf u).height
  · rw [setHeight]
    dsimp only
    rw [if_pos h]
    exact Turned.refl s
  · have hn : ∀ y, heightNotices u x (s.armOf u) y =
        if (s.armOf u).height = .down ∨ x = .down then heightNotice u (decide (x = .down)) y else y := fun y => by
      have hc : ¬ ((s.armOf u).height = .down ∧ (s.armOf u).spin ≠ .off) := fun hc => hc.2 hs
      rw [heightNotices, if_neg hc]
    have hspin : (if (s.armOf u).height = .down then Spin.off else (s.armOf u).spin) = .off := by
      rw [hs, ite_self]
    rw [setHeight_changed h, hn, hspin]
    by_cases hd : (s.armOf u).height = .down ∨ x = .down
    · rw [if_pos hd, heightNotice_parked (s := s.putArm u _) hp]
      rw [postureNotice_settle (by exact hm)]
      exact turned_both s u _ (s.brushOf u).spin _ (fun hc => hc.trans hs) fun _ => decide_eq_true_iff
    · rw [if_neg hd, postureNotice_settle (x := s.putArm u _) hm]
      obtain ⟨hd1, hd2⟩ := not_or.1 hd
      have hsame : (s.armOf u).height = .down ↔ x = .down := iff_of_false hd1 hd2
      exact turned_putArm s u _ hs.symm hsame.symm

theorem turned_readUnit : Turned s (readSwitches u (setSpin u .off s)) := by
  have t1 := turned_setSpin hm hp
  have hs : ((setSpin u .off s).armOf u).spin = .off := by rw [setSpin_armOf]
  generalize setSpin u .off s = x at *
  have t2 := turned_setReach (u := u) (s := x) (by rw [t1.mc]; exact hm) ((x.pins.switches.get u).reach u)
  have hs2 : ((setReach u ((x.pins.switches.get u).reach u) x).armOf u).spin = .off := by rw [setReach_armOf]; exact hs
  unfold readSwitches
  dsimp only
  generalize setReach u ((x.pins.switches.get u).reach u) x = y at *
  have t12 := t1.trans t2
  exact t12.trans (turned_setHeight (by rw [t12.mc]; exact hm) (t12.parked hp) _ hs2)

/-- A unit in FAULT where nothing waits and nothing moves. -/
theorem turned_enterFault (hq : s.arms.queue = []) (ha : s.arms.action = none) : Turned s (enterFault u s) := by
  have hn : (ownsAction s u || hasEntry s u) = false := by simp [ownsAction, hasEntry, hq, ha]
  have ht : Turned s (faultTold u s) := by
    unfold faultTold
    rw [withoutUnit_rests hq ha]
    have t1 : Turned s (s.putArm u { s.armOf u with spinDownTimer := none }) := turned_putArm s u _ rfl Iff.rfl
    have harm : (s.putArm u { s.armOf u with spinDownTimer := none }).armOf u = { s.armOf u with spinDownTimer := none } :=
      State.armOf_putArm _ _ _
    generalize s.putArm u { s.armOf u with spinDownTimer := none } = y at *
    have t2 := t1.trans (turned_setSpin (u := u) (by rw [t1.mc]; exact hm) (t1.parked hp))
    have harm2 : (setSpin u .off y).armOf u = { s.armOf u with
        spinDownTimer := none
        spin := .off } := by rw [setSpin_armOf, harm]
    generalize setSpin u .off y = z at *
    have t3 := t2.trans (turned_putArm z u (fallen (s.armOf u)) (by rw [harm2]; rfl) (by rw [harm2]; exact Iff.rfl))
    dsimp only
    split
    · exact t3
    · exact t3.trans (turned_post _ _)
  have harms := faultTold_arms (u := u) hq ha
  obtain ⟨r, hr⟩ := postArmsDemand_rests (s := faultTold u s) (by rw [harms]; exact hq) (by rw [harms]; exact ha)
  rw [enterFault_eq, hn]
  show Turned s (postArmsDemand (faultTold u s))
  rw [hr]
  exact ht.trans (turned_arms _ _ fun v => ⟨rfl, Iff.rfl⟩)

end

/-! ## One unit (R92) -/

/-- The state changed in the arms, the brushes, the conditions and the arbiter's flags alone, with reports posted. -/
def AroundArms (s x : State) : Prop :=
  ∃ (a : Arms) (b : Brushes) (d st : Bool) (c : CondTable) (more : List Report), x = { s with
    arms := a
    brush := b
    arb := { s.arb with
      derate := d
      stop := st }
    cond := c
    link := more.foldl LinkPort.post s.link }

theorem AroundArms.trans {s y x : State} (h : AroundArms s y) (k : AroundArms y x) : AroundArms s x := by
  obtain ⟨a, b, d, st, c, more, rfl⟩ := h
  obtain ⟨a', b', d', st', c', more', rfl⟩ := k
  exact ⟨a', b', d', st', c', more ++ more', by rw [List.foldl_append]⟩

theorem Turned.around {s x : State} (h : Turned s x) : AroundArms s x := by
  obtain ⟨a, b, more, rfl⟩ := h.eq
  exact ⟨a, b, s.arb.derate, s.arb.stop, s.cond, more, rfl⟩

theorem Turned.cond {s x : State} (h : Turned s x) : x.cond = s.cond := by
  obtain ⟨a, b, more, rfl⟩ := h.eq
  rfl

theorem aroundArms_notice (k : CondKind) (p : Bool) (s : State) : AroundArms s (notice k p s) := by
  obtain ⟨w, d, st, c, more, h⟩ := aside_notice k p s
  have hw : (notice k p s).spray = s.spray := notice_spray _ _ _
  rw [h] at hw
  refine ⟨s.arms, s.brush, d, st, c, more, h.trans ?_⟩
  rw [show w = s.spray from hw]

/-- What the RESTART of one unit leaves. -/
structure UnitRestarted (u : BrushUnit) (w : Switches) (s x : State) : Prop where
  around : AroundArms s x
  followed : Followed s x
  beside : ArmsBeside u s x
  holds : (x.armOf u).holds = []
  spin : (x.armOf u).spin = .off
  reach : (x.armOf u).reach = w.reach u
  height : (x.armOf u).height = w.height
  spinDown : (s.armOf u).spinDownTimer = none → (x.armOf u).spinDownTimer = none
  release : (x.armOf u).releaseTimer = (s.armOf u).releaseTimer
  activity : (x.armOf u).activity = if pairsClear w then .idle else .fault
  records : ∀ k, x.cond.get k =
    if k = .switch u ∧ pairsClear w = false then .present else s.cond.get k

theorem armRestartUnit_restarted {u : BrushUnit} {s : State} (hm : s.mc.mode = .settle) (hp : (s.brushOf u).Parked)
    (hq : s.arms.queue = []) (ha : s.arms.action = none) : UnitRestarted u (s.pins.switches.get u) s (armRestartUnit u s) := by
  have t0 : Turned s (s.putArm u { s.armOf u with
      holds := []
      activity := .idle }) := turned_putArm s u _ rfl Iff.rfl
  have hdef : armRestartUnit u s =
      if !pairsClear ((readSwitches u (setSpin u .off (s.putArm u { s.armOf u with
        holds := []
        activity := .idle }))).pins.switches.get u) then
        switchFault u (readSwitches u (setSpin u .off (s.putArm u { s.armOf u with
          holds := []
          activity := .idle })))
      else readSwitches u (setSpin u .off (s.putArm u { s.armOf u with
        holds := []
        activity := .idle })) := rfl
  have t1 := t0.trans (turned_readUnit (u := u) (by rw [t0.mc]; exact hm) (t0.parked hp))
  have hread : (readSwitches u (setSpin u .off (s.putArm u { s.armOf u with
      holds := []
      activity := .idle }))).arms = (s.putArm u (ArmUnit.read u (s.pins.switches.get u) { s.armOf u with
      holds := []
      activity := .idle })).arms := by
    rw [readUnit_arms, State.armOf_putArm]
    cases u <;> rfl
  generalize readSwitches u (setSpin u .off (s.putArm u { s.armOf u with
      holds := []
      activity := .idle })) = x at *
  have hpins : x.pins = s.pins := by
    obtain ⟨a, b, more, e⟩ := t1.eq
    rw [e]
  have hrecord : x.armOf u = _ := (congrArg (fun a : Arms => a.units.get u) hread).trans (State.armOf_putArm s u _)
  rw [hpins] at hdef
  generalize armRestartUnit u s = t at *
  generalize s.pins.switches.get u = w at *
  cases hw : pairsClear w with
  | true =>
    rw [hw] at hdef
    have hdef : t = x := hdef
    subst hdef
    obtain ⟨hu, beside⟩ := armsBeside_of (d := s.arms.demand) (r := s.arms.demandRead) hread id
      ⟨fun v _ => by rw [t1.cond], fun v => by rw [t1.cond]⟩ hpins
    exact {
      around := t1.around
      followed := t1.toFollowed
      beside := beside
      holds := by rw [hu]; rfl
      spin := by rw [hu]; rfl
      reach := by rw [hu]; rfl
      height := by rw [hu]; rfl
      spinDown := fun h => by rw [hu]; exact h
      release := by rw [hu]; rfl
      activity := by rw [hu, hw]; rfl
      records := fun k => by rw [t1.cond, if_neg fun h => by rw [hw] at h; cases h.2] }
  | false =>
    rw [hw] at hdef
    have hdef : t = enterFault u (notice (.switch u) true x) := hdef
    have hna : (notice (.switch u) true x).arms = x.arms := notice_arms _ _ _
    have hnb : (notice (.switch u) true x).brush = x.brush := notice_brush _ _ _
    have hnm : (notice (.switch u) true x).mc = x.mc := notice_mc _ _ _
    have hnp : (notice (.switch u) true x).pins = x.pins := notice_pins _ _ _
    have hget : ∀ k, (notice (.switch u) true x).cond.get k = if k = .switch u then .present else x.cond.get k :=
      fun k => notice_get _ _ _ _
    have followed := t1.toFollowed.trans (followed_same hna hnb)
    have around := t1.around.trans (aroundArms_notice (.switch u) true x)
    generalize notice (.switch u) true x = n at *
    have hnq : n.arms.queue = [] := by rw [hna, hread]; exact hq
    have hno : n.arms.action = none := by rw [hna, hread]; exact ha
    have t2 : Turned n (enterFault u n) := turned_enterFault (by rw [hnm, t1.mc]; exact hm) (followed.parked hp) hnq hno
    obtain ⟨r, hr⟩ := enterFault_arms (u := u) hnq hno
    have hnu : n.armOf u = x.armOf u := congrArg (fun a : Arms => a.units.get u) hna
    have ht : t.arms = { (s.putArm u (fallen (ArmUnit.read u w { s.armOf u with
        holds := []
        activity := .idle }))).arms with
        demand := 0
        demandRead := r } := by
      rw [hdef, hr, hnu, hrecord, State.putArm, hna, hread]
      cases u <;> rfl
    have hcond : t.cond = n.cond := by rw [hdef, t2.cond]
    have htp : t.pins = s.pins := by
      obtain ⟨a, b, more, e⟩ := t2.eq
      rw [hdef, e]
      exact hnp.trans hpins
    have hrecords : ∀ k, t.cond.get k = if k = .switch u then .present else s.cond.get k := fun k => by
      rw [hcond, hget, t1.cond]
    obtain ⟨hu, beside⟩ := armsBeside_of ht (fun _ => rfl)
      ⟨fun v hv => by rw [hrecords, if_neg fun h => hv (CondKind.switch.inj h)], fun v => by rw [hrecords, if_neg nofun]⟩ htp
    exact {
      around := by rw [hdef]; exact around.trans t2.around
      followed := by rw [hdef]; exact followed.trans t2.toFollowed
      beside := beside
      holds := by rw [hu]; rfl
      spin := by rw [hu]; rfl
      reach := by rw [hu]; rfl
      height := by rw [hu]; rfl
      spinDown := fun _ => by rw [hu]; rfl
      release := by rw [hu]; rfl
      activity := by rw [hu, hw]; rfl
      records := fun k => by
        rw [hrecords]
        exact if_congr (and_iff_left hw).symm rfl rfl }

end Sys2Proof.Machine
end

section
/-! An accepted RESTART from Mode Control to the arms (R13, R26, R48, R67, R92). -/

namespace Sys2Proof.Machine

/-! ## Mode Control, the gates, the drive and the brushes -/

/-- RESTART as far as the brushes. -/
def restartAnnounced (s : State) : State := brushRestart (driveRestart (pulseRestart (enterSettle (restartClear s))))

/-- The gates after a RESTART: both wheels are INCLUDED. -/
def restartedPulses (s : State) : PulseCapture :=
  let p := s.pcu.restarted s
  { p with
    wl := { p.wl with included := true }
    wr := { p.wr with included := true } }

/-- The drive after a RESTART, before the recipe. -/
def restartedDrive (d : Drive) : Drive :=
  { d.atRest with
    requested := 0
    requestTimer := none
    held := none
    stale := false
    overspeed := false }

/-- A brush's record after a RESTART, before the recipe. -/
def BrushRec.restarted (b : BrushRec) : BrushRec :=
  { b.rested.unflagged with
    index := 0
    reselect := false }

theorem brushRest_eq (u : BrushUnit) (s : State) : ∃ p, brushRest u s = { s.putBrush u (s.brushOf u).rested with spray := p } :=
  ⟨_, outputNotice_spray _ _ _ _⟩

/-- One brush's part of a RESTART. -/
def brushRestartUnit (u : BrushUnit) (s : State) : State :=
  (brushRest u s).putBrush u { (brushRest u s).brushOf u with
    starved := false
    stalled := false
    lagging := false
    index := 0
    reselect := false }

theorem brushRestart_eq (s : State) : brushRestart s = forUnits brushRestartUnit s := rfl

theorem brushRestartUnit_brushOf (u v : BrushUnit) (s : State) :
    (brushRestartUnit u s).brushOf v = if v = u then (s.brushOf u).restarted else s.brushOf v := by
  unfold brushRestartUnit
  split
  · next h =>
    rw [h, State.brushOf_putBrush, brushRest_brushOf]
    rfl
  · next h => rw [State.brushOf_putBrush_other _ _ h, brushRest_brushOf_other s h]

theorem brushRestart_brushOf (u : BrushUnit) (s : State) : (brushRestart s).brushOf u = (s.brushOf u).restarted := by
  simp only [brushRestart_eq, forUnits, brushRestartUnit_brushOf]
  cases u <;> rfl

/-- The brushes and the water alone have changed. -/
def BrushesAlone (s x : State) : Prop := ∃ (b : Brushes) (p : Spray), x = { s with
    brush := b
    spray := p }

theorem brushesAlone_unit {u : BrushUnit} {s x : State} (h : BrushesAlone s x) : BrushesAlone s (brushRestartUnit u x) := by
  obtain ⟨b, p, rfl⟩ := h
  obtain ⟨q, e⟩ := brushRest_eq u { s with
    brush := b
    spray := p }
  unfold brushRestartUnit
  rw [e]
  exact ⟨_, q, rfl⟩

theorem brushRestart_alone (s : State) : BrushesAlone s (brushRestart s) := by
  rw [brushRestart_eq]
  exact forUnits_keeps (P := BrushesAlone s) (fun _ _ h => brushesAlone_unit h) ⟨s.brush, s.spray, rfl⟩

theorem restartAnnounced_parts (s : State) : ∃ b p, restartAnnounced s = { s with
      mc := ⟨.settle, .park, s.startMs (if s.pins.settleStrap then 1000 else 100), none⟩
      pcu := restartedPulses s
      drive := restartedDrive s.drive
      cond := CondTable.clear
      link := { s.link with
        reports := []
        lost := false }.post (.mode .settle .park)
      brush := b
      spray := p } ∧ ∀ u, (restartAnnounced s).brushOf u = (s.brushOf u).restarted := by
  obtain ⟨b, p, e⟩ := brushRestart_alone (driveRestart (pulseRestart (enterSettle (restartClear s))))
  exact ⟨b, p, e, fun u => brushRestart_brushOf u _⟩

/-! ## The three arms -/

/-- What a RESTART leaves of a unit's record, before the goals. -/
structure ArmUnit.Fresh (u : BrushUnit) (w : Switches) (a : ArmUnit) : Prop where
  holds : a.holds = []
  spin : a.spin = .off
  reach : a.reach = w.reach u
  height : a.height = w.height
  spinDown : a.spinDownTimer = none
  release : a.releaseTimer = none
  activity : a.activity = if pairsClear w then .idle else .fault

theorem UnitRestarted.fresh {u : BrushUnit} {w : Switches} {s x : State} (h : UnitRestarted u w s x)
    (h1 : (s.armOf u).spinDownTimer = none) (h2 : (s.armOf u).releaseTimer = none) : (x.armOf u).Fresh u w where
  holds := h.holds
  spin := h.spin
  reach := h.reach
  height := h.height
  spinDown := h.spinDown h1
  release := h.release.trans h2
  activity := h.activity

/-- The records of the switch kinds are PRESENT where both switches of a pair are active. -/
def faultedRecord (s : State) (k : CondKind) (v : CondState) : CondState :=
  match k with
  | .switch u => if pairsClear (s.pins.switches.get u) = false then .present else v
  | _ => v

/-- What a RESTART leaves of the arms. -/
structure ArmsRestarted (s x : State) : Prop where
  around : AroundArms s x
  followed : Followed s x
  fresh : ∀ u, (x.armOf u).Fresh u (s.pins.switches.get u)
  queue : x.arms.queue = []
  action : x.arms.action = none
  lastEnd : x.arms.lastEnd = abandonedEnds s
  spacing : x.arms.spacingTimer = none
  demand : x.arms.demand = 0
  records : ∀ k, x.cond.get k = faultedRecord s k (s.cond.get k)

theorem AroundArms.mc {s x : State} (h : AroundArms s x) : x.mc = s.mc := by
  obtain ⟨a, b, d, st, c, more, rfl⟩ := h
  rfl

theorem AroundArms.pins {s x : State} (h : AroundArms s x) : x.pins = s.pins := by
  obtain ⟨a, b, d, st, c, more, rfl⟩ := h
  rfl

theorem unitsRestart_restarted {s : State} (hm : s.mc.mode = .settle) (hp : ∀ u, (s.brushOf u).Parked) :
    ArmsRestarted s (forUnits armRestartUnit (armsAbandon s)) := by
  obtain ⟨r, hr⟩ := armsAbandon_parts s
  have t0 : Turned s (armsAbandon s) := by
    rw [hr]
    exact turned_arms s _ fun v => by cases v <;> exact ⟨rfl, Iff.rfl⟩
  have timers : ∀ u, ((armsAbandon s).armOf u).spinDownTimer = none ∧ ((armsAbandon s).armOf u).releaseTimer = none :=
    fun u => by
      rw [hr]
      cases u <;> exact ⟨rfl, rfl⟩
  have hq : (armsAbandon s).arms.queue = [] := by rw [hr]
  have ha : (armsAbandon s).arms.action = none := by rw [hr]
  have hends : (armsAbandon s).arms.lastEnd = abandonedEnds s := by rw [hr]
  have hspacing : (armsAbandon s).arms.spacingTimer = none := by rw [hr]
  have hdemand : (armsAbandon s).arms.demand = 0 := by rw [hr]
  clear hr
  generalize armsAbandon s = z at *
  have r1 := armRestartUnit_restarted (u := .l) (by rw [t0.mc]; exact hm) (t0.parked (hp _)) hq ha
  have f1 := r1.fresh (timers .l).1 (timers .l).2
  generalize hx : armRestartUnit .l z = x at *
  have a1 := t0.around.trans r1.around
  have p1 := t0.toFollowed.trans r1.followed
  have r2 := armRestartUnit_restarted (u := .r) (s := x) (by rw [a1.mc]; exact hm) (p1.parked (hp _))
    (r1.beside.queue.trans hq) (r1.beside.action.trans ha)
  have o1 : x.armOf .r = z.armOf .r := r1.beside.others .r (by decide)
  have f2 := r2.fresh (by rw [o1]; exact (timers .r).1) (by rw [o1]; exact (timers .r).2)
  generalize hy : armRestartUnit .r x = y at *
  have a2 := a1.trans r2.around
  have p2 := p1.trans r2.followed
  have r3 := armRestartUnit_restarted (u := .m) (s := y) (by rw [a2.mc]; exact hm) (p2.parked (hp _))
    (r2.beside.queue.trans (r1.beside.queue.trans hq)) (r2.beside.action.trans (r1.beside.action.trans ha))
  have o2 : y.armOf .m = z.armOf .m := (r2.beside.others .m (by decide)).trans (r1.beside.others .m (by decide))
  have f3 := r3.fresh (by rw [o2]; exact (timers .m).1) (by rw [o2]; exact (timers .m).2)
  have hend : forUnits armRestartUnit z = armRestartUnit .m y := by rw [forUnits, hx, hy]
  rw [hend]
  generalize armRestartUnit .m y = t at *
  rw [t0.around.pins] at f1 r1
  rw [a1.pins] at f2 r2
  rw [a2.pins] at f3 r3
  exact {
    around := a2.trans r3.around
    followed := p2.trans r3.followed
    fresh := fun u => by
      cases u with
      | l =>
        rw [r3.beside.others .l (by decide), r2.beside.others .l (by decide)]
        exact f1
      | r =>
        rw [r3.beside.others .r (by decide)]
        exact f2
      | m => exact f3
    queue := r3.beside.queue.trans (r2.beside.queue.trans (r1.beside.queue.trans hq))
    action := r3.beside.action.trans (r2.beside.action.trans (r1.beside.action.trans ha))
    lastEnd := r3.beside.lastEnd.trans (r2.beside.lastEnd.trans (r1.beside.lastEnd.trans hends))
    spacing := r3.beside.spacing.trans (r2.beside.spacing.trans (r1.beside.spacing.trans hspacing))
    demand := r3.beside.demand (r2.beside.demand (r1.beside.demand hdemand))
    records := fun k => by
      rw [r3.records, r2.records, r1.records, t0.cond]
      cases k with
      | switch u => cases u <;> simp [faultedRecord]
      | _ => simp [faultedRecord] }

end Sys2Proof.Machine
end

section
/-! An accepted RESTART from the arms to the announced recipe (R45, R60, R72, R107, R111, R124, R142, R151). -/

namespace Sys2Proof.Machine

/-! ## The arbiter's flags follow the conditions (R159) -/

/-- The two flags agree with the records of their kinds. -/
def FlagsAgree (s : State) : Prop :=
  (s.arb.derate = true ↔ s.cond.get .oilHigh = .present ∨ s.cond.get .loopOver = .present) ∧
  (s.arb.stop = true ↔ s.cond.get .oilOver = .present)

theorem flagsAgree_notice {s : State} (h : FlagsAgree s) (k : CondKind) (p : Bool) : FlagsAgree (notice k p s) := by
  obtain ⟨same, changed⟩ := conditionRecordsFollowTheirNotices s k p
  by_cases hk : (if p then CondState.present else if s.cond.get k = .present then
      (if k ∈ CondKind.oilOver :: [BrushUnit.l, .r, .m].flatMap fun u =>
        [CondKind.brushStall u, .armTimeout u, .switch u] then .latched else .clear) else s.cond.get k) = s.cond.get k
  · rw [same hk]
    exact h
  · obtain ⟨-, -, -, -, hderate, hstop, -⟩ := changed hk
    exact ⟨hderate h.1, hstop h.2⟩

theorem FlagsAgree.same {s x : State} (h : FlagsAgree s) (h1 : x.arb.derate = s.arb.derate) (h2 : x.arb.stop = s.arb.stop)
    (hc : x.cond = s.cond) : FlagsAgree x := by
  rw [FlagsAgree, h1, h2, hc]
  exact h

/-! ## Still water -/

/-- Nothing is wanted, the flow target is 0 and the sequence DRY. -/
structure Spray.Still (p : Spray) : Prop where
  wanted : p.wanted = ⟨false, false, false, false⟩
  q : p.q = 0
  seq : p.seq = .dry

theorem evaluateFlow_still {s : State} (h : s.spray.Still) : evaluateFlow s = s := by
  have hf : followTarget s (flowTarget s) s.spray = s.spray := if_pos ((flowTarget_dry h.wanted).trans h.q.symm)
  rw [evaluateFlow, hf]

theorem formWanted_still {s : State} (hm : s.mc.mode = .settle) (h : s.spray.Still) : formWanted s = s := by
  have hw : wantedSet s = s.spray.wanted := by
    rw [wantedSet_dry (by rw [hm]; decide) (by rw [hm]; decide), h.wanted]
  have hv : valvesFollow s.spray = s.spray := by
    unfold valvesFollow
    rw [h.seq]
  rw [formWanted, hw, hv]
  exact evaluateFlow_still h

/-- The water after a RESTART, before the recipe. -/
def Spray.restarted (p : Spray) : Spray :=
  { p.atRest with
    enable := false
    low := false
    empty := false
    brushOn := PerUnit.const false }

/-- The water after a RESTART, with the recipe's fields. -/
def freshWater (f : RecipeFields) : Spray where
  enable := false
  brushOn := ⟨false, false, false⟩
  wanted := ⟨false, false, false, false⟩
  q := 0
  command := 0
  rampTimer := none
  seq := .dry
  leadTimer := none
  lagTimer := none
  valves := ⟨false, false, false, false⟩
  demand := 0
  pumpFlow := 0
  wpump := 0
  low := false
  empty := false
  dose := fieldDose f
  doseMax := fieldDoseMax f
  dustBase := fieldDustBase f
  ctUp := fieldCtUp f
  ctDn := fieldCtDn f
  idleFlow := fieldIdleFlow f
  waterStep := fieldWaterStep f
  mask := fieldNozzleMask f

theorem still_freshWater (f : RecipeFields) : (freshWater f).Still := ⟨rfl, rfl, rfl⟩

theorem sprayRecipe_fresh {s : State} {p : Spray} (hm : s.mc.mode = .settle) (hp : s.spray = p.restarted)
    (f : RecipeFields) : sprayRecipe f s = { s with spray := freshWater f } := by
  have h : sprayRecipe f s = formWanted { s with spray := freshWater f } := by
    unfold sprayRecipe
    rw [hp]
    rfl
  rw [h]
  exact formWanted_still hm (still_freshWater f)

/-! ## The arms with their goals (R72) -/

theorem baseWorking_settle {s : State} (hm : s.mc.mode = .settle) (u : BrushUnit) : baseWorking s u = false := by
  have h : (s.mc.mode == .work) = false := beq_eq_false_iff_ne.2 (by rw [hm]; decide)
  rw [baseWorking, h]
  rfl

/-- A unit's record with the goal of a unit that does not work. -/
def ArmUnit.resting (a : ArmUnit) : ArmUnit :=
  { a with
    baseWorking := false
    goal := ⟨false, false, false⟩ }

/-- In SETTLE an announcement leaves every unit the goal of a unit that does not work. -/
theorem armsAnnounced_settle {s : State} (hm : s.mc.mode = .settle) :
    armsAnnounced s = { s with arms := { s.arms with units := (armsAnnounced s).arms.units } } ∧
    ∀ u, (armsAnnounced s).armOf u = (s.armOf u).resting := by
  obtain ⟨e, h⟩ := armsAnnounced_rests (s := s) (by rw [hm]; rfl)
  refine ⟨e, fun u => (h u).trans ?_⟩
  rw [baseWorking_settle hm]
  rfl

theorem followed_armsAnnounced {s : State} (hm : s.mc.mode = .settle) : Followed s (armsAnnounced s) := by
  obtain ⟨e, h⟩ := armsAnnounced_settle hm
  rw [e]
  refine (turned_arms s _ fun v => ?_).toFollowed
  have hv : (armsAnnounced s).arms.units.get v = (s.armOf v).resting := h v
  show (((armsAnnounced s).arms.units.get v).spin = _ ∧ _)
  rw [hv]
  exact ⟨rfl, Iff.rfl⟩

/-! ## The Arbiter (R124) -/

/-- The Arbiter after a RESTART, before the recipe. -/
def Arbiter.restarted (s : State) : Arbiter :=
  { s.arb with
    stale := true
    holdTimer := none
    periodTimer := s.startMs 10
    budget := 0
    derate := false
    stop := false
    consumers := s.arb.consumers.map fun c => { c with
      grant := 0
      share := 1000 } }

theorem arbiterRestart_parts {s : State} (hb : ∀ u, (s.brushOf u).AtRest) (hq : s.arms.queue = [])
    (ht : s.arms.spacingTimer = none) (hs : s.spray.seq = .dry)
    (hc : s.cond.get .oilHigh ≠ .present ∧ s.cond.get .loopOver ≠ .present ∧ s.cond.get .oilOver ≠ .present) :
    FlagsAgree (arbiterRestart s) ∧ ∃ d st c, ∃ more : List Report, arbiterRestart s = { s with
      arb := { Arbiter.restarted s with
        derate := d
        stop := st }
      cond := c
      link := more.foldl LinkPort.post s.link } ∧
    ∀ k, c.get k = if k = .supplyStale then .present else s.cond.get k := by
  let y : State := { s with arb := { s.arb with
    holdTimer := none
    periodTimer := s.startMs 10
    derate := false
    stop := false } }
  have hy : publishShares (clearShares y) = clearShares y := publishShares_rests hb hq ht hs
  have e : arbiterRestart s = setSupplyStale true (publishShares (clearShares y)) := rfl
  rw [hy] at e
  have e : arbiterRestart s = notice .supplyStale true { s with arb := Arbiter.restarted s } := e
  rw [e]
  have hagree : FlagsAgree { s with arb := Arbiter.restarted s } := by
    obtain ⟨h1, h2, h3⟩ := hc
    exact ⟨iff_of_false Bool.false_ne_true (not_or.2 ⟨h1, h2⟩), iff_of_false Bool.false_ne_true h3⟩
  refine ⟨flagsAgree_notice hagree _ _, ?_⟩
  obtain ⟨w, d, st, c, more, hn⟩ := aside_notice .supplyStale true { s with arb := Arbiter.restarted s }
  have hw : (notice .supplyStale true { s with arb := Arbiter.restarted s }).spray = s.spray := notice_spray _ _ _
  rw [hn] at hw
  have hw : w = s.spray := hw
  subst hw
  refine ⟨d, st, c, more, hn, fun k => ?_⟩
  have hg := notice_get .supplyStale k true { s with arb := Arbiter.restarted s }
  rw [hn] at hg
  exact hg

/-! ## The recipe (R45, R60, R72, R105, R111, R151) -/

theorem brushRecipe_settled {s : State} (h : ∀ u, (s.brushOf u).Parked) (f : RecipeFields) :
    ∃ b, brushRecipe f s = { s with brush := b } ∧ (∀ u, b.units.get u = (s.brushOf u).named (fieldTable f u)) ∧
      b.step = fieldStep f ∧ b.upRate = fieldUpRate f ∧ b.downRate = fieldDownRate f := by
  have unit : ∀ (u : BrushUnit) (x : State), (x.brushOf u).Parked →
      brushRecipeUnit f s u x = x.putBrush u ((x.brushOf u).named (fieldTable f u)) := fun u x hx => by
    have hs : settled x u = true := settled_iff.2 (.inl (hx.c.trans hx.t.symm))
    rw [brushRecipeUnit_eq, hs]
    exact if_neg fun hc => nomatch hc.1
  let y : State := { s with brush := { s.brush with
    step := fieldStep f
    upRate := fieldUpRate f
    downRate := fieldDownRate f } }
  have e : brushRecipe f s = brushRecipeUnit f s .m (brushRecipeUnit f s .r (brushRecipeUnit f s .l y)) := rfl
  let y1 : State := y.putBrush .l ((s.brushOf .l).named (fieldTable f .l))
  let y2 : State := y1.putBrush .r ((s.brushOf .r).named (fieldTable f .r))
  have e1 : brushRecipeUnit f s .l y = y1 := unit .l y (h .l)
  have e2 : brushRecipeUnit f s .r y1 = y2 := unit .r y1 (h .r)
  have e3 : brushRecipeUnit f s .m y2 = y2.putBrush .m ((s.brushOf .m).named (fieldTable f .m)) := unit .m y2 (h .m)
  rw [e1, e2, e3] at e
  exact ⟨_, e, fun u => by cases u <;> rfl, rfl, rfl, rfl⟩

theorem sensorsRecipe_still {s : State} (h : s.spray.Still) (f : RecipeFields) :
    sensorsRecipe f s = { s with sensors := { s.sensors with dustBase := fieldDustBase f } } := by
  have ht : ∀ x : State, x.spray.Still → substituteChanged .dust x = x := fun x hx => by
    unfold substituteChanged
    split
    · rfl
    · exact evaluateFlow_still hx
  unfold sensorsRecipe
  dsimp only
  split
  · exact ht _ h
  · rfl

end Sys2Proof.Machine
end

section
/-! What an accepted RESTART leaves up to the announced recipe, block by block. -/

namespace Sys2Proof.Machine

/-- The fields that a RESTART announces: those of slot 0. -/
def State.fields0 (s : State) : RecipeFields := s.recipes.slots[0].fields

/-- The recipes after a RESTART. -/
def restartedRecipes (s : State) : Recipes :=
  { s.recipes with
    base := ⟨0, s.fields0⟩
    overrides := []
    zones := []
    reference := s.pcu.odometer }

theorem armsRestart_restarted {s : State} (hm : s.mc.mode = .settle) (hp : ∀ u, (s.brushOf u).Parked) :
    ArmsRestarted s (armsRestart s) ∧
    ∀ u, ((armsRestart s).armOf u).baseWorking = false ∧ ((armsRestart s).armOf u).goal = ⟨false, false, false⟩ := by
  have h := unitsRestart_restarted hm hp
  have hdef : armsRestart s = armsAnnounced (forUnits armRestartUnit (armsAbandon s)) := rfl
  rw [hdef]
  generalize forUnits armRestartUnit (armsAbandon s) = y at *
  have hy : y.mc.mode = .settle := by rw [h.around.mc, hm]
  have followed := followed_armsAnnounced hy
  obtain ⟨e, goals⟩ := armsAnnounced_settle hy
  generalize armsAnnounced y = x at *
  refine ⟨?_, fun u => by rw [goals]; exact ⟨rfl, rfl⟩⟩
  exact {
    around := by
      refine h.around.trans ?_
      rw [e]
      exact ⟨_, y.brush, y.arb.derate, y.arb.stop, y.cond, [], rfl⟩
    followed := h.followed.trans followed
    fresh := fun u => by
      obtain ⟨h1, h2, h3, h4, h5, h6, h7⟩ := h.fresh u
      rw [goals]
      exact ⟨h1, h2, h3, h4, h5, h6, h7⟩
    queue := by rw [e]; exact h.queue
    action := by rw [e]; exact h.action
    lastEnd := by rw [e]; exact h.lastEnd
    spacing := by rw [e]; exact h.spacing
    demand := by rw [e]; exact h.demand
    records := fun k => by rw [e]; exact h.records k }

/-- What the announcement of a recipe leaves in SETTLE, with the brushes at rest and the water after a RESTART. -/
theorem announceRecipe_settle {s : State} {p : Spray} {f : RecipeFields} (hm : s.mc.mode = .settle)
    (hp : ∀ u, (s.brushOf u).Parked) (hw : s.spray = p.restarted) (hf : s.recipes.top.fields = f) :
    ∃ (a : Arms) (b : Brushes), announceRecipe s = { s with
      drive := { s.drive with
        speedCap := fieldSpeedCap f
        accelStep := fieldAccelStep f
        decelStep := fieldDecelStep f }
      arms := a
      brush := b
      spray := freshWater f
      arb := { s.arb with consumers := recipeLevels f s.arb.consumers }
      sensors := { s.sensors with dustBase := fieldDustBase f } } ∧
    (∀ u, b.units.get u = (s.brushOf u).named (fieldTable f u)) ∧
    (b.step = fieldStep f ∧ b.upRate = fieldUpRate f ∧ b.downRate = fieldDownRate f) ∧
    a = { s.arms with
      units := a.units
      unitsMask := fieldUnitsMask f } ∧ ∀ u, a.units.get u = (s.armOf u).resting := by
  have hdef : announceRecipe s = sensorsRecipe f (arbiterRecipe f (sprayRecipe f (armsRecipe f (brushRecipe f
      (driveRecipe f s))))) := by rw [← hf]; rfl
  obtain ⟨b, eb, hb, h1, h2, h3⟩ := brushRecipe_settled (s := driveRecipe f s) hp f
  rw [eb] at hdef
  let y : State := { s with
    drive := { s.drive with
      speedCap := fieldSpeedCap f
      accelStep := fieldAccelStep f
      decelStep := fieldDecelStep f }
    brush := b
    arms := { s.arms with unitsMask := fieldUnitsMask f } }
  obtain ⟨ea, ha⟩ := armsAnnounced_settle (s := y) hm
  have harms : armsRecipe f { driveRecipe f s with brush := b } = armsAnnounced y := rfl
  rw [harms, ea] at hdef
  have ha : ∀ u, (armsAnnounced y).arms.units.get u = (s.armOf u).resting := ha
  generalize (armsAnnounced y).arms.units = w at *
  let z : State := { y with arms := { y.arms with units := w } }
  have espray : sprayRecipe f z = { z with spray := freshWater f } :=
    sprayRecipe_fresh (s := z) hm hw f
  have hz : announceRecipe s = sensorsRecipe f (arbiterRecipe f (sprayRecipe f z)) := hdef
  rw [espray] at hz
  have hend := sensorsRecipe_still (s := arbiterRecipe f { z with spray := freshWater f }) (still_freshWater f) f
  refine ⟨{ y.arms with units := w }, b, hz.trans hend, hb, ⟨h1, h2, h3⟩, rfl, fun u => ?_⟩
  exact ha u

/-- What a RESTART leaves of the arms and the brushes once the recipe is announced. -/
structure BodyRestarted (s x : State) : Prop where
  fresh : ∀ u, (x.armOf u).Fresh u (s.pins.switches.get u)
  goals : ∀ u, (x.armOf u).baseWorking = false ∧ (x.armOf u).goal = ⟨false, false, false⟩
  queue : x.arms.queue = []
  action : x.arms.action = none
  lastEnd : x.arms.lastEnd = abandonedEnds s
  spacing : x.arms.spacingTimer = none
  demand : x.arms.demand = 0
  mask : x.arms.unitsMask = fieldUnitsMask s.fields0
  records : ∀ u, ∃ sp d, x.brushOf u = (({ s.brushOf u with
    spin := sp
    heightDown := d } : BrushRec).named (fieldTable s.fields0 u))
  rates : x.brush.step = fieldStep s.fields0 ∧ x.brush.upRate = fieldUpRate s.fields0 ∧
    x.brush.downRate = fieldDownRate s.fields0
  spin : ∀ u, SpinCopied u s → SpinCopied u x
  height : ∀ u, HeightCopied u s → HeightCopied u x

/-- What a RESTART leaves up to the announced recipe. -/
structure BlocksRestarted (s x : State) : Prop where
  body : BodyRestarted s x
  eq : ∃ (a : Arms) (b : Brushes) (d st : Bool) (c : CondTable) (more : List Report), x = { s with
    drive := { s.drive with
      speedCap := fieldSpeedCap s.fields0
      accelStep := fieldAccelStep s.fields0
      decelStep := fieldDecelStep s.fields0 }
    arms := a
    brush := b
    spray := freshWater s.fields0
    arb := { Arbiter.restarted s with
      derate := d
      stop := st
      consumers := recipeLevels s.fields0 (s.arb.consumers.map fun c => { c with
        grant := 0
        share := 1000 }) }
    recipes := restartedRecipes s
    sensors := { s.sensors with dustBase := fieldDustBase s.fields0 }
    cond := c
    link := more.foldl LinkPort.post s.link }
  flags : FlagsAgree x
  conditions : ∀ k, x.cond.get k = if k = .supplyStale then .present else faultedRecord s k (s.cond.get k)

/-- The blocks of a RESTART behind the brushes, up to the announced recipe. -/
def restartBehind (s : State) : State := recipesRestart (arbiterRestart (sprayRestart (armsRestart s)))

theorem restartBehind_restarted {s : State} (hm : s.mc.mode = .settle) (hp : ∀ u, (s.brushOf u).Parked)
    (hr : ∀ u, (s.brushOf u).AtRest)
    (hc : s.cond.get .oilHigh ≠ .present ∧ s.cond.get .loopOver ≠ .present ∧ s.cond.get .oilOver ≠ .present) :
    BlocksRestarted s (restartBehind s) := by
  obtain ⟨arms, goals⟩ := armsRestart_restarted hm hp
  have hdef : restartBehind s = recipesRestart (arbiterRestart { armsRestart s with spray := (armsRestart s).spray.restarted }) := rfl
  rw [hdef]
  generalize armsRestart s = x at *
  have hrest : ∀ u, (x.brushOf u).AtRest := fun u => by
    obtain ⟨sp, d, e⟩ := arms.followed.records u
    rw [e]
    exact ⟨(hr u).c, (hr u).out, (hr u).output, (hr u).stallTimer, (hr u).starved⟩
  have kept : ∀ k, (∀ u, k ≠ .switch u) → x.cond.get k = s.cond.get k := fun k hk => by
    rw [arms.records]
    cases k with
    | switch u => exact absurd rfl (hk u)
    | _ => rfl
  obtain ⟨agree, d, st, c, more, earb, hget⟩ := arbiterRestart_parts (s := { x with spray := x.spray.restarted }) hrest
    arms.queue arms.spacing rfl (by
      obtain ⟨h1, h2, h3⟩ := hc
      rw [← kept .oilHigh nofun] at h1
      rw [← kept .loopOver nofun] at h2
      rw [← kept .oilOver nofun] at h3
      exact ⟨h1, h2, h3⟩)
  have hx := arms.around
  rw [earb] at agree ⊢
  obtain ⟨a1, b1, d1, st1, c1, more1, ex⟩ := hx
  obtain ⟨a, b, eann, hb, rates, ha, hunits⟩ := announceRecipe_settle (s := { x with
    spray := x.spray.restarted
    arb := { Arbiter.restarted x with
      derate := d
      stop := st }
    cond := c
    link := more.foldl LinkPort.post x.link
    recipes := { x.recipes with
      base := ⟨0, x.recipes.slots[0].fields⟩
      overrides := []
      zones := []
      reference := x.pcu.odometer } }) (p := x.spray) (f := s.fields0) (by rw [arms.around.mc]; exact hm)
    (fun u => arms.followed.parked (hp u)) rfl (by rw [ex]; rfl)
  have e : recipesRestart { x with
    spray := x.spray.restarted
    arb := { Arbiter.restarted x with
      derate := d
      stop := st }
    cond := c
    link := more.foldl LinkPort.post x.link } = _ := eann
  have hbody : ∀ {y : State}, y.arms = a → y.brush = b → BodyRestarted s y := fun {y} hya hyb => by
    have hyu : ∀ u, y.armOf u = (x.armOf u).resting := fun u => by
      rw [State.armOf, hya]
      exact hunits u
    have hyr : ∀ u, y.brushOf u = (x.brushOf u).named (fieldTable s.fields0 u) := fun u => by
      rw [State.brushOf, hyb]
      exact hb u
    exact {
      fresh := fun u => by
        obtain ⟨h1, h2, h3, h4, h5, h6, h7⟩ := arms.fresh u
        rw [hyu]
        exact ⟨h1, h2, h3, h4, h5, h6, h7⟩
      goals := fun u => by rw [hyu]; exact ⟨rfl, rfl⟩
      queue := by rw [hya, ha]; exact arms.queue
      action := by rw [hya, ha]; exact arms.action
      lastEnd := by rw [hya, ha]; exact arms.lastEnd
      spacing := by rw [hya, ha]; exact arms.spacing
      demand := by rw [hya, ha]; exact arms.demand
      mask := by rw [hya, ha]
      records := fun u => by
        obtain ⟨sp, dn, e⟩ := arms.followed.records u
        exact ⟨sp, dn, by rw [hyr, e]⟩
      rates := by rw [hyb]; exact rates
      spin := fun u h => by
        rw [SpinCopied, hyr, hyu]
        exact arms.followed.spin u h
      height := fun u h => by
        rw [HeightCopied, hyr, hyu]
        exact arms.followed.height u h }
  refine Eq.mpr (congrArg (BlocksRestarted s) e) ?_
  exact {
    body := hbody rfl rfl
    eq := by
      rw [ex]
      exact ⟨a, b, d, st, c, more1 ++ more, by rw [List.foldl_append]; rfl⟩
    flags := agree
    conditions := fun k => by
      rw [← arms.records]
      exact hget k }

end Sys2Proof.Machine
end

section
/-! The channels that start afresh at a RESTART and the readers they tell (R151, R154, log 39). -/

namespace Sys2Proof.Machine

/-- SETTLE with the water still, the brushes undriven and no unit working. -/
structure Quiesced (x : State) : Prop where
  mode : x.mc.mode = .settle
  still : x.spray.Still
  brush : ∀ u, (x.brushOf u).c = 0 ∧ (x.brushOf u).demand = 0
  units : ∀ u, (x.armOf u).baseWorking = false ∧ (x.armOf u).goal = ⟨false, false, false⟩

/-- What the channels' readers change: holds, the tank's flags, conditions with the arbiter's flags, and reports. -/
structure Retold (x y : State) : Prop where
  eq : ∃ (units : PerUnit ArmUnit) (low empty d st : Bool) (c : CondTable) (ch : PerRole Channel) (more : List Report),
    y = { x with
      arms := { x.arms with units := units }
      spray := { x.spray with
        low := low
        empty := empty }
      arb := { x.arb with
        derate := d
        stop := st }
      sensors := { x.sensors with channels := ch }
      cond := c
      link := more.foldl LinkPort.post x.link }
  units : ∀ u, ∃ hs, y.armOf u = { x.armOf u with holds := hs }
  flags : FlagsAgree x → FlagsAgree y

theorem Retold.refl (x : State) : Retold x x where
  eq := ⟨x.arms.units, x.spray.low, x.spray.empty, x.arb.derate, x.arb.stop, x.cond, x.sensors.channels, [], rfl⟩
  units := fun u => ⟨(x.armOf u).holds, rfl⟩
  flags := id

theorem Retold.trans {x y z : State} (h : Retold x y) (k : Retold y z) : Retold x z where
  eq := by
    obtain ⟨a, l, e, d, st, c, ch, more, rfl⟩ := h.eq
    obtain ⟨a', l', e', d', st', c', ch', more', q⟩ := k.eq
    exact ⟨a', l', e', d', st', c', ch', more ++ more', q.trans (by rw [List.foldl_append])⟩
  units := fun u => by
    obtain ⟨hs, e⟩ := h.units u
    obtain ⟨hs', e'⟩ := k.units u
    exact ⟨hs', e'.trans (by rw [e])⟩
  flags := fun hx => k.flags (h.flags hx)

theorem Retold.quiesced {x y : State} (h : Retold x y) (q : Quiesced x) : Quiesced y := by
  obtain ⟨a, l, e, d, st, c, ch, more, hy⟩ := h.eq
  exact {
    mode := by rw [hy]; exact q.mode
    still := by rw [hy]; exact ⟨q.still.wanted, q.still.q, q.still.seq⟩
    brush := fun u => by rw [hy]; exact q.brush u
    units := fun u => by
      obtain ⟨hs, e⟩ := h.units u
      rw [e]
      exact q.units u }

theorem Retold.setup {x y : State} (h : Retold x y) : y.setup = x.setup := by
  obtain ⟨a, l, e, d, st, c, ch, more, hy⟩ := h.eq
  rw [hy]

/-! ## Each reader -/

theorem retold_notice (k : CondKind) (p : Bool) (x : State) : Retold x (notice k p x) := by
  obtain ⟨w, d, st, c, more, h⟩ := aside_notice k p x
  have hw : (notice k p x).spray = x.spray := notice_spray _ _ _
  rw [h] at hw
  have hw : w = x.spray := hw
  subst hw
  exact {
    eq := ⟨x.arms.units, x.spray.low, x.spray.empty, d, st, c, x.sensors.channels, more, h⟩
    units := fun u => ⟨(x.armOf u).holds, by rw [h]; rfl⟩
    flags := fun hx => flagsAgree_notice hx k p }

theorem retold_testKind (k : CondKind) (c d : Prop) [Decidable c] [Decidable d] (x : State) :
    Retold x (testKind k c d x) := by
  unfold testKind
  split
  · exact retold_notice _ _ _
  · split
    · exact retold_notice _ _ _
    · exact Retold.refl x

theorem retold_oilTest {x : State} (hm : x.mc.mode = .settle) : Retold x (oilTest x) := by
  have h1 : Retold x (oilHighTest (x.sensor .oilT) x) := retold_testKind .oilHigh _ _ x
  have hdef : oilTest x = oilOverTest (x.sensor .oilT) (oilHighTest (x.sensor .oilT) x) := rfl
  rw [hdef]
  have hm1 : (oilHighTest (x.sensor .oilT) x).mc.mode = .settle := by
    rw [(oneTested_oilHigh (x.sensor .oilT) x).aside.mc]
    exact hm
  generalize oilHighTest (x.sensor .oilT) x = y at *
  refine h1.trans ?_
  have hf : forcedParking (notice .oilOver true y) = notice .oilOver true y :=
    forcedParking_stays (by rw [notice_mc, hm1]; decide)
  rw [oilOverTest, hf]
  exact retold_testKind .oilOver _ _ y

theorem retold_loopTest (x : State) : Retold x (loopTest x) := retold_testKind .loopOver _ _ x

theorem retold_flags (x : State) (low empty : Bool) : Retold x { x with spray := { x.spray with
    low := low
    empty := empty } } where
  eq := ⟨x.arms.units, low, empty, x.arb.derate, x.arb.stop, x.cond, x.sensors.channels, [], rfl⟩
  units := fun u => ⟨(x.armOf u).holds, rfl⟩
  flags := id

theorem retold_setLow {x : State} (h : x.spray.Still) (flag : Bool) : Retold x (setLow flag x) := by
  by_cases hf : flag = x.spray.low
  · rw [setLow, if_pos hf]
    exact Retold.refl x
  · have ht := (retold_flags x flag x.spray.empty).trans (retold_notice .tankLow flag { x with spray := { x.spray with
      low := flag } })
    have hs : (notice .tankLow flag { x with spray := { x.spray with low := flag } }).spray.Still := by
      rw [notice_spray]
      exact ⟨h.wanted, h.q, h.seq⟩
    rw [setLow, if_neg hf, evaluateFlow_still hs]
    exact ht

theorem retold_setEmpty {x : State} (hm : x.mc.mode = .settle) (h : x.spray.Still) (flag : Bool) :
    Retold x (setEmpty flag x) := by
  by_cases hf : flag = x.spray.empty
  · rw [setEmpty, if_pos hf]
    exact Retold.refl x
  · have ht := (retold_flags x x.spray.low flag).trans (retold_notice .tankEmpty flag { x with spray := { x.spray with
      empty := flag } })
    have hs : (notice .tankEmpty flag { x with spray := { x.spray with empty := flag } }).spray.Still := by
      rw [notice_spray]
      exact ⟨h.wanted, h.q, h.seq⟩
    have hn : (notice .tankEmpty flag { x with spray := { x.spray with empty := flag } }).mc.mode = .settle := by
      rw [notice_mc]
      exact hm
    rw [setEmpty, if_neg hf, formWanted_still hn hs]
    exact ht

theorem retold_tankTest {x : State} (q : Quiesced x) : Retold x (tankTest x) := by
  have h1 : Retold x (setLow (tankFlag x.spray.low (x.sensor .tank) x.setup.tankLow x.setup.tankHyst) x) :=
    retold_setLow q.still _
  unfold tankTest
  dsimp only
  generalize setLow (tankFlag x.spray.low (x.sensor .tank) x.setup.tankLow x.setup.tankHyst) x = y at *
  have hy := h1.quiesced q
  exact h1.trans (retold_setEmpty hy.mode hy.still _)

theorem refreshBrushDemand_still {x : State} {u : BrushUnit} (h : (x.brushOf u).c = 0 ∧ (x.brushOf u).demand = 0) :
    refreshBrushDemand u x = x := by
  have hd : brushDemand x u (x.brushOf u).c = (x.brushOf u).demand := by
    rw [h.1, h.2, brushDemand, Int.mul_zero, Int.zero_mul]
    rfl
  rw [refreshBrushDemand, hd]
  exact State.putBrush_brushOf_self x u

theorem tellReaders_auxP_still {x : State} (q : Quiesced x) : tellReaders .auxP x = x := by
  have h : tellReaders .auxP x = refreshBrushDemand .m (refreshBrushDemand .r (refreshBrushDemand .l x)) := rfl
  rw [h, refreshBrushDemand_still (q.brush .l), refreshBrushDemand_still (q.brush .r), refreshBrushDemand_still (q.brush .m)]

/-- The goal of a unit that does not work is formed already. -/
theorem reformGoal_still {x : State} {u : BrushUnit} (hm : x.mc.mode = .settle)
    (h : (x.armOf u).baseWorking = false ∧ (x.armOf u).goal = ⟨false, false, false⟩) : reformGoal u x = x := by
  have hf : (x.armOf u).formed u (baseWorking x u) = x.armOf u := by
    have hg : goalOf u false (x.armOf u).holds = (x.armOf u).goal := by rw [h.2]; rfl
    rw [baseWorking_settle hm, ArmUnit.formed, hg, ← h.1]
  rw [reformGoal_putsGoal (by rw [hm]; rfl), hf]
  exact putArm_self x u

/-- A unit that does not work takes a hold: it joins the set, and a report is posted. -/
theorem takeHold_settle {x : State} {u : BrushUnit} {h : Hold} (q : Quiesced x) (hh : h ∉ (x.armOf u).holds) :
    ∃ r : Report, takeHold u h x = (x.putArm u { x.armOf u with holds := (x.armOf u).holds ++ [h] }).post r := by
  rw [takeHold_free u x hh, unitReport_putArm]
  refine ⟨_, reformGoal_still q.mode ?_⟩
  have e : ∀ (a : ArmUnit) (r : Report), ((x.putArm u a).post r).armOf u = a := fun a r => State.armOf_putArm x u a
  rw [e]
  exact q.units u

theorem retold_curbRead {x : State} {u : BrushUnit} (q : Quiesced x) (hh : (x.armOf u).holds = []) :
    Retold x (curbRead u x) ∧ (curbRead u x).cond = x.cond ∧ (curbRead u x).spray = x.spray ∧
    (∀ v, v ≠ u → (curbRead u x).armOf v = x.armOf v) ∧
    ((curbRead u x).armOf u).holds = if x.sensor (curbRole u) < x.setup.obstacle then [.sensed] else [] := by
  rw [curbRead_free (u := u) (s := x) (by rw [hh]; exact List.not_mem_nil)]
  by_cases h : x.sensor (curbRole u) < x.setup.obstacle
  · obtain ⟨r, e⟩ := takeHold_settle (h := .sensed) q (by rw [hh]; exact List.not_mem_nil)
    rw [if_pos h, if_pos h, e]
    have hu : ∀ v, ((x.putArm u { x.armOf u with holds := (x.armOf u).holds ++ [.sensed] }).post r).armOf v =
        if v = u then { x.armOf u with holds := (x.armOf u).holds ++ [.sensed] } else x.armOf v :=
      fun v => PerUnit.get_set _ _ _ _
    refine ⟨?_, rfl, rfl, fun v hv => ?_, ?_⟩
    · exact {
        eq := ⟨_, x.spray.low, x.spray.empty, x.arb.derate, x.arb.stop, x.cond, x.sensors.channels, [r], rfl⟩
        units := fun v => by
          rw [hu]
          split
          · next hv => exact ⟨_, by rw [hv]⟩
          · exact ⟨_, rfl⟩
        flags := id }
    · rw [hu, if_neg hv]
    · rw [hu, if_pos rfl, hh]
      rfl
  · rw [if_neg h, if_neg h]
    exact ⟨Retold.refl x, rfl, rfl, fun _ _ => rfl, hh⟩

end Sys2Proof.Machine
end

section
/-! The conditions behind the channels' fresh start (R104, R154, R157, R158). -/

namespace Sys2Proof.Machine

/-- The hystereses of the limits are not below 0. -/
structure HystOk (x : Setup) : Prop where
  oil : 0 ≤ x.oilHyst
  tank : 0 ≤ x.tankHyst
  loop : 0 ≤ x.loopHyst

theorem SetupOk.hyst {s : State} (h : SetupOk s) : HystOk s.setup where
  oil := (h.range 5 5 s.setup.oilHyst (0, 20) (by simp [Setup.group, Setup.oilHyst]) rfl).1
  tank := (h.range 2 6 s.setup.tankHyst (0, 500) (by simp [Setup.group, Setup.tankHyst]) rfl).1
  loop := (h.range 5 7 s.setup.loopHyst (0, 1000) (by simp [Setup.group, Setup.loopHyst]) rfl).1

/-- The kinds that the tests of the oil, the loop and the tank change. -/
def testedKinds : List CondKind := [.oilHigh, .oilOver, .loopOver, .tankLow, .tankEmpty]

/-- The conditions while the channels start afresh: what a test has raised, the substitute holds. -/
structure Tested (g x : State) : Prop where
  low : x.spray.low = true → x.setup.storedSubstitute .tank ≤ x.setup.tankLow
  empty : x.spray.empty = true → x.setup.storedSubstitute .tank ≤ x.setup.tankEmpty
  tankLow : x.cond.tankLow = if x.spray.low then .present else .clear
  tankEmpty : x.cond.tankEmpty = if x.spray.empty then .present else .clear
  oilHigh : x.cond.oilHigh = .clear ∨ x.cond.oilHigh = .present
  oilOver : x.cond.oilOver = .clear ∨ x.cond.oilOver = .present ∧ x.setup.oilOver ≤ x.setup.oilHigh
  loopOver : x.cond.loopOver = .clear ∨ x.cond.loopOver = .present
  others : ∀ k, k ∉ testedKinds → x.cond.get k = g.cond.get k

section
variable {g x : State}

/-- Readers that change no condition and no flag of the tank. -/
theorem Tested.same (h : Tested g x) {y : State} (hc : y.cond = x.cond) (hp : y.spray = x.spray) (hs : y.setup = x.setup) :
    Tested g y := by
  obtain ⟨h1, h2, h3, h4, h5, h6, h7, h8⟩ := h
  exact ⟨by rwa [hp, hs], by rwa [hp, hs], by rwa [hc, hp], by rwa [hc, hp], by rwa [hc], by rwa [hc, hs], by rwa [hc],
    by rwa [hc]⟩

theorem Tested.oilTest (h : Tested g x) (hm : x.mc.mode = .settle) (hh : 0 ≤ x.setup.oilHyst)
    (hv : x.sensor .oilT = x.setup.oilHigh) :
    Tested g (oilTest x) ∧ (oilTest x).cond.oilHigh = .present ∧
    (oilTest x).cond.oilOver = if x.setup.oilOver ≤ x.setup.oilHigh then .present else .clear := by
  have hdef : Machine.oilTest x = oilOverTest x.setup.oilHigh (oilHighTest x.setup.oilHigh x) := by
    rw [← hv]
    rfl
  have t1 := oneTested_oilHigh x.setup.oilHigh x
  rw [hdef]
  generalize oilHighTest x.setup.oilHigh x = y at *
  have t2 := oneTested_oilOver (t := x.setup.oilHigh) (s := y) (by rw [t1.aside.mc]; exact hm)
  have hkept : y.cond.oilOver = x.cond.oilOver := t1.get .oilOver
  rw [hkept, t1.aside.setup] at t2
  generalize oilOverTest x.setup.oilHigh y = z at *
  have hset : z.setup = x.setup := t2.aside.setup.trans t1.aside.setup
  have hspray : z.spray = x.spray := t2.spray.trans t1.spray
  have high : z.cond.oilHigh = .present := by
    refine ((t2.get .oilHigh).trans (t1.get .oilHigh)).trans ?_
    rcases h.oilHigh with hc | hc
    · rw [hc]
      simp
    · rw [hc]
      simp [hh]
  have above : z.cond.oilOver = if x.setup.oilOver ≤ x.setup.oilHigh then .present else .clear := by
    refine (t2.get .oilOver).trans ?_
    rcases h.oilOver with hc | ⟨hc, hle⟩
    · rw [hc]
      simp
    · have hn : ¬ x.setup.oilHigh < x.setup.oilOver - x.setup.oilHyst := by omega
      rw [hc]
      simp [hle, hn]
  have others : ∀ k, k ≠ .oilHigh → k ≠ .oilOver → z.cond.get k = x.cond.get k := fun k k1 k2 => by
    rw [t2.get, if_neg k2, t1.get, if_neg k1]
  refine ⟨?_, high, above⟩
  exact {
    low := by rw [hspray, hset]; exact h.low
    empty := by rw [hspray, hset]; exact h.empty
    tankLow := by rw [hspray]; exact (others .tankLow nofun nofun).trans h.tankLow
    tankEmpty := by rw [hspray]; exact (others .tankEmpty nofun nofun).trans h.tankEmpty
    oilHigh := .inr high
    oilOver := by
      rw [above, hset]
      by_cases hle : x.setup.oilOver ≤ x.setup.oilHigh
      · exact .inr ⟨if_pos hle, hle⟩
      · exact .inl (if_neg hle)
    loopOver := by rw [show z.cond.loopOver = x.cond.loopOver from others .loopOver nofun nofun]; exact h.loopOver
    others := fun k hk => by
      simp only [testedKinds, List.mem_cons, not_or] at hk
      rw [others k hk.1 hk.2.1, h.others k (by simp only [testedKinds, List.mem_cons, not_or]; exact hk)] }

theorem Tested.loopTest (h : Tested g x) : Tested g (loopTest x) := by
  have t := oneTested_loopOver x
  generalize Machine.loopTest x = y at *
  have others : ∀ k, k ≠ .loopOver → y.cond.get k = x.cond.get k := fun k k1 => by rw [t.get, if_neg k1]
  exact {
    low := by rw [t.spray, t.aside.setup]; exact h.low
    empty := by rw [t.spray, t.aside.setup]; exact h.empty
    tankLow := by rw [t.spray]; exact (others .tankLow nofun).trans h.tankLow
    tankEmpty := by rw [t.spray]; exact (others .tankEmpty nofun).trans h.tankEmpty
    oilHigh := by rw [show y.cond.oilHigh = x.cond.oilHigh from others .oilHigh nofun]; exact h.oilHigh
    oilOver := by rw [show y.cond.oilOver = x.cond.oilOver from others .oilOver nofun, t.aside.setup]; exact h.oilOver
    loopOver := by
      rw [show y.cond.loopOver = _ from t.get .loopOver, if_pos rfl]
      split
      · exact .inr rfl
      · split
        · exact .inl rfl
        · exact h.loopOver
    others := fun k hk => by
      rw [others k fun hl => hk (by rw [hl]; decide), h.others k hk] }

/-- A flag under a substitute that stands, whatever the flag was. -/
theorem tankFlag_settled {flag : Bool} {level threshold hyst : Int} (hh : 0 ≤ hyst) (h : flag = true → level ≤ threshold) :
    tankFlag flag level threshold hyst = decide (level ≤ threshold) := by
  cases flag with
  | false => rfl
  | true =>
    have hl := h rfl
    rw [decide_eq_true hl]
    simp only [tankFlag, if_true, Bool.not_eq_true', decide_eq_false_iff_not]
    omega

/-- The record of a flag that is told. -/
theorem toldRecord_flag {k : CondKind} (hk : k.latching = false) (flag before : Bool) :
    toldRecord k (flag = before) flag (if before then .present else .clear) = if flag then .present else .clear := by
  cases flag <;> cases before <;> simp [toldRecord, hk]

theorem Tested.tankTest (h : Tested g x) (hh : 0 ≤ x.setup.tankHyst) (hv : x.sensor .tank = x.setup.storedSubstitute .tank) :
    Tested g (tankTest x) ∧ (tankTest x).spray.low = decide (x.setup.storedSubstitute .tank ≤ x.setup.tankLow) ∧
    (tankTest x).spray.empty = decide (x.setup.storedSubstitute .tank ≤ x.setup.tankEmpty) := by
  have t := tankTest_tested x
  generalize Machine.tankTest x = y at *
  have low : y.spray.low = decide (x.setup.storedSubstitute .tank ≤ x.setup.tankLow) := by
    rw [t.low, hv]
    exact tankFlag_settled hh h.low
  have empty : y.spray.empty = decide (x.setup.storedSubstitute .tank ≤ x.setup.tankEmpty) := by
    rw [t.empty, hv]
    exact tankFlag_settled hh h.empty
  have others := t.others
  refine ⟨?_, low, empty⟩
  exact {
    low := fun hl => by
      rw [t.aside.setup]
      exact of_decide_eq_true (low.symm.trans hl)
    empty := fun hl => by
      rw [t.aside.setup]
      exact of_decide_eq_true (empty.symm.trans hl)
    tankLow := by rw [t.tankLow, h.tankLow, toldRecord_flag rfl]
    tankEmpty := by rw [t.tankEmpty, h.tankEmpty, toldRecord_flag rfl]
    oilHigh := by rw [show y.cond.oilHigh = x.cond.oilHigh from others .oilHigh nofun nofun]; exact h.oilHigh
    oilOver := by rw [show y.cond.oilOver = x.cond.oilOver from others .oilOver nofun nofun, t.aside.setup]; exact h.oilOver
    loopOver := by rw [show y.cond.loopOver = x.cond.loopOver from others .loopOver nofun nofun]; exact h.loopOver
    others := fun k hk => by
      rw [others k (fun hl => hk (by rw [hl]; decide)) (fun hl => hk (by rw [hl]; decide)), h.others k hk] }

end

end Sys2Proof.Machine
end

section
/-! Every channel starts afresh, in role order (R151, R154, log 39). -/

namespace Sys2Proof.Machine

theorem Aside.arms {b x : State} (h : Aside b x) : x.arms = b.arms := by
  obtain ⟨p, d, st, c, more, rfl⟩ := h
  rfl

theorem oilTest_arms {x : State} (hm : x.mc.mode = .settle) : (oilTest x).arms = x.arms := by
  have t1 := oneTested_oilHigh (x.sensor .oilT) x
  have hdef : oilTest x = oilOverTest (x.sensor .oilT) (oilHighTest (x.sensor .oilT) x) := rfl
  rw [hdef]
  generalize oilHighTest (x.sensor .oilT) x = y at *
  have t2 := oneTested_oilOver (t := x.sensor .oilT) (s := y) (by rw [t1.aside.mc]; exact hm)
  exact t2.aside.arms.trans t1.aside.arms

/-- What the readers of a role that starts afresh do. -/
structure TellsFresh (g : State) (r : Role) (y t : State) : Prop where
  retold : Retold y t
  tested : HystOk y.setup → Tested g y → Tested g t
  curb : ∀ u, u ≠ .m → r = curbRole u →
    (t.armOf u).holds = if y.setup.storedSubstitute (curbRole u) < y.setup.obstacle then [.sensed] else []
  others : ∀ u, (u = .m ∨ r ≠ curbRole u) → t.armOf u = y.armOf u

/-- Readers that no arm answers to. -/
theorem tellsFresh_plain {g : State} {r : Role} {y t : State} (h : Retold y t) (ha : t.arms = y.arms)
    (ht : HystOk y.setup → Tested g y → Tested g t) (hr : ∀ u, r ≠ curbRole u) : TellsFresh g r y t where
  retold := h
  tested := ht
  curb := fun u _ e => absurd e (hr u)
  others := fun u _ => congrArg (fun a : Arms => a.units.get u) ha

theorem curbRole_inj {u v : BrushUnit} (hu : u ≠ .m) (hv : v ≠ .m) (h : curbRole u = curbRole v) : u = v := by
  cases u <;> cases v <;> first | rfl | exact absurd rfl hu | exact absurd rfl hv | cases h

/-- The reader of an arm's curb value. -/
theorem tellsFresh_curb {g : State} {u : BrushUnit} {y : State} (hu : u ≠ .m) (q : Quiesced y)
    (hh : (y.armOf u).holds = []) (hv : y.sensor (curbRole u) = y.setup.storedSubstitute (curbRole u)) :
    TellsFresh g (curbRole u) y (curbRead u y) := by
  obtain ⟨h, hc, hw, others, hold⟩ := retold_curbRead q hh
  rw [hv] at hold
  exact {
    retold := h
    tested := fun _ ht => ht.same hc hw h.setup
    curb := fun v hvm e => by
      rw [← curbRole_inj hu hvm e]
      exact hold
    others := fun v hvm => others v (by
      rintro rfl
      exact hvm.elim hu fun hn => hn rfl) }

theorem sensor_fresh {y : State} {r : Role} (h : (y.sensors.channels.get r).state.usable = false) :
    y.sensor r = y.substitute r := sensor_unusable (by rw [h]; exact Bool.false_ne_true)

theorem tellReaders_fresh {g y : State} {r : Role} (q : Quiesced y)
    (hf : (y.sensors.channels.get r).state.usable = false) (hh : ∀ u, u ≠ .m → r = curbRole u → (y.armOf u).holds = []) :
    TellsFresh g r y (tellReaders r y) := by
  have hv := sensor_fresh hf
  cases r with
  | drivePA =>
    exact tellsFresh_plain (retold_loopTest y) (oneTested_loopOver y).aside.arms (fun _ h => h.loopTest)
      (fun u => by cases u <;> decide)
  | drivePB =>
    exact tellsFresh_plain (retold_loopTest y) (oneTested_loopOver y).aside.arms (fun _ h => h.loopTest)
      (fun u => by cases u <;> decide)
  | auxP =>
    rw [tellReaders_auxP_still q]
    exact tellsFresh_plain (Retold.refl y) rfl (fun _ h => h) (fun u => by cases u <;> decide)
  | oilT =>
    exact tellsFresh_plain (retold_oilTest q.mode) (oilTest_arms q.mode) (fun hy h => (h.oilTest q.mode hy.oil hv).1)
      (fun u => by cases u <;> decide)
  | tank =>
    exact tellsFresh_plain (retold_tankTest q) (tankTest_tested y).aside.arms (fun hy h => (h.tankTest hy.tank hv).1)
      (fun u => by cases u <;> decide)
  | dust =>
    have e : tellReaders .dust y = y := evaluateFlow_still q.still
    rw [e]
    exact tellsFresh_plain (Retold.refl y) rfl (fun _ h => h) (fun u => by cases u <;> decide)
  | curbL => exact tellsFresh_curb (u := .l) (by decide) q (hh .l (by decide) rfl) hv
  | curbR => exact tellsFresh_curb (u := .r) (by decide) q (hh .r (by decide) rfl) hv

/-! ## The fold over the roles -/

/-- A unit takes SENSED as its channel starts afresh. -/
def takesSensed (g : State) (u : BrushUnit) : Prop :=
  u ≠ .m ∧ g.usable (curbRole u) = true ∧ g.setup.storedSubstitute (curbRole u) < g.setup.obstacle

/-- The roles of `left` have still to start afresh. -/
structure Polling (g : State) (left : List Role) (x : State) : Prop where
  retold : Retold g x
  channels : ∀ r, x.sensors.channels.get r =
    if r ∈ left then g.sensors.channels.get r else Channel.fresh (startState (g.setup.address r))
  sensed : ∀ u, curbRole u ∉ left → takesSensed g u → (x.armOf u).holds = [.sensed]
  free : ∀ u, (curbRole u ∈ left ∨ ¬ takesSensed g u) → (x.armOf u).holds = []
  tested : HystOk g.setup → Tested g x

theorem fresh_unusable (a : Int) : (Channel.fresh (startState a)).state.usable = false := by
  unfold startState
  split <;> rfl

theorem PerRole.get_set {α : Type} (p : PerRole α) (r q : Role) (a : α) :
    (p.set r a).get q = if q = r then a else p.get q := by cases r <;> cases q <;> rfl

/-- The readers say nothing of the channels. -/
theorem told_sameSensors (c : SensorMaster) : Told fun x => x.sensors = c :=
  have plain : Plain fun x => x.sensors = c := {
    planned_sameSensors c with
    anyArms := fun _ _ h => h
    anyRecord := fun _ _ _ h => by simpa using h }
  { water := tank_of_spray (fun _ _ h => h) (fun s k v h => plain.anyRecord s k v h)
    brush := plain.brush
    arms := plain.armed
    record := plain.anyRecord
    travel := plain.travel
    post := plain.post }

theorem tellReaders_sensors (r : Role) (s : State) : (tellReaders r s).sensors = s.sensors :=
  (told_sameSensors s.sensors).tellReaders rfl

/-- One role starts afresh. -/
theorem Polling.step {g x : State} {r : Role} {rest : List Role} (h : Polling g (r :: rest) x) (q : Quiesced g)
    (hr : r ∉ rest) : Polling g rest (restartChannel r x) := by
  let y := x.putChannel r (Channel.fresh (startState (x.setup.address r)))
  have hset : x.setup = g.setup := h.retold.setup
  have hxy : Retold x y := {
    eq := ⟨x.arms.units, x.spray.low, x.spray.empty, x.arb.derate, x.arb.stop, x.cond, _, [], rfl⟩
    units := fun u => ⟨(x.armOf u).holds, rfl⟩
    flags := id }
  have hy := h.retold.trans hxy
  have hch : ∀ p, y.sensors.channels.get p =
      if p ∈ rest then g.sensors.channels.get p else Channel.fresh (startState (g.setup.address p)) := fun p => by
    refine (PerRole.get_set _ _ _ _).trans ?_
    by_cases hp : p = r
    · rw [if_pos hp, hp, if_neg hr, hset]
    · rw [if_neg hp, h.channels]
      exact if_congr (by simp [hp]) rfl rfl
  have husable : x.usable r = g.usable r := by
    rw [State.usable, h.channels, if_pos List.mem_cons_self]
    rfl
  have htested : HystOk g.setup → Tested g y := fun hh => (h.tested hh).same rfl rfl rfl
  have hyu : ∀ u, y.armOf u = x.armOf u := fun _ => rfl
  have hdef : restartChannel r x = if g.usable r = true then tellReaders r y else y := by
    rw [← husable]
    rfl
  rw [hdef]
  by_cases hu : g.usable r = true
  · rw [if_pos hu]
    have hfresh : (y.sensors.channels.get r).state.usable = false := by
      rw [hch, if_neg hr]
      exact fresh_unusable _
    have tells := tellReaders_fresh (g := g) (hy.quiesced q) hfresh fun u _ e => by
      rw [hyu]
      exact h.free u (.inl (by rw [← e]; exact List.mem_cons_self))
    have hys : y.setup = g.setup := hset
    have hsensors := tellReaders_sensors r y
    clear_value y
    generalize tellReaders r y = t at *
    exact {
      retold := hy.trans tells.retold
      channels := by rw [hsensors]; exact hch
      sensed := fun u hn ht => by
        by_cases he : r = curbRole u
        · rw [tells.curb u ht.1 he, hys, if_pos ht.2.2]
        · rw [tells.others u (.inr he), hyu]
          exact h.sensed u (by simp [hn, Ne.symm he]) ht
      free := fun u hn => by
        by_cases he : u ≠ .m ∧ r = curbRole u
        · obtain ⟨hm, he⟩ := he
          have ht : ¬ takesSensed g u := hn.resolve_left fun hl => hr (he ▸ hl)
          rw [tells.curb u hm he, hys, if_neg fun hl => ht ⟨hm, he ▸ hu, hl⟩]
        · rw [tells.others u (by simpa [or_iff_not_imp_left] using he), hyu]
          exact h.free u (hn.imp_left (List.mem_cons_of_mem r))
      tested := fun hh => tells.tested (by rw [hys]; exact hh) (htested hh) }
  · rw [if_neg hu]
    exact {
      retold := hy
      channels := hch
      sensed := fun u hn ht => by
        have hne : curbRole u ≠ r := fun e => hu (e ▸ ht.2.1)
        exact h.sensed u (by simp [hne, hn]) ht
      free := fun u hn => by
        rcases hn with hn | hn
        · exact h.free u (.inl (List.mem_cons_of_mem r hn))
        · exact h.free u (.inr hn)
      tested := htested }

end Sys2Proof.Machine
end

section
/-! The round that a RESTART begins and the tests that end it (R146, R147, R152, R154, R164). -/

namespace Sys2Proof.Machine

/-! ## The round -/

/-- The roles that are due in a round with the counter 0: those with an address. -/
def addressed (x : Setup) : List Role :=
  [Role.drivePA, .drivePB, .auxP, .oilT, .tank, .dust, .curbL, .curbR].filter fun r => x.address r ≠ 0

/-- The settings of a round. -/
def pollSettings (x : Setup) : PerRole PollSettings :=
  let of (r : Role) : PollSettings := ⟨x.queryFirst r, x.holdWarming r⟩
  ⟨of .drivePA, of .drivePB, of .auxP, of .oilT, of .tank, of .dust, of .curbL, of .curbR⟩

/-- Every channel starts afresh, with the counter 0. -/
structure AllFresh (p : State) : Prop where
  channels : ∀ r, p.sensors.channels.get r = Channel.fresh (startState (p.setup.address r))
  counter : p.sensors.counter = 0

section
variable {p : State} (h : AllFresh p)
include h

theorem AllFresh.newRound : newRound p = ⟨addressed p.setup, none, pollSettings p.setup, false⟩ := by
  have hdue : roleDue p = fun r => decide (p.setup.address r ≠ 0) := by
    rw [roleDue_eq]
    funext r
    rw [h.counter, Nat.zero_mod, h.channels, decide_eq_decide]
    unfold startState
    by_cases ha : p.setup.address r = 0
    · simp [ha, Channel.fresh]
    · simp [ha, Channel.fresh]
  rw [Machine.newRound, hdue]
  rfl

theorem AllFresh.pollCommand (r : Role) (q : PollSettings) (ha : p.setup.address r ≠ 0) :
    pollCommand (p.sensors.channels.get r) q = .identify := by
  rw [h.channels, startState, if_neg ha]
  rfl

/-- The round that begins with every channel fresh. -/
theorem AllFresh.startRound :
    (addressed p.setup = [] → (startRound p).sensors.counter = 1 ∧ (startRound p).sensors.round = none ∧
      (startRound p).sensors.line = p.sensors.line) ∧
    (addressed p.setup ≠ [] → p.sensors.line ≠ .idle → (startRound p).sensors.counter = 0 ∧
      (startRound p).sensors.round = some ⟨addressed p.setup, none, pollSettings p.setup, false⟩ ∧
      (startRound p).sensors.line = p.sensors.line) ∧
    (∀ r rest, addressed p.setup = r :: rest → p.sensors.line = .idle → (startRound p).sensors.counter = 0 ∧
      (startRound p).sensors.round = some ⟨rest, none, pollSettings p.setup, false⟩ ∧
      (startRound p).sensors.line = .sending
        ⟨r, .identify, byte (p.setup.address r).toNat, p.setup.holdWarming r, false, false⟩
        (masterFrame (byte (p.setup.address r).toNat) .identify) (p.after 160)) := by
  rw [startRound_begins, h.newRound]
  refine ⟨fun hd => ?_, fun hd hl => ?_, fun r rest hd hl => ?_⟩
  · rw [if_pos (show addressed p.setup = [] from hd)]
    refine ⟨?_, rfl, rfl⟩
    show (p.sensors.counter + 1) % 65536 = 1
    rw [h.counter]
  · rw [if_neg (show ¬ addressed p.setup = [] from hd), if_neg hl]
    refine ⟨h.counter, ?_, rfl⟩
    show some (Machine.newRound p) = _
    rw [h.newRound]
  · have hn : ¬ addressed p.setup = [] := by
      rw [hd]
      exact List.cons_ne_nil r rest
    have hr : p.setup.address r ≠ 0 := by
      have hm : r ∈ addressed p.setup := by
        rw [hd]
        exact List.mem_cons_self
      exact of_decide_eq_true (List.mem_filter.1 hm).2
    have hpoll : Machine.pollCommand ((roundBegun p).sensors.channels.get r) ((pollSettings p.setup).get r) = .identify :=
      h.pollCommand r _ hr
    have hwarm : ((pollSettings p.setup).get r).holdWarming = p.setup.holdWarming r := by cases r <;> rfl
    rw [if_neg (show ¬ addressed p.setup = [] from hn), if_pos hl,
      nextTransaction_polls (r := r) (rest := rest) rfl hd, hpoll, ← hwarm]
    exact ⟨h.counter, rfl, rfl⟩

end

/-! ## The channels and the round together -/

theorem polling_fold {g : State} (q : Quiesced g) : ∀ (l : List Role) (x : State), l.Nodup → Polling g l x →
    Polling g [] (l.foldl (fun s r => restartChannel r s) x)
  | [], _, _, h => h
  | r :: rest, _, hn, h => by
    obtain ⟨hr, hrest⟩ := List.nodup_cons.1 hn
    exact polling_fold q rest _ hrest (h.step q hr)

theorem polling_start {g : State} (hh : ∀ u, (g.armOf u).holds = []) (ht : HystOk g.setup → Tested g g) :
    Polling g allRoles g where
  retold := Retold.refl g
  channels := fun r => (if_pos (by cases r <;> decide)).symm
  sensed := fun u hn => absurd (by cases u <;> decide) hn
  free := fun u _ => hh u
  tested := ht

/-- The Sensor Link Master emptied, before the channels start afresh. -/
def sensorsEmptied (s : State) : State :=
  { s with sensors := { s.sensors with
    line := discardedLine s.sensors.line
    round := none
    roundTimer := none
    counter := 0 } }

theorem sensorsRestart_eq (s : State) :
    sensorsRestart s = startRound (allRoles.foldl (fun s r => restartChannel r s) (sensorsEmptied s)) := by
  have hl : s.sensors.line.mark (fun tx => { tx with
      orphan := true
      discard := true }) = discardedLine s.sensors.line := by cases s.sensors.line <;> rfl
  unfold sensorsRestart
  rw [hl]
  rfl

/-- The end of a RESTART: the channels, the round and the last tests. -/
def restartEnd (s : State) : State := tankTest (loopTest (oilTest (sensorsRestart s)))

/-- What the end of a RESTART changes. -/
structure Ended (g t : State) : Prop where
  eq : ∃ (units : PerUnit ArmUnit) (low empty d st : Bool) (c : CondTable) (m : SensorMaster) (more : List Report),
    t = { g with
      arms := { g.arms with units := units }
      spray := { g.spray with
        low := low
        empty := empty }
      arb := { g.arb with
        derate := d
        stop := st }
      sensors := m
      cond := c
      link := more.foldl LinkPort.post g.link }
  units : ∀ u, ∃ hs, t.armOf u = { g.armOf u with holds := hs }
  flags : FlagsAgree g → FlagsAgree t

theorem Retold.ended {x y : State} (h : Retold x y) : Ended x y where
  eq := by
    obtain ⟨a, l, e, d, st, c, ch, more, q⟩ := h.eq
    exact ⟨a, l, e, d, st, c, _, more, q⟩
  units := h.units
  flags := h.flags

theorem ended_sensors (x : State) (m : SensorMaster) : Ended x { x with sensors := m } where
  eq := ⟨x.arms.units, x.spray.low, x.spray.empty, x.arb.derate, x.arb.stop, x.cond, m, [], rfl⟩
  units := fun u => ⟨(x.armOf u).holds, rfl⟩
  flags := id

theorem Ended.trans {x y z : State} (h : Ended x y) (k : Ended y z) : Ended x z where
  eq := by
    obtain ⟨a, l, e, d, st, c, m, more, rfl⟩ := h.eq
    obtain ⟨a', l', e', d', st', c', m', more', q⟩ := k.eq
    exact ⟨a', l', e', d', st', c', m', more ++ more', q.trans (by rw [List.foldl_append])⟩
  units := fun u => by
    obtain ⟨hs, e⟩ := h.units u
    obtain ⟨hs', e'⟩ := k.units u
    exact ⟨hs', e'.trans (by rw [e])⟩
  flags := fun hx => k.flags (h.flags hx)

/-- The conditions at the end of a RESTART. -/
structure RestartTested (g t : State) : Prop where
  low : t.spray.low = decide (g.setup.storedSubstitute .tank ≤ g.setup.tankLow)
  empty : t.spray.empty = decide (g.setup.storedSubstitute .tank ≤ g.setup.tankEmpty)
  oilHigh : t.cond.oilHigh = .present
  oilOver : t.cond.oilOver = if g.setup.oilOver ≤ g.setup.oilHigh then .present else .clear
  tankLow : t.cond.tankLow = if t.spray.low then .present else .clear
  tankEmpty : t.cond.tankEmpty = if t.spray.empty then .present else .clear
  loopRaised : g.setup.loopOver ≤ max (g.setup.storedSubstitute .drivePA) (g.setup.storedSubstitute .drivePB) →
    t.cond.loopOver = .present
  loopCleared : max (g.setup.storedSubstitute .drivePA) (g.setup.storedSubstitute .drivePB) <
    g.setup.loopOver - g.setup.loopHyst → t.cond.loopOver = .clear
  others : ∀ k, k ∉ testedKinds → t.cond.get k = g.cond.get k

/-- The last tests, with every channel fresh. -/
theorem lastTests {g x : State} (q : Quiesced x) (hh : HystOk x.setup) (ht : Tested g x) (hs : x.setup = g.setup)
    (hv : ∀ r, (x.sensors.channels.get r).state.usable = false) :
    RestartTested g (tankTest (loopTest (oilTest x))) := by
  have hvalue : ∀ r, x.sensor r = x.substitute r := fun r => sensor_fresh (hv r)
  obtain ⟨t1, high, above⟩ := ht.oilTest q.mode hh.oil (hvalue .oilT)
  have r1 := retold_oilTest q.mode
  have n1 : (oilTest x).sensors = x.sensors := (told_sameSensors x.sensors).oilTest rfl
  generalize oilTest x = y at *
  have hsy : y.setup = g.setup := r1.setup.trans hs
  have hvy : ∀ r, y.sensor r = y.substitute r := fun r => sensor_fresh (by rw [n1]; exact hv r)
  have hA : y.sensor .drivePA = g.setup.storedSubstitute .drivePA := by rw [← hsy]; exact hvy .drivePA
  have hB : y.sensor .drivePB = g.setup.storedSubstitute .drivePB := by rw [← hsy]; exact hvy .drivePB
  have t2 := t1.loopTest
  have o2 := oneTested_loopOver y
  have r2 := retold_loopTest y
  have n2 : (loopTest y).sensors = y.sensors := (told_sameSensors y.sensors).loopTest rfl
  rw [hA, hB, hsy] at o2
  generalize loopTest y = z at *
  have hsz : z.setup = g.setup := r2.setup.trans hsy
  have hvz : z.sensor .tank = z.setup.storedSubstitute .tank := sensor_fresh (by rw [n2, n1]; exact hv .tank)
  obtain ⟨t3, low, empty⟩ := t2.tankTest (by rw [hsz, ← hs]; exact hh.tank) hvz
  have o3 := (tankTest_tested z).others
  generalize tankTest z = t at *
  rw [hsz] at low empty
  rw [hs] at above hh
  have hloop := hh.loop
  have loop : t.cond.loopOver = _ := (o3 .loopOver nofun nofun).trans (o2.get .loopOver)
  rw [if_pos rfl] at loop
  exact {
    low := low
    empty := empty
    oilHigh := ((o3 .oilHigh nofun nofun).trans (o2.get .oilHigh)).trans high
    oilOver := ((o3 .oilOver nofun nofun).trans (o2.get .oilOver)).trans above
    tankLow := t3.tankLow
    tankEmpty := t3.tankEmpty
    loopRaised := fun h => by
      rw [le_max_iff] at h
      rcases t1.loopOver with hc | hc
      · rw [loop, if_pos ⟨hc, h⟩]
      · have hn : ¬ (g.setup.storedSubstitute .drivePA < g.setup.loopOver - g.setup.loopHyst ∧
            g.setup.storedSubstitute .drivePB < g.setup.loopOver - g.setup.loopHyst) := by omega
        rw [loop, hc, if_neg (fun h => nomatch h.1), if_neg fun h => hn h.2]
    loopCleared := fun h => by
      rw [max_lt_iff] at h
      rcases t1.loopOver with hc | hc
      · have hn : ¬ (g.setup.loopOver ≤ g.setup.storedSubstitute .drivePA ∨
            g.setup.loopOver ≤ g.setup.storedSubstitute .drivePB) := by omega
        rw [loop, hc, if_neg (fun h => hn h.2), if_neg (fun h => nomatch h.1)]
      · rw [loop, hc, if_neg (fun h => nomatch h.1), if_pos ⟨rfl, h⟩]
    others := t3.others }

/-- The Sensor Link Master at the end of a RESTART. -/
structure SensorsRestarted (g : State) (m : SensorMaster) : Prop where
  channels : ∀ r, m.channels.get r = Channel.fresh (startState (g.setup.address r))
  dustBase : m.dustBase = g.sensors.dustBase
  roundTimer : m.roundTimer = g.startMs g.setup.roundPeriod
  ends : addressed g.setup = [] → m.counter = 1 ∧ m.round = none ∧ m.line = discardedLine g.sensors.line
  waits : addressed g.setup ≠ [] → discardedLine g.sensors.line ≠ .idle → m.counter = 0 ∧
    m.round = some ⟨addressed g.setup, none, pollSettings g.setup, false⟩ ∧ m.line = discardedLine g.sensors.line
  polls : ∀ r rest, addressed g.setup = r :: rest → discardedLine g.sensors.line = .idle → m.counter = 0 ∧
    m.round = some ⟨rest, none, pollSettings g.setup, false⟩ ∧
    m.line = .sending ⟨r, .identify, byte (g.setup.address r).toNat, g.setup.holdWarming r, false, false⟩
      (masterFrame (byte (g.setup.address r).toNat) .identify) (g.after 160)

theorem restartEnd_ended {g : State} (q : Quiesced g) (hh : ∀ u, (g.armOf u).holds = [])
    (ht : HystOk g.setup → Tested g g) :
    Ended g (restartEnd g) ∧ (∀ u, takesSensed g u → ((restartEnd g).armOf u).holds = [.sensed]) ∧
    (∀ u, ¬ takesSensed g u → ((restartEnd g).armOf u).holds = []) ∧
    (HystOk g.setup → RestartTested g (restartEnd g)) ∧ SensorsRestarted g (restartEnd g).sensors := by
  have q0 : Quiesced (sensorsEmptied g) := ⟨q.mode, ⟨q.still.wanted, q.still.q, q.still.seq⟩, q.brush, q.units⟩
  have t0 : HystOk (sensorsEmptied g).setup → Tested (sensorsEmptied g) (sensorsEmptied g) := fun hy =>
    { ht hy with others := fun _ _ => rfl }
  have polling := polling_fold q0 allRoles _ (by decide) (polling_start hh t0)
  have hdef : restartEnd g = tankTest (loopTest (oilTest (startRound
      (allRoles.foldl (fun s r => restartChannel r s) (sensorsEmptied g))))) := by rw [← sensorsRestart_eq]; rfl
  rw [hdef]
  generalize allRoles.foldl (fun s r => restartChannel r s) (sensorsEmptied g) = p at *
  obtain ⟨a, l, e, d, st, c, ch, more, hp⟩ := polling.retold.eq
  have hsensors : p.sensors = { (sensorsEmptied g).sensors with channels := ch } := by rw [hp]
  have hclock : p.clock = g.clock := by rw [hp]; rfl
  have hset : p.setup = g.setup := polling.retold.setup
  have fresh : AllFresh p := ⟨fun r => by rw [hset]; exact polling.channels r, by rw [hsensors]; rfl⟩
  have hline : p.sensors.line = discardedLine g.sensors.line := by rw [hsensors]; rfl
  have hdust : p.sensors.dustBase = g.sensors.dustBase := by rw [hsensors]; rfl
  obtain ⟨ends, waits, polls⟩ := fresh.startRound
  obtain ⟨hchannels, hbase, htimer⟩ := startRound_keeps p
  have qp := polling.retold.quiesced q0
  have hround := startRound_eq p
  generalize (startRound p).sensors = m at *
  rw [hround]
  have qx : Quiesced { p with sensors := m } := ⟨qp.mode, qp.still, qp.brush, qp.units⟩
  have last : Retold { p with sensors := m } (tankTest (loopTest (oilTest { p with sensors := m }))) := by
    have r1 := retold_oilTest qx.mode
    have r2 := r1.trans (retold_loopTest _)
    exact r2.trans (retold_tankTest (r2.quiesced qx))
  have lastSensors : (tankTest (loopTest (oilTest { p with sensors := m }))).sensors = m :=
    have told := told_sameSensors m
    told.tankTest (told.loopTest (told.oilTest rfl))
  have lastArms : (tankTest (loopTest (oilTest { p with sensors := m }))).arms = p.arms :=
    (tankTest_tested _).aside.arms.trans ((oneTested_loopOver _).aside.arms.trans (oilTest_arms qx.mode))
  have lastUnit : ∀ u, (tankTest (loopTest (oilTest { p with sensors := m }))).armOf u = p.armOf u := fun u =>
    congrArg (fun a : Arms => a.units.get u) lastArms
  have tested : HystOk g.setup → RestartTested (sensorsEmptied g) (tankTest (loopTest (oilTest { p with sensors := m }))) :=
    fun hy => lastTests qx (by rw [show State.setup _ = p.setup from rfl, hset]; exact hy)
      ((polling.tested hy).same rfl rfl rfl) hset fun r => by
        rw [show State.sensors _ = m from rfl, hchannels, fresh.channels]
        exact fresh_unusable _
  generalize tankTest (loopTest (oilTest { p with sensors := m })) = t at *
  refine ⟨((ended_sensors g _).trans polling.retold.ended).trans ((ended_sensors p m).trans last.ended), fun u hu => ?_,
    fun u hu => ?_, fun hy => ?_, ?_⟩
  · rw [lastUnit]
    exact polling.sensed u List.not_mem_nil hu
  · rw [lastUnit]
    exact polling.free u (.inr hu)
  · obtain ⟨h1, h2, h3, h4, h5, h6, h7, h8, h9⟩ := tested hy
    exact ⟨h1, h2, h3, h4, h5, h6, h7, h8, h9⟩
  · rw [lastSensors]
    rw [hset, hline] at ends waits polls
    exact {
      channels := fun r => by rw [hchannels, fresh.channels, hset]
      dustBase := hbase.trans hdust
      roundTimer := by rw [htimer, startMs_some, startMs_some, hclock, hset]
      ends := ends
      waits := waits
      polls := fun r rest h1 h2 => by
        rw [State.after, ← hclock]
        exact polls r rest h1 h2 }

end Sys2Proof.Machine
end

section
/-! RESTART: what it leaves, and its judgement (R13, R164, R171). -/

namespace Sys2Proof.Machine

theorem performRestart_eq (s : State) : performRestart s = restartEnd (restartBehind (restartAnnounced s)) := rfl

/-! ## From the announced mode to the announced recipe -/

/-- What a RESTART leaves up to the announced recipe, told of the state before it. -/
structure RestartBegun (s g : State) : Prop where
  body : BodyRestarted (restartAnnounced s) g
  eq : ∃ (a : Arms) (b : Brushes) (d st : Bool) (c : CondTable) (more : List Report), g = { s with
    mc := ⟨.settle, .park, s.startMs (if s.pins.settleStrap then 1000 else 100), none⟩
    pcu := restartedPulses s
    drive := { restartedDrive s.drive with
      speedCap := fieldSpeedCap s.fields0
      accelStep := fieldAccelStep s.fields0
      decelStep := fieldDecelStep s.fields0 }
    arms := a
    brush := b
    spray := freshWater s.fields0
    arb := { Arbiter.restarted s with
      derate := d
      stop := st
      consumers := recipeLevels s.fields0 (s.arb.consumers.map fun c => { c with
        grant := 0
        share := 1000 }) }
    recipes := restartedRecipes s
    sensors := { s.sensors with dustBase := fieldDustBase s.fields0 }
    cond := c
    link := (Report.mode .settle .park :: more).foldl LinkPort.post { s.link with
      reports := []
      lost := false } }
  flags : FlagsAgree g
  conditions : ∀ k, g.cond.get k = if k = .supplyStale then .present else faultedRecord s k .clear

theorem CondTable.get_clear (k : CondKind) : CondTable.clear.get k = .clear := by
  cases k with
  | brushStall u => cases u <;> rfl
  | brushStarved u => cases u <;> rfl
  | brushLag u => cases u <;> rfl
  | armTimeout u => cases u <;> rfl
  | switch u => cases u <;> rfl
  | sensorLost r => cases r <;> rfl
  | _ => rfl

theorem restart_begun (s : State) : RestartBegun s (restartBehind (restartAnnounced s)) := by
  obtain ⟨b, p, e, hb⟩ := restartAnnounced_parts s
  have h := restartBehind_restarted (s := restartAnnounced s) (by rw [e]) (fun u => by rw [hb]; exact ⟨rfl, rfl, rfl⟩)
    (fun u => by rw [hb]; exact ⟨rfl, rfl, rfl, rfl, rfl⟩)
    ⟨by rw [e]; exact nofun, by rw [e]; exact nofun, by rw [e]; exact nofun⟩
  obtain ⟨body, heq, flags, conditions⟩ := h
  refine ⟨body, ?_, flags, fun k => ?_⟩
  · clear body flags conditions hb
    generalize restartBehind (restartAnnounced s) = g at *
    generalize restartAnnounced s = z at *
    have hfields : z.fields0 = s.fields0 := by rw [e]; rfl
    have harb : Arbiter.restarted z = Arbiter.restarted s := by rw [e]; rfl
    have hrecipes : restartedRecipes z = restartedRecipes s := by rw [e]; rfl
    have hconsumers : z.arb.consumers = s.arb.consumers := by rw [e]
    have hsensors : z.sensors = s.sensors := by rw [e]
    have hdrive : z.drive = restartedDrive s.drive := by rw [e]
    have hlink : z.link = { s.link with
      reports := []
      lost := false }.post (.mode .settle .park) := by rw [e]
    obtain ⟨a, b', d, st, c, more, eg⟩ := heq
    rw [hfields, harb, hrecipes, hconsumers, hsensors, hdrive, hlink] at eg
    refine ⟨a, b', d, st, c, more, ?_⟩
    rw [eg, e, List.foldl_cons]
  · have hpins : (restartAnnounced s).pins = s.pins := by rw [e]
    have hcond : (restartAnnounced s).cond = CondTable.clear := by rw [e]
    rw [conditions, hcond, CondTable.get_clear]
    unfold faultedRecord
    rw [hpins]

section
variable {s g t : State} (h : RestartBegun s g)
include h

theorem RestartBegun.setup : g.setup = s.setup := by
  obtain ⟨a, b, d, st, c, more, e⟩ := h.eq
  rw [e]

theorem RestartBegun.spray : g.spray = freshWater s.fields0 := by
  obtain ⟨a, b, d, st, c, more, e⟩ := h.eq
  rw [e]

/-- The brushes once the recipe is announced. -/
theorem RestartBegun.brush (u : BrushUnit) : ∃ sp d, g.brushOf u = (({ (s.brushOf u).restarted with
    spin := sp
    heightDown := d } : BrushRec).named (fieldTable s.fields0 u)) := by
  obtain ⟨b, p, e, hb⟩ := restartAnnounced_parts s
  obtain ⟨sp, d, hr⟩ := h.body.records u
  have hf : (restartAnnounced s).fields0 = s.fields0 := by
    rw [e]
    rfl
  exact ⟨sp, d, by rw [hr, hb, hf]⟩

theorem RestartBegun.quiesced : Quiesced g where
  mode := by
    obtain ⟨a, b, d, st, c, more, e⟩ := h.eq
    rw [e]
  still := by
    rw [h.spray]
    exact still_freshWater _
  brush := fun u => by
    obtain ⟨sp, d, e⟩ := h.brush u
    rw [e]
    exact ⟨rfl, rfl⟩
  units := h.body.goals

theorem RestartBegun.tested : Tested g g where
  low := by
    rw [h.spray]
    exact nofun
  empty := by
    rw [h.spray]
    exact nofun
  tankLow := by
    rw [h.spray]
    exact h.conditions .tankLow
  tankEmpty := by
    rw [h.spray]
    exact h.conditions .tankEmpty
  oilHigh := .inl (h.conditions .oilHigh)
  oilOver := .inl (h.conditions .oilOver)
  loopOver := .inl (h.conditions .loopOver)
  others := fun _ _ => rfl

/-- A unit's channel was usable when the channels started afresh exactly if it was before the RESTART. -/
theorem RestartBegun.takesSensed_iff (u : BrushUnit) : takesSensed g u ↔ takesSensed s u := by
  obtain ⟨a, b, d, st, c, more, e⟩ := h.eq
  rw [e]
  rfl

end

/-! ## The end of a RESTART -/

/-- What a RESTART leaves outside the arms' and brushes' units and the Sensor Link Master. -/
theorem restart_joined {s g t : State} (h : RestartBegun s g) (k : Ended g t) :
    ∃ (a : Arms) (b : Brushes) (low empty d st : Bool) (c : CondTable) (m : SensorMaster) (more : List Report), t = { s with
    mc := ⟨.settle, .park, s.startMs (if s.pins.settleStrap then 1000 else 100), none⟩
    pcu := restartedPulses s
    drive := { restartedDrive s.drive with
      speedCap := fieldSpeedCap s.fields0
      accelStep := fieldAccelStep s.fields0
      decelStep := fieldDecelStep s.fields0 }
    arms := a
    brush := b
    spray := { freshWater s.fields0 with
      low := low
      empty := empty }
    arb := { Arbiter.restarted s with
      derate := d
      stop := st
      consumers := recipeLevels s.fields0 (s.arb.consumers.map fun c => { c with
        grant := 0
        share := 1000 }) }
    recipes := restartedRecipes s
    sensors := m
    cond := c
    link := (Report.mode .settle .park :: more).foldl LinkPort.post { s.link with
      reports := []
      lost := false } } := by
  obtain ⟨a, b, d, st, c, more, e⟩ := h.eq
  obtain ⟨units, low, empty, d', st', c', m, more', e'⟩ := k.eq
  refine ⟨{ g.arms with units := units }, b, low, empty, d', st', c', m, more ++ more', ?_⟩
  rw [e', ← List.cons_append, List.foldl_append]
  rw [e]

theorem restartedRound {s g : State} {m : SensorMaster} (hs : g.setup = s.setup) (hl : g.sensors.line = s.sensors.line)
    (hc : g.clock = s.clock) (h : SensorsRestarted g m) : RestartedRound s m := by
  have hidle : discardedLine s.sensors.line = .idle ↔ s.sensors.line = .idle := by
    cases s.sensors.line <;> simp [discardedLine]
  obtain ⟨-, -, -, ends, waits, polls⟩ := h
  rw [hs, hl] at ends waits polls
  rw [State.after, hc] at polls
  exact ⟨ends, fun hd hn => waits hd (mt hidle.1 hn), fun r rest hd hn => polls r rest hd (hidle.2 hn)⟩

end Sys2Proof.Machine
end

section
/-! RESTART: the values that it leaves, and its judgement (R13, R164, R171). -/

namespace Sys2Proof.Machine

theorem named_reselect {b : BrushRec} {table : Fin 4} (h : b.reselect = false) :
    (b.named table).reselect = (table != b.table) := by
  have hdef : (b.named table).reselect = (b.reselect || decide (table ≠ b.table)) := rfl
  rw [hdef, h, Bool.false_or, bne, decide_not]
  rfl

theorem restarted_of {s g t : State} (h : RestartBegun s g) (k : Ended g t) (m : SensorsRestarted g t.sensors) :
    Restarted s t := by
  have hunit := k.units
  have hflags := k.flags h.flags
  have hbrush : t.brush = g.brush := by
    obtain ⟨a, l, e, d, st, c, mm, more, et⟩ := k.eq
    rw [et]
  have hbrushOf : ∀ u, t.brushOf u = g.brushOf u := fun u => by rw [State.brushOf, hbrush]; rfl
  obtain ⟨units, ha⟩ : ∃ units, t.arms = { g.arms with units := units } := by
    obtain ⟨a, l, e, d, st, c, mm, more, et⟩ := k.eq
    exact ⟨a, by rw [et]⟩
  obtain ⟨pins, hf, hends⟩ : (restartAnnounced s).pins = s.pins ∧ (restartAnnounced s).fields0 = s.fields0 ∧
      abandonedEnds (restartAnnounced s) = abandonedEnds s := by
    obtain ⟨b, p, e, -⟩ := restartAnnounced_parts s
    rw [e]
    exact ⟨rfl, rfl, rfl⟩
  have hcopies : ∀ u, (SpinCopied u s → SpinCopied u (restartAnnounced s)) ∧
      (HeightCopied u s → HeightCopied u (restartAnnounced s)) := fun u => by
    obtain ⟨b, p, e, hb⟩ := restartAnnounced_parts s
    have hr : (restartAnnounced s).armOf u = s.armOf u := by
      rw [e]
      rfl
    rw [SpinCopied, SpinCopied, HeightCopied, HeightCopied, hb, hr]
    exact ⟨id, id⟩
  obtain ⟨hsetup, hclock, hsensors⟩ : g.setup = s.setup ∧ g.clock = s.clock ∧
      g.sensors = { s.sensors with dustBase := fieldDustBase s.fields0 } := by
    obtain ⟨a, b, d, st, c, more, e⟩ := h.eq
    rw [e]
    exact ⟨rfl, rfl, rfl⟩
  have fresh := h.body.fresh
  have rates := h.body.rates
  have mask := h.body.mask
  have lastEnd := h.body.lastEnd
  rw [pins] at fresh
  rw [hf] at rates mask
  rw [hends] at lastEnd
  have hbrushes := h.brush
  obtain ⟨a, b, low, empty, d, st, c, mm, more, et⟩ := restart_joined h k
  exact {
    mc := by
      rw [et]
      cases s.pins.settleStrap <;> rfl
    pcu := by rw [et]; rfl
    drive := by rw [et]; rfl
    brush := fun u => by
      obtain ⟨sp, dn, e⟩ := hbrushes u
      rw [hbrushOf, e]
      refine ⟨rfl, rfl, rfl, rfl, rfl, rfl, rfl, rfl, rfl, rfl, rfl, rfl, rfl, ?_⟩
      exact named_reselect rfl
    brushCopies := fun u => by
      obtain ⟨hs, e⟩ := hunit u
      rw [hbrushOf, e]
      refine ⟨fun hc => ?_, fun hc => ?_⟩
      · exact (h.body.spin u ((hcopies u).1 hc)).trans (fresh u).spin
      · exact h.body.height u ((hcopies u).2 hc)
    brushRates := by rw [hbrush]; exact rates
    posture := fun u => by
      obtain ⟨hs, e⟩ := hunit u
      rw [e]
      exact ⟨(fresh u).spin, (fresh u).reach, (fresh u).height⟩
    activity := fun u => by
      obtain ⟨hs, e⟩ := hunit u
      rw [e]
      exact (fresh u).activity
    goals := fun u => by
      obtain ⟨hs, e⟩ := hunit u
      rw [e]
      exact h.body.goals u
    armTimers := fun u => by
      obtain ⟨hs, e⟩ := hunit u
      rw [e]
      exact ⟨(fresh u).spinDown, (fresh u).release⟩
    lastEnd := fun kind => by
      rw [ha]
      exact (congrArg (fun p => p.get kind) lastEnd).trans (abandonedEnds_get s kind)
    manifold := by
      rw [ha]
      exact ⟨h.body.queue, h.body.action, h.body.spacing, h.body.demand, mask⟩
    water := by rw [et]; rfl
    arb := by rw [et]; exact ⟨rfl, rfl, rfl, rfl, rfl, rfl⟩
    reactions := hflags
    recipes := by rw [et]; rfl
    channels := fun r => by rw [m.channels, hsetup]; rfl
    roundTimer := by rw [m.roundTimer, startMs_some, hclock, hsetup]
    dustBase := by rw [m.dustBase, hsensors]; rfl
    round := restartedRound hsetup (by rw [hsensors]) hclock m
    setup := by rw [et]
    pins := by rw [et]
    clock := by rw [et]
    free := by rw [et]
    pending := by rw [et] }

theorem pairsClear_eq (w : Switches) : pairsClear w = !((w.isIn && w.out) || (w.up && w.down)) :=
  (Bool.not_or _ _).symm

/-- What stands in the condition table at the end of a RESTART. -/
theorem restart_conditions {s g t : State} (h : RestartBegun s g) (k : RestartTested g t) :
    let raised (p : Bool) : CondState := if p then .present else .clear
    let w (u : BrushUnit) := s.pins.switches.get u
    ∀ kind, kind ≠ .loopOver → t.cond.get kind = raised (match kind with
      | .oilHigh | .supplyStale => true
      | .oilOver => decide (s.setup.oilOver ≤ s.setup.oilHigh)
      | .tankLow => decide (s.setup.storedSubstitute .tank ≤ s.setup.tankLow)
      | .tankEmpty => decide (s.setup.storedSubstitute .tank ≤ s.setup.tankEmpty)
      | .switch u => ((w u).isIn && (w u).out) || ((w u).up && (w u).down)
      | _ => false) := by
  intro raised w kind hk
  obtain ⟨low, empty, high, above, tankLow, tankEmpty, -, -, others⟩ := k
  rw [h.setup] at low empty above
  rw [low] at tankLow
  rw [empty] at tankEmpty
  have kept : ∀ kind, kind ∉ testedKinds → t.cond.get kind =
      if kind = .supplyStale then .present else faultedRecord s kind .clear := fun kind hn =>
    (others kind hn).trans (h.conditions kind)
  cases kind with
  | loopOver => exact absurd rfl hk
  | oilHigh => exact high
  | oilOver => exact above.trans (by simp [raised])
  | tankLow => exact tankLow
  | tankEmpty => exact tankEmpty
  | switch u =>
    rw [kept _ (by simp [testedKinds]), if_neg nofun]
    simp only [faultedRecord, raised, w, pairsClear_eq, Bool.not_eq_false']
  | _ => exact kept _ (by simp [testedKinds])

/-! ## The reply beside the reports -/

/-- Posting reports does not touch the receive buffer, so that a reply may be attached before or behind them. -/
theorem foldl_post_rx (f : List Place → List Place) : ∀ (reports : List Report) (l : LinkPort),
    ({ reports.foldl LinkPort.post l with rx := f (reports.foldl LinkPort.post l).rx } : LinkPort) =
      reports.foldl LinkPort.post { l with rx := f l.rx }
  | [], _ => rfl
  | r :: reports, l => by
    have hpost : ({ l.post r with rx := f (l.post r).rx } : LinkPort) = ({ l with rx := f l.rx } : LinkPort).post r := by
      unfold LinkPort.post
      split <;> rfl
    rw [List.foldl_cons, List.foldl_cons, foldl_post_rx f reports (l.post r), hpost]

/-- The link port before and after does not matter. -/
theorem Restarted.answered {s t : State} {l : LinkPort} (h : Restarted { s with link := l } t) (reply : List Byte) :
    Restarted s (t.replied reply).sent :=
  { h with }

/-! ## The judgement -/

/-- What an accepted RESTART leaves before its reply. -/
theorem performRestart_restarted (s : State) :
    Restarted s (performRestart s) ∧
    (∀ u, ((performRestart s).armOf u).holds = if u ≠ .m ∧ s.usable (curbRole u) = true ∧
      s.setup.storedSubstitute (curbRole u) < s.setup.obstacle then [.sensed] else []) ∧
    (∃ g, RestartBegun s g ∧ (HystOk s.setup → RestartTested g (performRestart s))) ∧
    ∃ more : List Report, (performRestart s).link = (Report.mode .settle .park :: more).foldl LinkPort.post { s.link with
      reports := []
      lost := false } := by
  have h := restart_begun s
  rw [performRestart_eq]
  generalize restartBehind (restartAnnounced s) = g at *
  obtain ⟨ended, sensed, free, tested, sensors⟩ := restartEnd_ended h.quiesced (fun u => (h.body.fresh u).holds)
    fun _ => h.tested
  generalize restartEnd g = t at *
  refine ⟨restarted_of h ended sensors, fun u => ?_, ⟨g, h, fun hy => tested (by rw [h.setup]; exact hy)⟩, ?_⟩
  · by_cases hu : takesSensed s u
    · rw [sensed u ((h.takesSensed_iff u).2 hu)]
      exact (if_pos hu).symm
    · rw [free u (mt (h.takesSensed_iff u).1 hu)]
      exact (if_neg hu).symm
  · obtain ⟨a, b, low, empty, d, st, c, m, more, e⟩ := restart_joined h ended
    exact ⟨more, by rw [e]⟩

/-- Settles O17: the blocks one behind the other, the channels in role order, then the last tests. -/
theorem restartIsAcceptedInParkOrStopped : Obligations.RestartIsAcceptedInParkOrStopped := by
  intro s tag hr hm h
  have hexec : exec (.restart tag []) s =
      finish (takeRequest 0x18 tag [] (guarded true (notInStandby takeRestart)) s) := rfl
  rw [hexec]
  refine ⟨fun refused => finish_judged hr hm ?_, fun accepted => ?_⟩
  · by_cases hs : s.mc.mode = .standby
    · exact notInStandby_standby (s := h) hs
    · obtain ⟨hp, hstop⟩ := refused.resolve_left hs
      rw [notInStandby_taken (s := s.holding 0x18 tag []) hs]
      refine if_neg ?_
      rintro (hpark | hstopped)
      · exact hp hpark
      · exact Bool.false_ne_true (hstop.symm.trans hstopped)
  · have hs : h.mc.mode ≠ .standby := by
      rcases accepted with hp | ⟨hs, -⟩
      · intro hs
        exact nomatch hp.symm.trans hs
      · exact hs
    have hgo : h.mc.mode = .park ∨ h.stopped = true := accepted.imp id And.right
    have hact : notInStandby takeRestart h = (performRestart h, [0x00]) := by
      rw [notInStandby_taken hs]
      exact if_pos hgo
    obtain ⟨restarted, holds, ⟨g, begun, tested⟩, more, hlink⟩ := performRestart_restarted h
    generalize performRestart h = t at *
    refine ⟨(t.replied [0x00]).sent, more, finish_judged hr hm hact,
      Restarted.answered (s := s) (l := s.link.holding 0x18 tag []) restarted [0x00], holds,
      fun hok => ?_, ?_⟩
    · have tests := tested hok.hyst
      have conditions := restart_conditions begun tests
      obtain ⟨low, empty, -, -, -, -, loopRaised, loopCleared, -⟩ := tests
      rw [begun.setup] at low empty loopRaised loopCleared
      exact ⟨low, empty, conditions, loopRaised, loopCleared⟩
    · have attached := foldl_post_rx (attachReply [0x00]) (Report.mode .settle .park :: more) { h.link with
        reports := []
        lost := false }
      rw [← hlink] at attached
      exact congrArg LinkPort.transmit attached

end Sys2Proof.Machine
end
